-- ==== Sys2Proof/Word.lean ====
section
/-! DEFINITION. The finite names and units of the HC-1228 (Conventions of 00_scope): transmitters, outputs, banks,
sense lines, the interval timer and the clock, and the fixed-size table with one update. -/

namespace Sys2Proof

/-- T1 to T12, counted from 0. -/
abbrev Tx := Fin 12
/-- A1 to A24 are 0 to 23, L1 to L4 are 24 to 27. -/
abbrev Out := Fin 28
/-- Banks 1 to 4, counted from 0. -/
abbrev BankNo := Fin 4
/-- The interval timer: milliseconds since power-on (R36). -/
abbrev Ms := Nat
/-- The station clock: tenths of a millisecond since 0000-01-01 00:00:00 (log 1). -/
abbrev ClockTick := Nat
/-- A clock reading to the second, an instant to the minute, a date: counted from 0000-01-01. -/
abbrev Seconds := Nat
abbrev Minutes := Nat
abbrev Day := Nat

/-- A table of `n` records. -/
abbrev Tab (α : Type) (n : Nat) := Vector α n

/-- Replace record `i` by `f` of it. -/
def upd {α : Type} {n : Nat} (v : Tab α n) (i : Fin n) (f : α → α) : Tab α n := v.set i (f v[i])

@[simp] theorem get_upd {α : Type} {n : Nat} (v : Tab α n) (i j : Fin n) (f : α → α) :
    (upd v i f)[j] = if i = j then f v[i] else v[j] := by
  simp [upd, Vector.getElem_set, Fin.ext_iff]

/-- The table with the same record everywhere. -/
def tab {α : Type} (n : Nat) (a : α) : Tab α n := Vector.replicate n a

@[simp] theorem get_tab {α : Type} (n : Nat) (a : α) (i : Fin n) : (tab n a)[i] = a := by simp [tab]

/-- All numbers below `n`, ascending. -/
def idxs (n : Nat) : List (Fin n) := List.finRange n

/-- The transmitters in ascending order. -/
def allTx : List Tx := idxs 12
/-- The outputs in ascending order. -/
def allOut : List Out := idxs 28
def allBanks : List BankNo := idxs 4

/-- A1 to A24 are antennas, L1 to L4 are dummy loads (R80). -/
def isLoad (o : Out) : Bool := decide (24 ≤ o.val)

end Sys2Proof
end

