-- ==== Sys2Proof/Syntax.lean ====
section
/-! DEFINITION. The commands of the HC-1228: one constructor of `Instr` per row of spec/opcode_table.json, with the
operands the row's rule gives it. A request's operands are what its line carries: a name outside the manual's lists is
`none` of that operand, a number is carried as written, so that RANGE can be answered (R215); a number of CHECK that is not in
its written form is `none` of it (R88). -/

namespace Sys2Proof

/-- R1: FULL, REDUCED, DIGITAL. -/
inductive Mode where | full | reduced | digital
deriving DecidableEq, Repr

/-- A date as written, YYYY-MM-DD; it need not exist. -/
structure DateForm where
  year : Nat
  month : Nat
  day : Nat
deriving DecidableEq, Repr

/-- R1: an entry as a request carries it. `days` holds Monday in bit 0 to Sunday in bit 6. Minutes are written HHMM. -/
structure EntryForm where
  id : Nat
  tx : Option Tx
  freq : Nat
  mode : Option Mode
  out : Option Out
  preset : Option Nat
  power : Nat
  prog : Nat
  start : Nat
  stop : Nat
  days : BitVec 7
  prio : Nat
  valid : Option DateForm
  untilD : Option DateForm
  lead : Option Nat
deriving DecidableEq, Repr

/-- R20. -/
inductive ChangeKind where | add | withdraw | amend
deriving DecidableEq, Repr

/-- R176: the four aspects of a hold. -/
inductive Aspect where | inhibit | output | frequency | power
deriving DecidableEq, Repr

/-- R177: an aspect with its value as a request carries it. -/
inductive HoldForm where
  | inhibit
  | output (out : Option Out) (preset : Option Nat)
  | frequency (freq : Nat) (mode : Option Mode)
  | power (kw : Nat)
deriving DecidableEq, Repr

/-- R184: a plan step as a request carries it. `none` of a form or an aspect: not of the four, or a value not its own. -/
inductive StepForm where
  | setHold (t : Option Tx) (v : Option HoldForm)
  | clearHold (t : Option Tx) (a : Option Aspect)
deriving DecidableEq, Repr

/-- R157: the fifty sense lines. -/
inductive SenseLine where
  | rfp (t : Tx) | refl (t : Tx) | arc (t : Tx) | door (t : Tx) | estop | pulse
deriving DecidableEq, Repr

/-- R157. -/
inductive SenseMode where | levelHigh | levelLow | edgeRise | edgeFall
deriving DecidableEq, Repr

/-- R160: a line, or a position for its four lines. -/
inductive SenseSubject where
  | line (l : SenseLine) | position (t : Tx)
deriving DecidableEq, Repr

/-- R114. -/
inductive MatrixSubject where
  | out (o : Out) | tx (t : Tx)
deriving DecidableEq, Repr

/-- R92: the made and the broken contact of one row, each SHOWN or CLEAR. -/
structure Contacts where
  made : Bool
  broken : Bool
deriving DecidableEq, Repr

/-- R121: what a drive unit reports. -/
inductive DriveReport where
  | atRest (az : Nat) | moving (az : Nat) | atTarget (az : Nat)
deriving DecidableEq, Repr

/-- R135: cabinet trip causes. -/
inductive CabTrip where | reflected | arc | overcurrent | supply | thermal
deriving DecidableEq, Repr

/-- R135: the cabinet's condition with the fields present in it. -/
inductive Cond where
  | cold | warming | standby | tuning
  | tuned (freq : Nat) (mode : Mode)
  | raising (freq : Nat) (mode : Mode) (kw : Nat)
  | on (freq : Nat) (mode : Mode) (kw : Nat)
  | lowering (freq : Nat) (mode : Mode) (kw : Nat)
  | tripped (cause : CabTrip)
  | cooling
deriving DecidableEq, Repr

/-- R135. -/
inductive DeclineReason where | isLocal | state | interlock | range
deriving DecidableEq, Repr

inductive Answer where
  | taken | declined (r : DeclineReason)
deriving DecidableEq, Repr

/-- R135: a valid reply. -/
structure CabReply where
  cond : Cond
  loc : Bool
  answer : Option Answer
  lastNo : Option Nat
deriving DecidableEq, Repr

/-- R218. -/
inductive Dir where | inn | out | both
deriving DecidableEq, Repr

/-- The requests of the manual, and a name that is none of them, as a line wrote it (R215). -/
inductive Req where
  | bankOpen | entryPut | entryDrop | bankCommit | bankUncommit | bankRelease | bankRestage | bankStatus | entryGet
  | entryList | changePost | changeList | timeSet | timeStatus | engineSet | quiesce | resume | assignmentStatus
  | deferralList | exclusionAdd | exclusionDrop | outputDefine | outputUndefine | exclusionList | outputGet | check
  | licenceLock | matrixStatus | motionList | positionerSet | presetSet | positionerStatus | txDefine | txUndefine
  | txStatus | senseSet | senseStatus | recoverySet | holdSet | holdClear | holdStatus | planLoad | planDrop | planGet
  | planSet | directiveStatus | directivePost | directiveWithdraw | faultClear | faultList | faultGet
  | faultClearOverflow | hallStatus | identify | resync | hallReset | sectionReset | storeErase
  | other (name : List Char)
deriving DecidableEq, Repr

/-- R215: what a line refused for its form gave of the reply's head: its tag, and the request's name (log 9). -/
structure LineHead where
  tag : Option Nat
  name : Option Req
deriving DecidableEq, Repr

/-- One command to the block: a host request (with its tag), a report from a plant line, or a time event. -/
inductive Instr where
  -- power and link
  | powerOn
  | lineComplete (chars : List Char)
  | requestBadForm (head : LineHead)
  | outboundLineSent
  -- banks
  | bankOpen (tag bank : Nat) (label : Option (List Char))
  | entryPut (tag bank : Nat) (entry : EntryForm)
  | entryDrop (tag bank id : Nat)
  | bankCommit (tag bank : Nat) (date : DateForm) (hhmm : Nat)
  | bankUncommit (tag bank : Nat)
  | bankRelease (tag bank : Nat)
  | bankRestage (tag bank : Nat) (label : Option (List Char))
  | bankStatus (tag bank : Nat)
  | entryGet (tag bank id : Nat)
  | entryList (tag bank first : Nat)
  -- change queue
  | changePost (tag bank : Nat) (kind : Option ChangeKind) (id : Nat) (entry : Option EntryForm)
  | changeList (tag : Nat)
  -- time
  | timeSet (tag : Nat) (date : DateForm) (h m sec : Nat)
  | timeStatus (tag : Nat)
  | minuteEvent
  | slewWorkedOff
  | pulseAbsenceTimeout
  -- engine
  | engineSet (tag : Nat) (lead cool : Option Nat)
  | quiesce (tag : Nat)
  | resume (tag : Nat)
  | assignmentStatus (tag : Nat) (t : Option Tx)
  | deferralList (tag : Nat)
  | idleTimerExpiry (t : Tx)
  -- frequency check
  | exclusionAdd (tag low high : Nat) (modes : Option (List (Option Mode)))
  | exclusionDrop (tag index : Nat)
  | outputDefine (tag : Nat) (o : Option Out) (low high rating throw : Option Nat) (slew : Option Bool)
  | outputUndefine (tag : Nat) (o : Option Out)
  | exclusionList (tag : Nat)
  | outputGet (tag : Nat) (o : Option Out)
  | check (tag : Nat) (freq : Option Nat) (mode : Option Mode) (o : Option Out) (power : Option Nat) (t : Option (Option Tx))
  | licenceLock (tag : Nat)
  -- matrix
  | columnReport (o : Out) (rows : Vector Contacts 12)
  | readTimeout (o : Out)
  | throwTimeout (t : Tx) (o : Out)
  | matrixStatus (tag : Nat) (subject : Option MatrixSubject)
  | motionList (tag : Nat)
  -- positioners
  | positionerSet (tag : Nat) (o : Option Out) (line rate : Option Nat)
  | presetSet (tag : Nat) (o : Option Out) (preset : Nat) (az : Option Nat)
  | positionerStatus (tag : Nat) (o : Option Out)
  | positionerReport (line : Fin 8) (report : DriveReport)
  | queryTimeout (o : Out)
  | queryRepeat (o : Out)
  | readFullTravelTimeout (o : Out)
  | slewTimeout (o : Out)
  -- transmitters
  | txDefine (tag : Nat) (t : Option Tx) (rating warm tune raise lower : Option Nat)
  | txUndefine (tag : Nat) (t : Option Tx)
  | txStatus (tag : Nat) (t : Option Tx)
  | cabinetSlot (t : Tx)
  | cabinetReply (t : Tx) (r : CabReply)
  | missedReply (t : Tx)
  | warmTimeout (t : Tx)
  | tuneTimeout (t : Tx)
  | raiseTimeout (t : Tx)
  | lowerTimeout (t : Tx)
  | coolTimeout (t : Tx)
  | clearTripTimeout (t : Tx)
  -- sense lines and recovery
  | senseRawChange (l : SenseLine) (high : Bool)
  | qualificationTimerExpiry (l : SenseLine)
  | senseSet (tag : Nat) (l : Option SenseLine) (mode : Option (Option SenseMode)) (mask : Option Bool)
      (qual : Option Nat)
  | senseStatus (tag : Nat) (subject : Option SenseSubject)
  | recoverySet (tag : Nat) (delay retries window foldback : Option Nat)
  | tripWindowEntryExpiry (t : Tx)
  | recoveryDelayExpiry (t : Tx)
  -- holds and plans
  | holdSet (tag : Nat) (t : Option Tx) (v : Option HoldForm)
  | holdClear (tag : Nat) (t : Option Tx) (a : Option Aspect)
  | holdStatus (tag : Nat) (t : Option (Option Tx))
  | planLoad (tag plan : Nat) (steps : List StepForm)
  | planDrop (tag plan : Nat)
  | planGet (tag plan : Nat)
  | planSet (tag : Nat) (step : Option Nat)
  | directiveStatus (tag : Nat)
  | directivePost (tag plan : Nat)
  | directiveWithdraw (tag : Nat)
  | planStepTimeout
  -- faults
  | faultClear (tag seq : Nat)
  | faultList (tag first : Nat)
  | faultGet (tag seq : Nat)
  | faultClearOverflow (tag : Nat)
  -- adoption, hall, resets
  | adoptionConditionLapse (t : Tx)
  | hallStatus (tag : Nat)
  | identify (tag : Nat)
  | resync (tag : Nat) (dir : Option (Option Dir))
  | hallReset (tag : Nat)
  | sectionReset (tag : Nat) (t : Option Tx)
  | storeErase (tag : Nat)
deriving DecidableEq, Repr

end Sys2Proof
end

