-- ==== Sys2Proof/Config.lean ====
section
/-! DEFINITION. What the manual names but does not give a value: the card's revision letter (R217); and the sizes the
manual fixes, each once. -/

namespace Sys2Proof.Config

/-- R217: the card's revision, one capital letter, counted from A. The manual gives no letter: uninterpreted (log 10). -/
opaque revision : Fin 26

/-- R4: entries in one bank. -/
def maxEntries : Nat := 400
/-- R20: changes in the queue. -/
def maxChanges : Nat := 16
/-- R67: items of the deferral list. -/
def maxDeferral : Nat := 24
/-- R69: items of one stack. -/
def maxStack : Nat := 4
/-- R77: exclusion ranges. -/
def maxExclusions : Nat := 16
/-- R80: slewable antennas. -/
def maxSlewable : Nat := 8
/-- R167: entries of a trip window. -/
def maxWindow : Nat := 8
/-- R194: fault records. -/
def maxFaults : Nat := 48
/-- R216: lines of the notice queue. -/
def maxNotices : Nat := 32
/-- R213: characters of one line. -/
def maxLine : Nat := 480
/-- Conventions: the tuning range. -/
def freqLow : Nat := 2300
def freqHigh : Nat := 26100
/-- R217: the capacities that IDENTIFY lists. -/
def capacities : List (String × Nat) :=
  [("TX", 12), ("OUT", 28), ("SLEW", maxSlewable), ("BANKS", 4), ("ENTRIES", maxEntries), ("CHANGES", maxChanges),
   ("DEFER", maxDeferral), ("STACK", maxStack), ("PLANS", 32), ("STEPS", 8), ("SLOTS", 4), ("EXCL", maxExclusions),
   ("FAULTS", maxFaults), ("NOTICES", maxNotices), ("LINE", maxLine)]
/-- R134: ms between slots, and ms a reply may take. -/
def slotMs : Nat := 250
def replyMs : Nat := 100
/-- R93, R121: ms a column or drive unit may take to answer. -/
def readMs : Nat := 2000
/-- R38: ms a pulse keeps the clock LOCKED. -/
def absenceMs : Nat := 3000
/-- The most closure rules fired in one event (log 5). -/
def settleFuel : Nat := 2000

end Sys2Proof.Config
end

