-- ==== Sys2Proof/Machine/State.lean ====
section
/-! DEFINITION. The state of the HC-1228 as plain data: the retained tables, the Time Base, the hall (Schedule Store,
Schedule Engine, Path Controller, Transmitter Supervisor, Hold and Plan Unit, Fault Table), the Link Interface, and the
queue of commands that wait; the reasons a step could stop; and the machine right after reset. -/

namespace Sys2Proof.Machine

/-! ### Schedule Store -/

/-- R1: an entry as a bank holds it; minutes are minutes of the day, dates are day numbers. -/
structure Entry where
  id : Nat
  tx : Tx
  freq : Nat
  mode : Mode
  out : Out
  preset : Option Nat
  power : Nat
  prog : Nat
  start : Nat
  stop : Nat
  days : BitVec 7
  prio : Nat
  valid : Option Day
  untilD : Option Day
  lead : Option Nat
deriving DecidableEq, Repr

/-- R4. -/
inductive BankState where | empty | staging | committed | active | retiring | spent
deriving DecidableEq, Repr

/-- R16: an entry with its occurrence mark. -/
structure EntryRec where
  entry : Entry
  mark : Option Minutes
deriving DecidableEq, Repr

/-- R4: the count is the length of `recs`. -/
structure Bank where
  st : BankState
  label : List Char
  start : Option Minutes
  recs : List EntryRec
deriving DecidableEq, Repr

def Bank.blank : Bank := ⟨.empty, [], .none, []⟩

/-- An occurrence: bank, entry id, date (Terms). -/
structure Occ where
  bank : BankNo
  id : Nat
  day : Day
deriving DecidableEq, Repr

/-! ### Motions (needed by the change queue's awaited work) -/

/-- R101: kind and target of a motion request. -/
inductive MotionKind where
  | make (t : Tx) (o : Out) | brk (t : Tx) (o : Out) | slew (o : Out) (preset : Nat)
deriving DecidableEq, Repr

/-- R25: an item of work in flight: a sent order by its number, a granted motion by its arrival number. -/
inductive Work where
  | order (t : Tx) (no : Nat) | motion (k : MotionKind) (arrival : Nat)
deriving DecidableEq, Repr

/-- R20, R25: a change; `frozen` and `awaited` are what the engine records while it is DRAINING; `recheck` asks for the
examination of R26 third item. -/
structure Change where
  tag : Nat
  bank : BankNo
  kind : ChangeKind
  id : Nat
  entry : Option Entry
  draining : Bool
  frozen : List Tx
  awaited : List Work
  recheck : Bool
deriving DecidableEq, Repr

/-! ### Schedule Engine -/

/-- R46. -/
inductive HallMode where | adopting | running | quiescent
deriving DecidableEq, Repr

/-- R56, R57: frequency, mode, output, preset, power, programme (absent: UNKNOWN, R210). -/
structure Params where
  freq : Nat
  mode : Mode
  out : Out
  preset : Option Nat
  power : Nat
  prog : Option Nat
deriving DecidableEq, Repr

/-- R66. -/
inductive EndOutcome where
  | completed | missed | withdrawn | failed | preempted | changeover | aborted | lockedOut
deriving DecidableEq, Repr

/-- R69. -/
inductive StackReason where | preemptedTx | preemptedOutput | reservedByHold | isLocal
deriving DecidableEq, Repr

/-- R67. -/
inductive DeferReason where | txBusy | outputBusy | txBlocked | outputBlocked
deriving DecidableEq, Repr

/-- R66 step 1: what happens to the occurrence when an end completes. -/
inductive After where
  | nothing | push (r : StackReason) | defer (r : DeferReason)
deriving DecidableEq, Repr

/-- R56. -/
inductive Phase where
  | preparing | waiting | raising | onAir | muted | tripped | reworking
  | ending (o : EndOutcome) (after : After)
deriving DecidableEq, Repr

/-- Work of the engine for an assignment: not needed (or done), wanted, handed to its owner. -/
inductive Need where | done | wanted | asked
deriving DecidableEq, Repr

/-- R56: the SCHEDULE part of an assignment. -/
structure Sched where
  occ : Occ
  prio : Nat
  start : Minutes
  stop : Minutes
deriving DecidableEq, Repr

/-- R56: an assignment; `sched` absent means source FOREIGN. `base` are the entry's own values (the found ones for
FOREIGN), `eff` the effective ones. The claimed outputs are the path's owner fields, the made output is the row's CLOSED
crosspoint. `tune`, `path`, `raise`, `power` are the engine's own needs (R60 to R63, R27); `hold` says the path work
that is wanted comes from a hold change, of motion class 4 (R103, log 34); `lowerOver` that a LOWER-TIMEOUT ended the waits (R64); `counts` that the assignment is
still a reference of its bank (R15). -/
structure Asg where
  sched : Option Sched
  base : Params
  eff : Params
  awaits : Option (Out × Tx)
  phase : Phase
  trips : Nat
  tripTimes : List Seconds
  fold : Bool
  late : Bool
  tune : Need
  path : Need
  raise : Need
  power : Bool
  hold : Bool
  lowerOver : Bool
  counts : Bool
deriving DecidableEq, Repr

/-- R67, R69: an occurrence held off air. `tx`, `prio`, `start`, `stop` are its entry's, kept for the orderings. -/
structure Item where
  occ : Occ
  tx : Tx
  prio : Nat
  start : Minutes
  stop : Minutes
  trips : Nat
  fold : Bool
deriving DecidableEq, Repr

/-- R69. -/
structure StackItem where
  item : Item
  displaced : Seconds
  reason : StackReason
deriving DecidableEq, Repr

/-- R67. -/
structure DeferItem where
  item : Item
  reason : DeferReason
deriving DecidableEq, Repr

/-- R74: `spent` is a timer that expired, or was not started for a cool delay of 0, and has not been started again. -/
inductive Idle where | stopped | running (expiry : Ms) | spent
deriving DecidableEq, Repr

/-- R206, R207: the adoption mark, with what judgement waits on. -/
structure Adopt where
  judged : Bool
  firstReply : Option Ms
  lapsed : Bool
  lost : Bool
deriving DecidableEq, Repr

/-! ### Path Controller -/

/-- R91. -/
inductive XState where | opened | closing | closed | opening | unknown
deriving DecidableEq, Repr

/-- R91: throw start and timeout are in the motion slot that the throw holds. -/
structure Xpt where
  st : XState
  ind : Option Contacts
deriving DecidableEq, Repr

/-- R96. -/
inductive OutState where | free | parked | claimed | faulted
deriving DecidableEq, Repr

/-- R92: the last command sent on a matrix line. -/
inductive ColCmd where | make (t : Tx) | brk (t : Tx) | read
deriving DecidableEq, Repr

/-- R93: a READ wanted (`deadline` absent) or sent (its reply limit), with the number that went unanswered. -/
structure ColJob where
  misses : Nat
  deadline : Option Ms
deriving DecidableEq, Repr

/-- R93, R96, R115: column read flag, the READ of adoption and the READ of a fault clear. -/
structure Col where
  read : Bool
  adopt : Option ColJob
  clear : Option ColJob
deriving DecidableEq, Repr

/-- R101: the class is the highest class among the awaiting sequences, the requester their first. -/
structure Motion where
  kind : MotionKind
  arrival : Nat
  waiters : List Tx
deriving DecidableEq, Repr

/-- R101, R98, R124: a granted request with its start and timeout; `hot` after a hot switch (R112, R127). -/
structure Slot where
  motion : Motion
  start : Ms
  timeout : Ms
  hot : Bool
deriving DecidableEq, Repr

/-- R103. -/
inductive SeqStage where | idle | settling | permits | breaking | making | redirecting | cancelling
deriving DecidableEq, Repr

/-- R103. -/
structure Target where
  out : Out
  preset : Option Nat
  cls : Nat
deriving DecidableEq, Repr

/-- R103: the awaited requests are those that list the transmitter as waiter; the holder set of a permit is the set of
sequences that want it. -/
structure PathSeq where
  stage : SeqStage
  target : Option Target
  wants : List Tx
  next : Option Target
deriving DecidableEq, Repr

/-- R119. -/
inductive PosState where | parked (p : Option Nat) | slewing (p : Nat) | stalled
deriving DecidableEq, Repr

/-- R121, R122: a read in progress: when it began, QUERYs unanswered in a row, the reply limit of the QUERY outstanding,
the time of the next QUERY to a MOVING unit; both absent while a QUERY waits for the positioner's slot. `clear`: for a
FAULT-CLEAR (R128). -/
structure PosJob where
  began : Ms
  misses : Nat
  query : Option Ms
  again : Option Ms
  clear : Bool
deriving DecidableEq, Repr

/-- R119; slew start and timeout are in the motion slot. `gone`: to be removed when its slew ends (R129). -/
structure Pos where
  line : Fin 8
  rate : Nat
  presets : Tab (Option Nat) 16
  st : PosState
  az : Option Nat
  read : Bool
  job : Option PosJob
  gone : Bool
deriving DecidableEq, Repr

/-- R120, R121. -/
inductive DriveCmd where | move (az : Nat) | query
deriving DecidableEq, Repr

structure Path where
  xpt : Tab (Tab Xpt 12) 28
  cols : Tab Col 28
  colCmd : Tab (Option ColCmd) 28
  owner : Tab (Option Tx) 28
  pos : Tab (Option Pos) 28
  drvCmd : Tab (Option DriveCmd) 8
  queue : List Motion
  slots : Tab (Option Slot) 4
  arrival : Nat
  seqs : Tab PathSeq 12
deriving DecidableEq, Repr

/-! ### Transmitter Supervisor -/

/-- R131. -/
inductive TxState where
  | absent | unreachable | isLocal | cold | warming | standby | tuning | ready | raising | onAir | lowering | tripped
  | lockout
deriving DecidableEq, Repr

/-- Terms, R139. -/
inductive OrderKind where
  | warm | cool | tune (freq : Nat) (mode : Mode) (prog : Option Nat) | raise (kw : Nat) | lower | clearTrip
deriving DecidableEq, Repr

/-- R131, R139: an order. Before its first sending `no` and `sentAt` are absent. `engine`: handed by the Schedule
Engine; `handBack`: its end is still handed to its sender; `byTrip`: a LOWER the trip rules ordered (R165); `since`: the
time its timeout runs from; `prev`: the state before the sending (R139); `sawTuning`: a reply since showed TUNING
(R143); `again`: the last RAISE, sent again for a lost carrier (R147). -/
structure Order where
  kind : OrderKind
  engine : Bool
  handBack : Bool
  byTrip : Bool
  no : Option Nat
  sentAt : Option Ms
  since : Option Ms
  timeout : Ms
  answered : Bool
  prev : TxState
  sawTuning : Bool
  again : Bool
deriving DecidableEq, Repr

/-- R134: the message of the exchange in progress. -/
inductive CabMsg where | poll | order (k : OrderKind) (no : Nat)
deriving DecidableEq, Repr

structure Exchange where
  msg : CabMsg
  sentAt : Ms
deriving DecidableEq, Repr

/-- R150. -/
inductive Permit where | none | requested | granted
deriving DecidableEq, Repr

/-- R165. -/
inductive TripCause where
  | cab (c : CabTrip) | senseRefl | senseArc | raiseTimeout | clear | door
deriving DecidableEq, Repr

/-- R167. -/
structure TripEntry where
  at_ : Ms
  clock : Seconds
  cause : TripCause
  refl : Bool
deriving DecidableEq, Repr

/-- R168. -/
inductive RecStage where | idle | stopping | waiting | asking | clearing | retrying
deriving DecidableEq, Repr

/-- R168, R169: in WAITING the delay runs while `expiry` is present; `rfpWait`: a decision waits for RFP to qualify
inactive; `owed`: with the recovery IDLE, the CLEAR-TRIP of a refused retry waits for the assignment to end or leave TRIPPED;
`failing`: in ASKING, the Frequency Check has refused the retry RAISE, and the retry is refused when that FAILED end completes. -/
structure Recovery where
  stage : RecStage
  cause : Option TripCause
  refl : Bool
  expiry : Option Ms
  rfpWait : Bool
  owed : Bool
  failing : Bool
deriving DecidableEq, Repr

/-- R131 runtime fields, R134, R145, R167, R168. `resend`: LOWER is sent again after its timeout (R145); `raiseKw`: the
power of the last RAISE (R147, R209); `doneKw`: that of the last RAISE completed (R190); `permitHot`: the permit stays
GRANTED for a hot switch until the row's motion ends (R173). -/
structure TxRec where
  st : TxState
  before : Option TxState
  contact : Bool
  cond : Option CabReply
  out : Option Order
  pend : Option Order
  lastNo : Option Nat
  missed : Nat
  permit : Permit
  permitHot : Bool
  undef : Bool
  exch : Option Exchange
  resend : Bool
  raiseKw : Option Nat
  doneKw : Option Nat
  window : List TripEntry
  rcv : Recovery
deriving DecidableEq, Repr

/-- R157 runtime fields: raw level (true: high), qualified level, timer with the level it qualifies and its expiry. -/
structure Sense where
  raw : Bool
  qual : Option Bool
  timer : Option (Bool × Ms)
deriving DecidableEq, Repr

/-! ### Hold and Plan Unit -/

/-- R215. -/
inductive Status where
  | ok | accepted | badForm | range | state | conflict | full | notFound | locked | busy | tooLate | excluded
deriving DecidableEq, Repr

/-- R176. -/
structure Hold where
  inhibit : Bool
  output : Option (Out × Option Nat)
  freq : Option (Nat × Mode)
  power : Option Nat
deriving DecidableEq, Repr

def Hold.off : Hold := ⟨false, .none, .none, .none⟩

/-- R176: an aspect with its value. -/
inductive HoldValue where
  | inhibit | output (o : Out) (preset : Option Nat) | frequency (f : Nat) (m : Mode) | power (kw : Nat)
deriving DecidableEq, Repr

/-- R184. -/
inductive PlanStep where
  | setHold (t : Tx) (v : HoldValue) | clearHold (t : Tx) (a : Aspect)
deriving DecidableEq, Repr

/-- R185. -/
inductive Fate where | pending | accepted | withdrawn | cancelled
deriving DecidableEq, Repr

/-- R185: the running plan; `steps` are the steps it was accepted with, `who` the transmitters of plan 0's step (R192),
`timeout` the step timeout in force at the step's start, `refused` the status of a step that failed REFUSED. -/
structure Running where
  plan : Nat
  tag : Nat
  step : Nat
  start : Ms
  timeout : Ms
  failed : Nat
  who : List Tx
  refused : Option Status
deriving DecidableEq, Repr

structure LastDirective where
  plan : Nat
  tag : Nat
  fate : Fate
deriving DecidableEq, Repr

/-! ### Frequency check answers and the Fault Table -/

/-- R84. -/
inductive CheckDetail where
  | frequency | output | outputRange | outputRating | transmitter | txRating
deriving DecidableEq, Repr

inductive CheckAnswer where
  | permitted | range (d : CheckDetail) | notFound (d : CheckDetail) | excluded (index : Nat)
deriving DecidableEq, Repr

/-- R195: the nineteen kinds. -/
inductive FaultKind where
  | lockout | hotSwitch | matrixUnknown | positionerStall | antennaSuspect
  | trip | tuneFail | tuneTimeout | raiseTimeout | lowerTimeout | warmTimeout | orderDeclined | unreachable
  | localTakeover | rfUnexpected | foreignCarrier | excludedAtAdmission | scheduleSkip | clockFree
deriving DecidableEq, Repr

inductive FaultSource where | tx (t : Tx) | out (o : Out) | timebase | schedule
deriving DecidableEq, Repr

inductive MatrixWord where | silent | read | conflict | rest | timeout | hot | held
deriving DecidableEq, Repr

inductive StallWord where | read | silent | timeout | stopped | hot | held
deriving DecidableEq, Repr

inductive ForeignWord where | unreachable | noPath | noMatch | excluded
deriving DecidableEq, Repr

inductive CheckPoint where | admission | tune | raise | edit
deriving DecidableEq, Repr

/-- R195: the detail words with the numbers or names they carry. -/
inductive Detail where
  | trips (n : Nat) | adopted
  | rfp | contact
  | matrix (w : MatrixWord) (xpt : Option (Tx × Out))
  | stall (w : StallWord)
  | trip (c : TripCause) | tripLowering (c : CabTrip)
  | tuneFail (ordered reported : Nat)
  | clear | cool
  | declined (k : OrderKind) (r : DeclineReason) (st : Option TxState)
  | cabinet | sense | permit
  | foreign (w : ForeignWord) (a : Option CheckAnswer)
  | excluded (p : CheckPoint) (a : CheckAnswer)
deriving DecidableEq, Repr

/-- R194. -/
structure FaultRec where
  seq : Nat
  kind : FaultKind
  src : FaultSource
  blocking : Bool
  count : Nat
  first : Seconds
  last : Seconds
  occ : Option Occ
  freq : Option Nat
  detail : Option Detail
deriving DecidableEq, Repr

structure FaultTable where
  recs : List FaultRec
  next : Nat
  overflow : Bool
deriving DecidableEq, Repr

/-- A FAULT-CLEAR whose reply waits on the plant (R115, R128). -/
structure Clear where
  tag : Nat
  seq : Nat
  kind : FaultKind
  out : Out
deriving DecidableEq, Repr

/-! ### Replies and notices -/

/-- R40. -/
inductive TimeOutcome where | unchanged | slewed | stepped | set
deriving DecidableEq, Repr

/-- R36. -/
inductive ClockState where | unset | locked | free
deriving DecidableEq, Repr

/-- R80. -/
structure OutDef where
  defined : Bool
  low : Nat
  high : Nat
  rating : Nat
  throw : Nat
  slewable : Bool
deriving DecidableEq, Repr

/-- R77. -/
structure Exclusion where
  low : Nat
  high : Nat
  full : Bool
  reduced : Bool
  digital : Bool
deriving DecidableEq, Repr

/-- R131 retained fields; times in seconds. -/
structure TxDef where
  defined : Bool
  rating : Nat
  warm : Nat
  tune : Nat
  raise : Nat
  lower : Nat
deriving DecidableEq, Repr

/-- R164. -/
structure RecoverySettings where
  delay : Nat
  retries : Nat
  window : Nat
  foldback : Nat
deriving DecidableEq, Repr

/-- R157 retained fields; qualification time in ms. -/
structure SenseCfg where
  mode : SenseMode
  mask : Bool
  qual : Nat
deriving DecidableEq, Repr

/-- R114: a slot as MOTION-LIST shows it; the elapsed time in whole seconds (log 22). -/
structure SlotView where
  kind : MotionKind
  cls : Nat
  requester : Option Tx
  elapsed : Nat
deriving DecidableEq, Repr

/-- R114: a queued request as MOTION-LIST shows it. -/
structure QueueView where
  kind : MotionKind
  cls : Nat
  arrival : Nat
  requester : Option Tx
  eligible : Bool
deriving DecidableEq, Repr

/-- R160. -/
structure SenseView where
  line : SenseLine
  cfg : SenseCfg
  qual : Option Bool
  active : Option Bool
  raw : Bool
deriving DecidableEq, Repr

/-- R153: what holds a pending order: an outstanding order, and what R141, R27 and R149 name. -/
structure HeldBy where
  outstanding : Bool
  permit : Bool
  door : Bool
  estop : Bool
  frozen : Bool
  unreachable : Bool
deriving DecidableEq, Repr

/-- R204: a record as FAULT-LIST lists it. -/
structure FaultView where
  seq : Nat
  kind : FaultKind
  src : FaultSource
  blocking : Bool
  count : Nat
deriving DecidableEq, Repr

/-- R185: the current step's content: a step of plans 1 to 31, or plan 0's INHIBIT on the transmitters of its start (R192). -/
inductive StepView where
  | step (s : PlanStep) | inhibitAll (who : List Tx)
deriving DecidableEq, Repr

/-- R20, R21. -/
structure ChangeView where
  tag : Nat
  bank : BankNo
  kind : ChangeKind
  id : Nat
  draining : Bool
deriving DecidableEq, Repr

/-- R216: the hall summary. -/
structure HallView where
  mode : HallMode
  lead : Nat
  cool : Nat
  rcv : RecoverySettings
  lock : Bool
  clock : ClockState
  overflow : Bool
  blocking : Nat
  notices : Nat
  lost : Bool
deriving DecidableEq, Repr

/-- R56: an assignment as ASSIGNMENT-STATUS gives it, with its made output and its claims. -/
structure AsgView where
  asg : Asg
  made : Option Out
  claims : List Out
deriving DecidableEq, Repr

/-- The fields of a reply after its status. -/
inductive ReplyBody where
  | nothing
  | bank (n : BankNo) (st : BankState) (label : List Char) (count : Nat) (start : Option Minutes)
  | entry (e : Entry) (mark : Option Minutes)
  | ids (ids : List Nat) (next : Option Nat)
  | otherBank (n : BankNo)
  | otherIds (low high : Nat)
  | otherTx (t : Tx)
  | otherOut (o : Out)
  | atId (id : Nat) (a : Option CheckAnswer)
  | answer (a : CheckAnswer)
  | changes (l : List ChangeView)
  | timeSet (o : TimeOutcome) (diff : Int)
  | timeStatus (reading : Seconds) (st : ClockState) (slew : Option Int) (pulse : Option Nat)
      (last : Option (Seconds × Seconds))
  | assignment (t : Tx) (a : Option AsgView) (stack : List StackItem)
  | deferral (l : List DeferItem)
  | index (i : Nat)
  | exclusions (l : List Exclusion) (lock : Bool)
  | output (o : Out) (d : OutDef)
  | matrixOut (o : Out) (st : OutState) (feeder owner reserver : Option Tx) (read : Bool) (rows : Tab Xpt 12)
  | matrixTx (t : Tx) (states : List XState) (seq : PathSeq) (awaited : List Motion) (held waited : Bool)
  | motions (slots : List (Option SlotView)) (queue : List QueueView)
  | positioner (o : Out) (p : Pos) (slew : Option (Nat × Nat))
  | tx (t : Tx) (d : TxDef) (r : TxRec) (since : Option Ms) (held : Option HeldBy) (ages : List Nat)
  | sense (l : List SenseView)
  | holds (l : List (Tx × Hold))
  | plan (plan : Nat) (steps : List PlanStep) (inhibitAll : Bool)
  | directive (slot : Option (Nat × Nat)) (run : Option Running) (last : Option LastDirective) (timeout : Nat)
      (elapsed : Option Nat) (step : Option StepView)
  | stageRunning
  | stagePending
  | planTag (plan tag : Nat)
  | faults (held : Nat) (overflow : Bool) (next : Nat) (l : List FaultView) (more : Option Nat)
  | fault (r : FaultRec)
  | hall (h : HallView)
  | identity (part : String) (revision : Fin 26) (caps : List (String × Nat))
  | dir (d : Dir)
deriving DecidableEq, Repr

/-- R215: `req` is absent when the line held no name. -/
structure Reply where
  tag : Nat
  req : Option Req
  status : Status
  body : ReplyBody
deriving DecidableEq, Repr

/-- R216. -/
inductive HallCause where | powerOn | reset | quiesce | resume | adopted (sched foreign : Nat)
deriving DecidableEq, Repr

/-- R52, R209. -/
inductive Origin where | scan | stack | deferral | adoption
deriving DecidableEq, Repr

/-- R113. -/
inductive XCause where | throw | read | rest | timeout | hot | clear
deriving DecidableEq, Repr

/-- R130. -/
inductive PosCause where | slew | read | timeout | stopped | hot | clear
deriving DecidableEq, Repr

/-- R153. -/
inductive TxCause where | order | timeout | condition | isLocal | loss | contact | define | trip | reset
deriving DecidableEq, Repr

/-- R183. -/
inductive HoldCause where | host | plan (k step : Nat) | reset
deriving DecidableEq, Repr

/-- R190, R191. -/
inductive StepResult where | inForce | timeout | refused (s : Status)
deriving DecidableEq, Repr

/-- R192, R193. -/
inductive AbandonCause where | plan0 | reset
deriving DecidableEq, Repr

/-- R199. -/
inductive FaultEvent where | new (displaced : Option Nat) | repeated | blocking
deriving DecidableEq, Repr

/-- R214. -/
inductive LinkErr where | length | checksum | overrun
deriving DecidableEq, Repr

/-- R32: the reason of a rejected change. -/
inductive RejectReason where
  | status (s : Status) (other : Option (Nat × Option Nat)) (a : Option CheckAnswer) | reset
deriving DecidableEq, Repr

/-- The notices of the manual with their fields; the TIME field is `Notice.time`. -/
inductive NoticeBody where
  | hall (m : HallMode) (c : HallCause)
  | bank (n : BankNo) (st : BankState) (label : List Char) (start : Option Minutes)
  | changeDone (tag : Nat) (bank : BankNo) (kind : ChangeKind) (id : Nat)
  | changeRejected (tag : Nat) (bank : BankNo) (kind : ChangeKind) (id : Nat) (r : RejectReason)
  | clock (st : ClockState) (reading : Seconds) (step : Option (Seconds × Seconds))
  | admitted (t : Tx) (occ : Option Occ) (out : Out) (origin : Origin)
  | rejected (occ : Occ) (a : CheckAnswer)
  | deferred (occ : Occ) (r : DeferReason)
  | skipped (occ : Occ)
  | expired (occ : Occ)
  | withdrawn (occ : Occ)
  | changeover (occ : Occ)
  | dropped (occ : Occ)
  | assignment (t : Tx) (occ : Option Occ) (o : EndOutcome) (late : Bool) (trips : Nat) (fold : Bool) (after : After)
  | crosspoint (t : Tx) (o : Out) (st : XState) (out : OutState) (c : XCause)
  | positioner (o : Out) (st : PosState) (az : Option Nat) (out : OutState) (c : PosCause)
  | tx (t : Tx) (new old : TxState) (c : TxCause)
  | sense (l : SenseLine) (active masked : Bool)
  | hold (t : Tx) (a : Aspect) (v : Option HoldValue) (c : HoldCause)
  | holdReset (t : Tx) (l : List Aspect)
  | planStep (plan step : Nat) (r : StepResult)
  | planDone (plan tag steps failed : Nat)
  | planAbandoned (plan tag step failed : Nat) (c : AbandonCause)
  | directiveAccepted (plan tag : Nat)
  | directiveCancelled (plan tag : Nat) (c : AbandonCause)
  | fault (r : FaultRec) (e : FaultEvent)
  | faultLost (k : FaultKind) (src : FaultSource)
  | linkError (r : LinkErr) (tag : Option Nat)
deriving DecidableEq, Repr

structure Notice where
  time : Seconds
  body : NoticeBody
deriving DecidableEq, Repr

/-! ### The blocks together -/

/-- Tables that host requests edit and no event of the plant does. -/
structure Tables where
  excl : List Exclusion
  outs : Tab OutDef 28
  lock : Bool
  txs : Tab TxDef 12
  rcv : RecoverySettings
  lead : Nat
  cool : Nat
  plans : Tab (Option (List PlanStep)) 32
  stepTo : Nat
  sense : Tab SenseCfg 50
deriving DecidableEq, Repr

/-- R36. -/
structure TimeBase where
  now : Ms
  clock : ClockTick
  cstate : ClockState
  slew : Option Int
  lastPulse : Option Ms
  absence : Option Ms
  lastStep : Option (ClockTick × ClockTick)
deriving DecidableEq, Repr

/-- Everything the plant and the schedule move. -/
structure Hall where
  mode : HallMode
  banks : Tab Bank 4
  changes : List Change
  asg : Tab (Option Asg) 12
  stack : Tab (List StackItem) 12
  deferral : List DeferItem
  idle : Tab Idle 12
  adopt : Tab Adopt 12
  adoptedS : Nat
  adoptedF : Nat
  alloc : Bool
  path : Path
  tx : Tab TxRec 12
  sense : Tab Sense 50
  holds : Tab Hold 12
  dslot : Option (Nat × Nat)
  running : Option Running
  dlast : Option LastDirective
  faults : FaultTable
  clear : Option Clear
  said : List Reply
  emit : List NoticeBody
deriving DecidableEq, Repr

/-- A line in one of the two buffers: characters as they arrived, or a request given as a command (log 6). -/
inductive Held where | text (cs : List Char) | cmd (i : Instr)
deriving DecidableEq, Repr

/-- The line being sent (R215). -/
inductive OutLine where | reply (r : Reply) | notice (n : Notice)
deriving DecidableEq, Repr

/-- R214, R216. `synced`: the first CR LF since power-on has come. -/
structure Link where
  synced : Bool
  receiving : Option Held
  waiting : Option Held
  replies : List Reply
  notices : List Notice
  lost : Bool
  sending : Option OutLine
deriving DecidableEq, Repr

/-- The whole block and the queue of commands that wait. -/
structure State where
  tables : Tables
  time : TimeBase
  hall : Hall
  link : Link
  pending : List Instr
deriving DecidableEq, Repr

/-- Why a step would stop with a fault. The manual gives every command an effect in every state (a refused request is
a reply), so no meaning raises it. -/
inductive Fault where
  /-- Raised by no meaning (safe): the place of an effect the manual would not give. -/
  | noEffectGiven
deriving DecidableEq, Repr

/-- Why a step would have no meaning. -/
inductive Refusal where
  /-- A command whose meaning is not written; safe: nothing is claimed of it. -/
  | notModelled (mnemonic : String)
deriving DecidableEq, Repr

/-! ### Reset values -/

/-- R80 defaults. -/
def OutDef.default : OutDef := ⟨false, 2300, 26100, 1, 8, false⟩
/-- R131 defaults. -/
def TxDef.default : TxDef := ⟨false, 1, 600, 120, 30, 15⟩
/-- R164 defaults. -/
def RecoverySettings.default : RecoverySettings := ⟨10, 3, 15, 70⟩

/-- R157: record number of a line. -/
def senseIx : SenseLine → Fin 50
  | .rfp t => ⟨4 * t.val, by omega⟩
  | .refl t => ⟨4 * t.val + 1, by omega⟩
  | .arc t => ⟨4 * t.val + 2, by omega⟩
  | .door t => ⟨4 * t.val + 3, by omega⟩
  | .estop => 48
  | .pulse => 49

/-- R157: the line of a record number. -/
def senseLine (i : Fin 50) : SenseLine :=
  if i.val = 49 then .pulse else if i.val = 48 then .estop
  else
    let t : Tx := Fin.ofNat 12 (i.val / 4)
    match i.val % 4 with
    | 0 => .rfp t
    | 1 => .refl t
    | 2 => .arc t
    | _ => .door t

/-- R157 defaults of one line. -/
def senseDefault : SenseLine → SenseCfg
  | .arc _ => ⟨.edgeRise, false, 20⟩
  | .estop => ⟨.levelLow, false, 20⟩
  | .pulse => ⟨.edgeRise, false, 1⟩
  | _ => ⟨.levelHigh, false, 20⟩

/-- The defaults that STORE-ERASE returns the tables to, with the licence lock CLEAR (R77, R80, R131, R157, R164, R47,
R184, R89). -/
def Tables.default : Tables :=
  { excl := [], outs := tab 28 OutDef.default, lock := false, txs := tab 12 TxDef.default,
    rcv := RecoverySettings.default, lead := 300, cool := 60, plans := tab 32 none, stepTo := 90,
    sense := Vector.ofFn fun i => senseDefault (senseLine i) }

/-- 2000-01-01 is day 730485 counted from 0000-01-01, a Saturday (log 1). -/
def day2000 : Day := 730485
/-- Clock units in a second, a minute, a day. -/
def ticksPerSec : Nat := 10000
def ticksPerMin : Nat := 600000
def ticksPerDay : Nat := 864000000

/-- R36: power-on values. -/
def TimeBase.powerOn : TimeBase :=
  { now := 0, clock := day2000 * ticksPerDay, cstate := .unset, slew := none, lastPulse := none, absence := none,
    lastStep := none }

def Recovery.idle : Recovery := ⟨.idle, none, false, none, false, false, false⟩

/-- R131: power-on of one transmitter. -/
def TxRec.powerOn (defined : Bool) : TxRec :=
  { st := if defined then .unreachable else .absent, before := none, contact := false, cond := none, out := none,
    pend := none, lastNo := none, missed := 0, permit := .none, permitHot := false, undef := false, exch := none,
    resend := false, raiseKw := none, doneKw := none, window := [], rcv := Recovery.idle }

def PathSeq.idle : PathSeq := ⟨.idle, none, [], none⟩

/-- R119, R122: power-on of one positioner record: retained fields kept, a read begun at time 0. -/
def Pos.powerOn (p : Pos) : Pos :=
  { p with st := .parked none, az := none, read := false,
           job := some ⟨0, 0, some Config.readMs, none, false⟩, gone := false }

/-- R117, R129: power-on of the matrix and the positioners. -/
def Path.powerOn (pos : Tab (Option Pos) 28) : Path :=
  { xpt := tab 28 (tab 12 ⟨.opened, none⟩),
    cols := tab 28 ⟨false, some ⟨0, some Config.readMs⟩, none⟩,
    colCmd := tab 28 (some .read), owner := tab 28 none,
    pos := pos.map fun p => (p.filter fun q => !q.gone).map Pos.powerOn,
    drvCmd := Vector.ofFn fun l =>
      if pos.toList.any fun p => p.any fun q => !q.gone && decide (q.line = l) then some DriveCmd.query else none,
    queue := [], slots := tab 4 none, arrival := 1, seqs := tab 12 PathSeq.idle }

/-- R157: power-on of one line: unqualified, timer running on the raw level then seen. -/
def Sense.powerOn (cfg : SenseCfg) (raw : Bool) : Sense := ⟨raw, none, some (raw, cfg.qual)⟩

/-- R18, R206: the hall right after power is applied, from what the retained store holds and the raw levels seen. -/
def Hall.powerOn (k : Tables) (banks : Tab Bank 4) (pos : Tab (Option Pos) 28) (raw : Tab Bool 50) : Hall :=
  { mode := .adopting, banks := banks, changes := [], asg := tab 12 none, stack := tab 12 [], deferral := [],
    idle := tab 12 .stopped,
    adopt := Vector.ofFn fun t => ⟨!(k.txs[t]).defined, none, false, false⟩,
    adoptedS := 0, adoptedF := 0, alloc := false, path := Path.powerOn pos,
    tx := Vector.ofFn fun t => TxRec.powerOn (k.txs[t]).defined,
    sense := Vector.ofFn fun i => Sense.powerOn k.sense[i] raw[i],
    holds := tab 12 Hold.off, dslot := none, running := none, dlast := none,
    faults := ⟨[], 1, false⟩, clear := none, said := [], emit := [] }

/-- R216: the first notice after power-on. -/
def firstNotice : Notice := ⟨day2000 * 86400, .hall .adopting .powerOn⟩

/-- R214, R216: power-on of the link; the line is idle, so the first notice's sending begins (log 6). -/
def Link.powerOn : Link :=
  { synced := false, receiving := none, waiting := none, replies := [], notices := [], lost := false,
    sending := some (.notice firstNotice) }

/-- The machine right after power-on with a retained store at its defaults and every raw sense level low (log 3,
log 4). -/
def State.reset : State :=
  { tables := Tables.default, time := TimeBase.powerOn,
    hall := Hall.powerOn Tables.default (tab 4 Bank.blank) (tab 28 none) (tab 50 false),
    link := Link.powerOn, pending := [] }

end Sys2Proof.Machine
end

