-- ==== Sys2Proof/Machine/Operands.lean ====
section
/-! DEFINITION. Operand forms: dates, minutes, entries, holds and plan steps as requests carry them, turned into what
State holds. `none` of a conversion is the reply RANGE. -/

namespace Sys2Proof.Machine

/-- A number within a range that includes both ends (Conventions). -/
def within (lo hi n : Nat) : Bool := decide (lo ≤ n) && decide (n ≤ hi)

/-- An optional number within a range when given. -/
def withinOpt (lo hi : Nat) (n : Option Nat) : Bool := n.all (within lo hi)

/-- The tuning range (Conventions). -/
def freqOk (f : Nat) : Bool := within Config.freqLow Config.freqHigh f

def isLeap (y : Nat) : Bool := y % 4 = 0 && (y % 100 ≠ 0 || y % 400 = 0)

def daysIn (y m : Nat) : Nat :=
  match m with
  | 2 => if isLeap y then 29 else 28
  | 4 | 6 | 9 | 11 => 30
  | _ => 31

/-- Days of year `y` before month `m`. -/
def daysBefore (y : Nat) : Nat → Nat
  | 0 => 0
  | 1 => 0
  | m + 1 => daysBefore y m + daysIn y m

/-- Day number of a calendar date counted from 0000-01-01 (log 1); `none` for a date that does not exist. -/
def dayOf (d : DateForm) : Option Day :=
  if within 0 9999 d.year && within 1 12 d.month && within 1 (daysIn d.year d.month) d.day then
    some (365 * d.year + (d.year + 3) / 4 - (d.year + 99) / 100 + (d.year + 399) / 400 +
      daysBefore d.year d.month + (d.day - 1))
  else none

/-- Monday is 0 (Conventions). -/
def weekday (d : Day) : Nat := (d + 5) % 7

def dayIn (mask : BitVec 7) (d : Day) : Bool := mask.getLsbD (weekday d)

/-- HHMM, 0000 to 2359, as a minute of the day. -/
def minuteOf (hhmm : Nat) : Option Nat :=
  if decide (hhmm / 100 < 24) && decide (hhmm % 100 < 60) then some (hhmm / 100 * 60 + hhmm % 100) else none

/-- R8, R40: dates from 2000-01-01 to 2099-12-31. -/
def dayInCentury (d : Day) : Bool := within 730485 767009 d

/-- Banks 1 to 4. -/
def bankOf (n : Nat) : Option BankNo := if h : 1 ≤ n ∧ n ≤ 4 then some ⟨n - 1, by omega⟩ else none

/-- An optional date as written: absent, or a day number; `none` where the date does not exist. -/
def optDay : Option DateForm → Option (Option Day)
  | none => some none
  | some d => (dayOf d).map some

/-- R1: an entry whose every field is within its range. Presence of the preset is not looked at here (R6 step 3). -/
def entryOf (f : EntryForm) : Option Entry := do
  let t ← f.tx
  let m ← f.mode
  let o ← f.out
  let a ← minuteOf f.start
  let b ← minuteOf f.stop
  let v ← optDay f.valid
  let u ← optDay f.untilD
  if within 1 65535 f.id && freqOk f.freq && withinOpt 0 15 f.preset && within 1 1000 f.power && within 1 16 f.prog &&
      decide (a ≠ b) && decide (f.days ≠ 0) && decide (f.prio ≤ 3) &&
      (v.all fun x => u.all fun y => decide (x ≤ y)) && withinOpt 60 1800 f.lead then
    some { id := f.id, tx := t, freq := f.freq, mode := m, out := o, preset := f.preset, power := f.power,
           prog := f.prog, start := a, stop := b, days := f.days, prio := f.prio, valid := v, untilD := u, lead := f.lead }
  else none

/-- R4: a season label. -/
def labelOk (l : List Char) : Bool :=
  decide (l.length ≤ 12) && l.all fun c => c.isAlphanum || c == '-' || c == '.' || c == '_' || c == '/'

/-- R177 step 1: a hold value within the ranges of R176. -/
def holdOf : HoldForm → Option HoldValue
  | .inhibit => some .inhibit
  | .output o p => o.bind fun o => if withinOpt 0 15 p then some (.output o p) else none
  | .frequency f m => m.bind fun m => if freqOk f then some (.frequency f m) else none
  | .power kw => if within 1 1000 kw then some (.power kw) else none

/-- R184: a plan step of the form of R177 step 1. -/
def stepOf : StepForm → Option PlanStep
  | .setHold (some t) (some v) => (holdOf v).map (.setHold t)
  | .clearHold (some t) (some a) => some (.clearHold t a)
  | _ => none

def HoldValue.aspect : HoldValue → Aspect
  | .inhibit => .inhibit
  | .output _ _ => .output
  | .frequency _ _ => .frequency
  | .power _ => .power

/-- A date and minute as an instant. -/
def instantOf (d : Day) (m : Nat) : Minutes := d * 1440 + m

/-- R2: start and stop instants of an entry's occurrence on a date. -/
def occStart (en : Entry) (d : Day) : Minutes := instantOf d en.start
def occStop (en : Entry) (d : Day) : Minutes :=
  if en.start < en.stop then instantOf d en.stop else instantOf (d + 1) en.stop

end Sys2Proof.Machine
end

