-- ==== Sys2Proof/Machine/Flags.lean ====
section
/-! DEFINITION. The states and conditions the manual works out from others: radiating, sense lines active, permits' test,
output states, feeding transmitter, made output, reservations, claims, availability, effective parameters. -/

namespace Sys2Proof.Machine

/-- What an event may read and not change: the tables and the Time Base. -/
structure Env where
  k : Tables
  tm : TimeBase

def Env.now (e : Env) : Ms := e.tm.now
/-- R45: the clock reading to the whole second. -/
def Env.sec (e : Env) : Seconds := e.tm.clock / ticksPerSec
/-- An instant is at or before the clock when its minute is at or before this one. -/
def Env.min (e : Env) : Minutes := e.tm.clock / ticksPerMin
def Env.isSet (e : Env) : Bool := decide (e.tm.cstate ≠ .unset)

/-- R59. -/
def isRad : TxState → Bool
  | .raising | .onAir | .lowering => true
  | _ => false

/-- A state in which the part has raised the carrier itself (R138, R165). -/
def isRaised (s : TxState) : Bool := decide (s = .raising) || decide (s = .onAir)

/-- R53: states in which a transmitter without assignment is available. -/
def isAvail : TxState → Bool
  | .cold | .warming | .standby | .ready => true
  | _ => false

/-- R135: conditions of a cabinet that radiates. -/
def condIsRad : Cond → Bool
  | .raising _ _ _ | .on _ _ _ | .lowering _ _ _ => true
  | _ => false

def condTripped : Cond → Bool
  | .tripped _ => true
  | _ => false

/-- R135: the tuned frequency and mode, when present. -/
def condTune : Cond → Option (Nat × Mode)
  | .tuned f m | .raising f m _ | .on f m _ | .lowering f m _ => some (f, m)
  | _ => none

def TxRec.condRad (r : TxRec) : Bool := r.cond.any fun c => condIsRad c.cond

/-- R138: the table for a clear local flag. -/
def condState : Cond → TxState
  | .cold | .cooling => .cold
  | .warming => .warming
  | .standby | .tuning => .standby
  | .tuned _ _ => .ready
  | .raising _ _ _ => .raising
  | .on _ _ _ => .onAir
  | .lowering _ _ _ => .lowering
  | .tripped _ => .tripped

/-- R138: the whole table. -/
def derive (c : CabReply) : TxState := if c.loc then .isLocal else condState c.cond

/-- R158: meaning of a qualified level for a level mode; none for an edge mode or an unqualified line. -/
def lineActive (m : SenseMode) (q : Option Bool) : Option Bool :=
  match m, q with
  | .levelHigh, some b => some b
  | .levelLow, some b => some !b
  | _, _ => none

def Env.cfg (e : Env) (l : SenseLine) : SenseCfg := e.k.sense[senseIx l]
def Hall.line (h : Hall) (l : SenseLine) : Sense := h.sense[senseIx l]

/-- R158, R159 (log 15): an unqualified RFP counts as active. -/
def rfpActive (e : Env) (h : Hall) (t : Tx) : Bool :=
  (lineActive (e.cfg (.rfp t)).mode (h.line (.rfp t)).qual).getD true

/-- R158, R159: an unqualified DOOR counts as active, a masked one as inactive. -/
def doorActive (e : Env) (h : Hall) (t : Tx) : Bool :=
  !(e.cfg (.door t)).mask && (lineActive (e.cfg (.door t)).mode (h.line (.door t)).qual).getD true

/-- R158: an unqualified ESTOP counts as inactive. -/
def estopActive (e : Env) (h : Hall) : Bool :=
  (lineActive (e.cfg .estop).mode (h.line .estop).qual).getD false

/-- R207 condition 3. -/
def rfpQualified (h : Hall) (t : Tx) : Bool := (h.line (.rfp t)).qual.isSome

/-- R156: undefine pending counts as defined. -/
def txDefined (k : Tables) (h : Hall) (t : Tx) : Bool := (k.txs[t]).defined || (h.tx[t]).undef

/-! ### Matrix -/

def xst (h : Hall) (t : Tx) (o : Out) : XState := ((h.path.xpt[o])[t]).st

/-- R96: the row of the column's crosspoint other than OPEN. -/
def feeder (h : Hall) (o : Out) : Option Tx := allTx.find? fun t => decide (xst h t o ≠ .opened)

/-- The output of the row's crosspoint other than OPEN (R91: at most one). -/
def rowOut (h : Hall) (t : Tx) : Option Out := allOut.find? fun o => decide (xst h t o ≠ .opened)

/-- R56: the output of the row's CLOSED crosspoint. -/
def madeOut (h : Hall) (t : Tx) : Option Out := allOut.find? fun o => decide (xst h t o = .closed)

/-- R197. -/
def blocked (h : Hall) (s : FaultSource) : Bool := h.faults.recs.any fun r => r.blocking && decide (r.src = s)

/-- R96. -/
def outState (h : Hall) (o : Out) : OutState :=
  if blocked h (.out o) then .faulted
  else if (h.path.owner[o]).isSome then .claimed
  else if (feeder h o).isSome then .parked
  else .free

/-- R96, R176: the transmitter whose enabled OUTPUT hold names the output. -/
def reserver (h : Hall) (o : Out) : Option Tx := allTx.find? fun t => (h.holds[t]).output.any fun v => decide (v.1 = o)

def reservedByOther (h : Hall) (o : Out) (t : Tx) : Bool := (reserver h o).any fun u => decide (u ≠ t)

/-- R56: the outputs an assignment claims. -/
def claims (h : Hall) (t : Tx) : List Out := allOut.filter fun o => decide (h.path.owner[o] = some t)

/-- R53: output available to a transmitter. -/
def outAvail (h : Hall) (t : Tx) (o : Out) : Bool :=
  (decide (outState h o = .free) || decide (outState h o = .parked)) && !reservedByOther h o t

/-- R53. -/
def txAvail (h : Hall) (t : Tx) : Bool := (h.asg[t]).isNone && isAvail (h.tx[t]).st

/-- R119: PARKED at a preset; an unread positioner is at none (R122). -/
def parkedAt (h : Hall) (o : Out) (p : Option Nat) : Bool :=
  match h.path.pos[o] with
  | some q => q.read && p.isSome && decide (q.st = .parked p)
  | none => false

/-- R101, R123: the row of a motion. -/
def motionRow (h : Hall) : MotionKind → Option Tx
  | .make t _ | .brk t _ => some t
  | .slew o _ => feeder h o

def MotionKind.out : MotionKind → Out
  | .make _ o | .brk _ o | .slew o _ => o

def MotionKind.isSlew : MotionKind → Bool
  | .slew _ _ => true
  | _ => false

def slotList (h : Hall) : List Slot := h.path.slots.toList.filterMap id

/-- R101, R151: some granted request of the row holds a slot. -/
def rowMotion (h : Hall) (t : Tx) : Bool := (slotList h).any fun s => decide (motionRow h s.motion.kind = some t)

/-- A throw of the column holds a slot. -/
def colThrow (h : Hall) (o : Out) : Bool := (slotList h).any fun s => !s.motion.kind.isSlew && decide (s.motion.kind.out = o)

/-- A slew of the output's positioner holds a slot. -/
def slewSlot (h : Hall) (o : Out) : Option Slot :=
  (slotList h).find? fun s => s.motion.kind.isSlew && decide (s.motion.kind.out = o)

/-- R104: the sequences that hold or wait for a permit. -/
def holders (h : Hall) (t : Tx) : List Tx := allTx.filter fun u => (h.path.seqs[u]).wants.contains t

/-- R101: the class of a request: 0 where no sequence with a target awaits it (log 34). -/
def motionClass (h : Hall) (m : Motion) : Nat :=
  m.waiters.foldl (fun c u => max c (((h.path.seqs[u]).target.map Target.cls).getD 0)) 0

/-- The requests a sequence awaits, granted and queued. -/
def grantedOf (h : Hall) (t : Tx) : List Motion :=
  ((slotList h).filter fun s => s.motion.waiters.contains t).map Slot.motion
def queuedOf (h : Hall) (t : Tx) : List Motion := h.path.queue.filter fun m => m.waiters.contains t

/-- R27: frozen by the DRAINING change at the head. -/
def frozen (h : Hall) (t : Tx) : Bool := h.changes.head?.any fun c => c.draining && c.frozen.contains t

/-- Two requests move the same crosspoint or the same positioner. -/
def sameTarget : MotionKind → MotionKind → Bool
  | .slew o _, .slew p _ => decide (o = p)
  | .make t o, .make u p | .make t o, .brk u p | .brk t o, .make u p | .brk t o, .brk u p => decide (t = u) && decide (o = p)
  | _, _ => false

/-- R101, R123: eligible for a slot. A crosspoint or positioner that still moves under another request waits (R101: one
request at a time, log 20). -/
def eligible (h : Hall) (m : Motion) : Bool :=
  m.waiters.any (fun u => !frozen h u) && !(slotList h).any (fun s => sameTarget s.motion.kind m.kind) &&
  match m.kind with
  | .make t o =>
      decide ((h.tx[t]).permit = .granted) &&
      allOut.all (fun p => decide (p = o) || decide (xst h t p = .opened)) &&
      allTx.all (fun u => decide (u = t) || decide (xst h u o = .opened))
  | .brk t _ => decide ((h.tx[t]).permit = .granted)
  | .slew o _ =>
      (h.path.pos[o]).any (fun q => q.read && decide (q.st ≠ .stalled)) &&
      (feeder h o).all (fun t => decide ((h.tx[t]).permit = .granted) && !(holders h t).isEmpty)

/-! ### Orders and permits -/

def OrderKind.isRaise : OrderKind → Bool
  | .raise _ => true
  | _ => false

def OrderKind.isTune : OrderKind → Bool
  | .tune _ _ _ => true
  | _ => false

/-- R131: sent and not ended. -/
def TxRec.sent (r : TxRec) : Bool := r.out.any fun o => o.sentAt.isSome

/-- An order of a kind waits, is to be sent or is outstanding. -/
def TxRec.inHand (r : TxRec) (p : OrderKind → Bool) : Bool := r.out.any (fun o => p o.kind) || r.pend.any fun o => p o.kind

/-- R150, R161, R168 (log 11): a LOWER that is to be sent counts with one that is outstanding. -/
def TxRec.lowerInHand (r : TxRec) : Bool := r.inHand fun k => decide (k = .lower)

/-- R59, R65: the end of an assignment needs a LOWER. -/
def TxRec.needsLower (r : TxRec) : Bool := isRad r.st || (decide (r.st = .unreachable) && r.before.any isRad)

/-- R27, R59: a DRAINING change holds the RAISE of its assignment. The RAISE that the Supervisor sends again for a carrier
lost (R147) is not the engine's. -/
def raiseFrozen (h : Hall) (t : Tx) : Bool := frozen h t && decide ((h.tx[t]).st ≠ .raising)

/-- R141, R27: what holds a RAISE. -/
def raiseHeld (e : Env) (h : Hall) (t : Tx) : Bool :=
  decide ((h.tx[t]).permit = .granted) || doorActive e h t || estopActive e h || raiseFrozen h t

/-- R150. That no LOWER is outstanding is asked of an UNREACHABLE transmitter without state before loss too (log 44). -/
def permitTest (e : Env) (h : Hall) (t : Tx) : Bool :=
  let r := h.tx[t]
  !isRad r.st && !r.lowerInHand && !(decide (r.st = .unreachable) && r.before.any isRad) &&
  !((decide (r.st = .isLocal) || decide (r.st = .lockout)) && r.condRad) &&
  !rfpActive e h t && !doorActive e h t

/-- R168: the carrier is down. A LOWER-TIMEOUT ends the LOWER, and with it the wait of STOPPING only where the last cabinet condition
does not radiate (log 50). -/
def carrierDown (r : TxRec) : Bool := !isRad r.st && !r.lowerInHand && !r.condRad

/-- R190: proven non-radiating. -/
def provenDown (e : Env) (h : Hall) (t : Tx) : Bool :=
  let r := h.tx[t]
  !isRad r.st && !r.lowerInHand &&
  !(decide (r.st = .unreachable) && r.before.any fun s => decide (s = .raising) || decide (s = .onAir)) &&
  !rfpActive e h t

/-- R144: within 5 %, bounds counted in whole kilowatts rounded outward. -/
def powerMatches (ordered kw : Nat) : Bool :=
  decide (ordered * 95 / 100 ≤ kw) && decide (kw ≤ (ordered * 105 + 99) / 100)

/-- R206: still to be judged. -/
def unjudged (h : Hall) (t : Tx) : Bool := decide (h.mode = .adopting) && !(h.adopt[t]).judged

/-- R168: a recovery beyond IDLE. -/
def recovering (h : Hall) (t : Tx) : Bool := decide ((h.tx[t]).rcv.stage ≠ .idle)

/-! ### Effective parameters and muting -/

/-- R57: fold-back of a power. -/
def foldPower (pct kw : Nat) : Nat := max 1 (kw * pct / 100)

/-- R57, R211: effective parameters from the base parameters, the hold record and the fold-back flag. -/
def effective (k : Tables) (hd : Hold) (b : Params) (fold : Bool) : Params :=
  let kw := hd.power.getD b.power
  { freq := (hd.freq.map Prod.fst).getD b.freq
    mode := (hd.freq.map Prod.snd).getD b.mode
    out := (hd.output.map Prod.fst).getD b.out
    preset := match hd.output with | some v => v.2 | none => b.preset
    power := if fold then foldPower k.rcv.foldback kw else kw
    prog := b.prog }

def entryParams (en : Entry) : Params := ⟨en.freq, en.mode, en.out, en.preset, en.power, some en.prog⟩

/-- R63. -/
def muting (e : Env) (h : Hall) (t : Tx) : Bool := (h.holds[t]).inhibit || estopActive e h

def Phase.isEnding : Phase → Bool
  | .ending _ _ => true
  | _ => false

end Sys2Proof.Machine
end

