-- ==== Sys2Proof/Machine/Ops.lean ====
section
/-! DEFINITION. The named operations over the hall: one per record, the notices and replies of an event, and the Fault
Table's taking of a report (R194 to R199). -/

namespace Sys2Proof.Machine

/-! ### Records -/

namespace Hall

def note (h : Hall) (b : NoticeBody) : Hall := { h with emit := h.emit ++ [b] }
def notes (h : Hall) (l : List NoticeBody) : Hall := { h with emit := h.emit ++ l }
def say (h : Hall) (r : Reply) : Hall := { h with said := h.said ++ [r] }
/-- R71: an allocation run is owed. -/
def wantAlloc (h : Hall) : Hall := { h with alloc := true }
def setTx (h : Hall) (t : Tx) (f : TxRec → TxRec) : Hall := { h with tx := upd h.tx t f }
def setAsg (h : Hall) (t : Tx) (a : Option Asg) : Hall := { h with asg := upd h.asg t fun _ => a }
def mapAsg (h : Hall) (t : Tx) (f : Asg → Asg) : Hall := { h with asg := upd h.asg t (Option.map f) }
def setStack (h : Hall) (t : Tx) (l : List StackItem) : Hall := { h with stack := upd h.stack t fun _ => l }
def setPath (h : Hall) (f : Path → Path) : Hall := { h with path := f h.path }
def setSeq (h : Hall) (t : Tx) (f : PathSeq → PathSeq) : Hall :=
  h.setPath fun p => { p with seqs := upd p.seqs t f }
def setOwner (h : Hall) (o : Out) (w : Option Tx) : Hall := h.setPath fun p => { p with owner := upd p.owner o fun _ => w }
def setCol (h : Hall) (o : Out) (f : Col → Col) : Hall := h.setPath fun p => { p with cols := upd p.cols o f }
def setColCmd (h : Hall) (o : Out) (c : ColCmd) : Hall :=
  h.setPath fun p => { p with colCmd := upd p.colCmd o fun _ => some c }
def setXpt (h : Hall) (t : Tx) (o : Out) (f : Xpt → Xpt) : Hall :=
  h.setPath fun p => { p with xpt := upd p.xpt o fun col => upd col t f }
def setPos (h : Hall) (o : Out) (p : Option Pos) : Hall := h.setPath fun q => { q with pos := upd q.pos o fun _ => p }
def mapPos (h : Hall) (o : Out) (f : Pos → Pos) : Hall := h.setPath fun q => { q with pos := upd q.pos o (Option.map f) }
def setDrvCmd (h : Hall) (l : Fin 8) (c : DriveCmd) : Hall :=
  h.setPath fun q => { q with drvCmd := upd q.drvCmd l fun _ => some c }
def setQueue (h : Hall) (l : List Motion) : Hall := h.setPath fun q => { q with queue := l }
def setSlot (h : Hall) (i : Fin 4) (s : Option Slot) : Hall := h.setPath fun q => { q with slots := upd q.slots i fun _ => s }
def mapSlots (h : Hall) (f : Slot → Option Slot) : Hall :=
  h.setPath fun q => { q with slots := q.slots.map fun s => s.bind f }
def setHold (h : Hall) (t : Tx) (f : Hold → Hold) : Hall := { h with holds := upd h.holds t f }
def setSense (h : Hall) (l : SenseLine) (f : Sense → Sense) : Hall := { h with sense := upd h.sense (senseIx l) f }
def setBank (h : Hall) (n : BankNo) (f : Bank → Bank) : Hall := { h with banks := upd h.banks n f }
def setIdle (h : Hall) (t : Tx) (i : Idle) : Hall := { h with idle := upd h.idle t fun _ => i }
def setAdopt (h : Hall) (t : Tx) (f : Adopt → Adopt) : Hall := { h with adopt := upd h.adopt t f }
/-- R56, R74: T's record takes a new assignment, and its idle timer stops in that event, though the assignment end in it too. -/
def beginAsg (h : Hall) (t : Tx) (a : Asg) : Hall := (h.setAsg t (some a)).setIdle t .stopped

/-- Do `f` for each element, in order. -/
def each {α : Type} (h : Hall) (l : List α) (f : α → Hall → Hall) : Hall := l.foldl (fun h a => f a h) h

end Hall

/-! ### The Fault Table -/

/-- R195: a report to the Fault Table. -/
structure Report where
  kind : FaultKind
  src : FaultSource
  occ : Option Occ
  freq : Option Nat
  detail : Option Detail

/-- R195. -/
def FaultKind.canBlock : FaultKind → Bool
  | .lockout | .hotSwitch | .matrixUnknown | .positionerStall | .antennaSuspect => true
  | _ => false

/-- R194: from 65535 to 1. -/
def seqSucc (n : Nat) : Nat := if 65535 ≤ n then 1 else n + 1

/-- R194: the next number that no record holds. -/
def freeSeq (recs : List FaultRec) : Nat → Nat → Nat
  | 0, n => n
  | k + 1, n => if recs.any (fun r => decide (r.seq = n)) then freeSeq recs k (seqSucc n) else n

/-- R198: the oldest non-blocking record: earliest first time, first created among equals. -/
def oldestOpen (recs : List FaultRec) : Option FaultRec :=
  recs.foldl (fun best r => if r.blocking then best else
    match best with
    | none => some r
    | some b => if r.first < b.first then some r else some b) none

/-- R194: append a new record. -/
def addRecord (sec : Seconds) (r : Report) (blocking : Bool) (displaced : Option Nat) (h : Hall) : Hall :=
  let n := freeSeq h.faults.recs (h.faults.recs.length + 1) h.faults.next
  let rec_ : FaultRec := ⟨n, r.kind, r.src, blocking, 1, sec, sec, r.occ, r.freq, r.detail⟩
  { h with faults := { h.faults with recs := h.faults.recs ++ [rec_], next := seqSucc n } }.note
    (.fault rec_ (.new displaced))

/-- R196: a record with one more report taken into it. -/
def FaultRec.coalesce (sec : Seconds) (r : Report) (blocking : Bool) (f : FaultRec) : FaultRec :=
  { f with count := min 65535 (f.count + 1), last := sec, occ := r.occ, freq := r.freq, detail := r.detail,
           blocking := blocking }

/-- R196 to R199: take a report. Its notice is made with the record as this report leaves it; the end of the event gives it the
record as it then stands (`NoticeBody.standing`). -/
def report (e : Env) (r : Report) (h : Hall) : Hall :=
  let isBlocked := blocked h r.src
  match h.faults.recs.find? (fun f => decide (f.kind = r.kind) && decide (f.src = r.src)) with
  | some f =>
      let g := f.coalesce e.sec r (f.blocking || (r.kind.canBlock && !isBlocked))
      { h with faults := { h.faults with recs := h.faults.recs.map fun (x : FaultRec) => if x.seq = f.seq then g else x } }.note
        (.fault g (if g.blocking && !f.blocking then .blocking else .repeated))
  | none =>
      let blocking := r.kind.canBlock && !isBlocked
      if h.faults.recs.length < Config.maxFaults then addRecord e.sec r blocking none h
      else if !blocking then { h with faults := { h.faults with overflow := true } }.note (.faultLost r.kind r.src)
      else
        match oldestOpen h.faults.recs with
        | none => { h with faults := { h.faults with overflow := true } }.note (.faultLost r.kind r.src)
        | some old =>
            addRecord e.sec r blocking (some old.seq)
              { h with faults := { h.faults with recs := h.faults.recs.filter fun (x : FaultRec) => decide (x.seq ≠ old.seq),
                                                 overflow := true } }

/-- A report of a transmitter's fault. -/
def reportTx (e : Env) (k : FaultKind) (t : Tx) (d : Option Detail) (h : Hall) : Hall := report e ⟨k, .tx t, none, none, d⟩ h

/-- A report that carries the occurrence and effective frequency of the SCHEDULE assignment on T (R166, R172). -/
def reportAsg (e : Env) (k : FaultKind) (t : Tx) (d : Option Detail) (withFreq : Bool) (h : Hall) : Hall :=
  match h.asg[t] with
  | some a =>
      match a.sched with
      | some s => report e ⟨k, .tx t, some s.occ, if withFreq then some a.eff.freq else none, d⟩ h
      | none => reportTx e k t d h
  | none => reportTx e k t d h

def reportOut (e : Env) (k : FaultKind) (o : Out) (d : Detail) (h : Hall) : Hall :=
  report e ⟨k, .out o, none, none, some d⟩ h

/-! ### Parts of the state -/

/-- What an event reads. -/
def State.env (s : State) : Env := ⟨s.tables, s.time⟩

/-- Run an operation of the hall. -/
def State.onHall (s : State) (f : Env → Hall → Hall) : State := { s with hall := f s.env s.hall }

end Sys2Proof.Machine
end

