-- ==== Sys2Proof/Machine/Banks.lean ====
section
/-! DEFINITION. Banks: records by id, occurrences and windows, clashes, references, retirement (R1 to R4, R15, R16). -/

namespace Sys2Proof.Machine

def Bank.find (b : Bank) (id : Nat) : Option EntryRec := b.recs.find? fun r => decide (r.entry.id = id)

def Bank.remove (b : Bank) (id : Nat) : Bank := { b with recs := b.recs.filter fun r => decide (r.entry.id ≠ id) }

/-- R1: ascending id order. -/
def insertRec (r : EntryRec) : List EntryRec → List EntryRec
  | [] => [r]
  | x :: l => if r.entry.id < x.entry.id then r :: x :: l else x :: insertRec r l

/-- R6, R28, R30: replace whole with the mark kept, or insert with no mark. -/
def Bank.put (b : Bank) (en : Entry) : Bank :=
  match b.find en.id with
  | some _ => { b with recs := b.recs.map fun r => if r.entry.id = en.id then { r with entry := en } else r }
  | none => { b with recs := insertRec ⟨en, none⟩ b.recs }

/-- R16: set an entry's mark. -/
def Bank.mark (b : Bank) (id : Nat) (m : Minutes) : Bank :=
  { b with recs := b.recs.map fun r => if r.entry.id = id then { r with mark := some m } else r }

/-- R2: the entry has an occurrence on date `d`, for a bank start instant. -/
def hasOcc (en : Entry) (start : Minutes) (d : Day) : Bool :=
  dayIn en.days d && en.valid.all (fun v => decide (v ≤ d)) && en.untilD.all (fun u => decide (d ≤ u)) &&
  decide (start ≤ occStart en d)

/-- R2: the lead of an entry in seconds. -/
def leadOf (k : Tables) (en : Entry) : Nat := en.lead.getD k.lead

/-- R2, R51: the admission instant is at or before the clock. -/
def admitted (e : Env) (en : Entry) (d : Day) : Bool := decide (occStart en d * 60 ≤ e.sec + leadOf e.k en)

/-- R3: two windows share at least one second. -/
def overlap (a b : Entry) (da db : Day) : Bool :=
  decide (max (occStart a da) (occStart b db) < min (occStop a da) (occStop b db))

/-- R3: some occurrence of `a` overlaps some of `b` whose date is `δ - 1` days from it (log 19): dates of `a` lie from
`lo` to `hi` (no upper bound: none); a mask repeats each week, so seven dates from `lo` decide. -/
def clashAt (a b : Entry) (start : Minutes) (shift : Nat) : Bool :=
  let lo := max (max (start / 1440) 1) (max (a.valid.getD 0) ((b.valid.getD 0) + 1 - shift))
  (List.range 9).any fun i =>
    let da := lo + i
    let db := da + shift - 1
    hasOcc a start da && hasOcc b start db && overlap a b da db

/-- R3: two entries of one bank clash, for a bank start instant. -/
def clash (start : Minutes) (a b : Entry) : Bool :=
  decide (a.id ≠ b.id) && decide (a.prio = b.prio) && (decide (a.tx = b.tx) || decide (a.out = b.out)) &&
  (clashAt a b start 0 || clashAt a b start 1 || clashAt a b start 2)

/-- The bank's record of an occurrence's entry. -/
def entryFor (h : Hall) (n : BankNo) (id : Nat) : Option EntryRec := (h.banks[n]).find id

/-- The ACTIVE bank, if any (R4: at most one). -/
def activeBank (h : Hall) : Option BankNo := allBanks.find? fun n => decide ((h.banks[n]).st = .active)

def retiringBank (h : Hall) : Option BankNo := allBanks.find? fun n => decide ((h.banks[n]).st = .retiring)

def bankNotice (n : BankNo) (h : Hall) : Hall :=
  h.note (.bank n (h.banks[n]).st (h.banks[n]).label (h.banks[n]).start)

/-- R15: an assignment or a stack item refers to the bank. -/
def hasRef (n : BankNo) (h : Hall) : Bool :=
  allTx.any fun t =>
    (h.asg[t]).any (fun a => a.counts && a.sched.any fun s => decide (s.occ.bank = n)) ||
    (h.stack[t]).any fun i => decide (i.item.occ.bank = n)

/-- R14, R15: the bank goes to SPENT with its notice. -/
def spendBank (n : BankNo) (h : Hall) : Hall := bankNotice n (h.setBank n fun b => { b with st := .spent })

/-- R15 without regard to the hall mode (R19: HALL reset; R212 step 2, where a stack item counts as a reference too: log 57). -/
def retireNow (n : BankNo) (h : Hall) : Hall :=
  if decide ((h.banks[n]).st = .retiring) && !hasRef n h then spendBank n h else h

/-- R15, R18 (log 21): a RETIRING bank without references becomes SPENT, but not while the hall is ADOPTING. -/
def retireCheck (n : BankNo) (h : Hall) : Hall := if h.mode = .adopting then h else retireNow n h

end Sys2Proof.Machine
end

