-- ==== Sys2Proof/Machine/Supervisor.lean ====
section
/-! DEFINITION. Transmitter Supervisor operations below the engine: part-side state changes with their TX notices, orders
handed over, overtaken and withdrawn, LOWER and CLEAR-TRIP (R139 to R141, R153). -/

namespace Sys2Proof.Machine

/-- R139, R153: a change of part-side state sends a TX notice. A transmitter without assignment that becomes available
(R53) starts an allocation run (R71). The state before loss is present only while UNREACHABLE (R131). LOCAL, on whatever way it is entered, sets the recovery IDLE
(R168), and nothing is sent again there (R148). -/
def setTxState (t : Tx) (new : TxState) (c : TxCause) (h : Hall) : Hall :=
  let old := (h.tx[t]).st
  if old = new then h
  else
    let h := (h.setTx t fun r =>
      { r with st := new, before := if new = .unreachable then r.before else none
               resend := r.resend && decide (new ≠ .isLocal)
               rcv := if new = .isLocal then Recovery.idle else r.rcv }).note (.tx t new old c)
    if isAvail new && !isAvail old && (h.asg[t]).isNone then h.wantAlloc else h

/-- An order before its first sending. -/
def Order.mk0 (kind : OrderKind) (engine byTrip : Bool) : Order :=
  { kind := kind, engine := engine, handBack := true, byTrip := byTrip, no := none, sentAt := none, since := none,
    timeout := 0, answered := false, prev := .absent, sawTuning := false, again := false }

/-- R141: an order handed back as overtaken. The engine keeps a TUNE or RAISE that its assignment still calls for as
wanted: for an assignment ON_AIR the RAISE of a new power (log 23). -/
def overtaken (t : Tx) (o : Order) (h : Hall) : Hall :=
  if o.engine && o.handBack then
    h.mapAsg t fun a =>
      match o.kind with
      | .tune _ _ _ => if a.tune = .asked then { a with tune := .wanted } else a
      | .raise _ =>
          if a.raise ≠ .asked then a
          else if a.phase = .onAir then { a with raise := .done, power := true }
          else { a with raise := .wanted }
      | _ => a
  else h

/-- The outstanding order ends as overtaken when `p` holds of it. -/
def overtakeOut (t : Tx) (p : Order → Bool) (h : Hall) : Hall :=
  match (h.tx[t]).out with
  | some o => if p o then overtaken t o (h.setTx t fun r => { r with out := none }) else h
  | none => h

/-- The pending order is dropped and handed back as overtaken when `p` holds of it. -/
def overtakePend (t : Tx) (p : Order → Bool) (h : Hall) : Hall :=
  match (h.tx[t]).pend with
  | some o => if p o then overtaken t o (h.setTx t fun r => { r with pend := none }) else h
  | none => h

/-- A LOWER that has been sent. -/
def Order.lowerSent (o : Order) : Bool := decide (o.kind = .lower) && o.sentAt.isSome

/-- R148: in LOCAL the outstanding and the pending order have ended as overtaken. -/
def ordersOver (t : Tx) (h : Hall) : Hall := overtakePend t (fun _ => true) (overtakeOut t (fun _ => true) h)

/-- R141: an order waits as the pending one; one already there is replaced and handed back as overtaken. -/
def makePending (t : Tx) (o : Order) (h : Hall) : Hall :=
  (overtakePend t (fun _ => true) h).setTx t fun r => { r with pend := some o }

/-- R165: a LOWER in hand and not yet sent becomes one that the trip rules ordered; one that was sent stays as it was (log 13). -/
def lowerByTrip (t : Tx) (h : Hall) : Hall :=
  let mark (o : Order) : Order := if decide (o.kind = .lower) && o.sentAt.isNone then { o with byTrip := true } else o
  h.setTx t fun r => { r with out := r.out.map mark, pend := r.pend.map mark }

/-- R141: a LOWER to be sent overtakes a RAISE or TUNE, drops a pending RAISE, and waits behind a WARM, COOL or
CLEAR-TRIP. One LOWER at a time is in hand (log 13): one that a trip orders too, before it is sent, is the trip's (R165). -/
def queueLower (t : Tx) (byTrip : Bool) (h : Hall) : Hall :=
  if (h.tx[t]).lowerInHand then if byTrip then lowerByTrip t h else h
  else
    let h := overtakePend t (fun o => o.kind.isRaise) (overtakeOut t (fun o => o.kind.isRaise || o.kind.isTune) h)
    let o := Order.mk0 .lower false byTrip
    match (h.tx[t]).out with
    | none => h.setTx t fun r => { r with out := some o }
    | some _ => makePending t o h

/-- R140: LOWER handed, by the engine or by the Supervisor's own rules. In ABSENT and LOCAL, and for a transmitter that is
not defined, nothing is sent; where it does not radiate and RFP is inactive, it is complete at once. -/
def handLower (e : Env) (t : Tx) (byTrip : Bool) (h : Hall) : Hall :=
  if !txDefined e.k h t then h
  else
    match (h.tx[t]).st with
    | .absent | .isLocal => h
    | .cold | .warming | .standby | .tuning | .ready => if rfpActive e h t then queueLower t byTrip h else h
    | _ => queueLower t byTrip h

/-- R146: CLEAR-TRIP of the Supervisor's own. -/
def handClear (e : Env) (t : Tx) (h : Hall) : Hall :=
  if !txDefined e.k h t || (h.tx[t]).inHand (fun k => decide (k = .clearTrip)) then h
  else
    let o := Order.mk0 .clearTrip false false
    match (h.tx[t]).out with
    | none => h.setTx t fun r => { r with out := some o }
    | some _ => makePending t o h

/-- R59: a RAISE of the engine that is not yet sent is withdrawn, without record. -/
def withdrawRaise (t : Tx) (h : Hall) : Hall :=
  h.setTx t fun r =>
    { r with out := r.out.filter fun o => !(o.kind.isRaise && o.sentAt.isNone && o.engine)
             pend := r.pend.filter fun o => !(o.kind.isRaise && o.engine) }

/-- R62: a RAISE of the engine that is not yet sent. -/
def Order.unsentRaise (o : Order) : Bool := o.kind.isRaise && o.sentAt.isNone && o.engine

/-- R62: the RAISE of the engine that is not yet sent takes a new power. -/
def repower (t : Tx) (kw : Nat) (h : Hall) : Hall :=
  let put (o : Order) : Order := if o.unsentRaise then { o with kind := .raise kw } else o
  h.setTx t fun r => { r with out := r.out.map put, pend := r.pend.map put }

/-- The end of what is in hand of the kinds `p` is not handed to the engine. -/
def noHandBack (t : Tx) (p : OrderKind → Bool) (h : Hall) : Hall :=
  let cut (o : Order) : Order := if p o.kind then { o with handBack := false } else o
  h.setTx t fun r => { r with out := r.out.map cut, pend := r.pend.map cut }

/-- R66, R172: what is in hand runs on, and its end is not handed to the engine; a LOWER still ends the waits on it. -/
def dropHandBack (t : Tx) (h : Hall) : Hall := noHandBack t (fun k => decide (k ≠ .lower)) h

end Sys2Proof.Machine
end

