-- ==== Sys2Proof/Machine/Sequences.lean ====
section
/-! DEFINITION. Path sequences below the engine: leaving requests, cancelling, claims and row changes (R58, R97, R102,
R110, R113). -/

namespace Sys2Proof.Machine

/-- R102: a sequence leaves its QUEUED requests; a request no sequence awaits is withdrawn. -/
def leaveQueued (t : Tx) (h : Hall) : Hall :=
  h.setQueue ((h.path.queue.map fun m => { m with waiters := m.waiters.filter fun u => decide (u ≠ t) }).filter
    fun m => !m.waiters.isEmpty)

/-- R110: cancel. A pending target belongs to the request now cancelled and is given up with it. -/
def cancelSeq (t : Tx) (h : Hall) : Hall :=
  if (h.path.seqs[t]).stage = .idle then h
  else
    let h := leaveQueued t h
    if (grantedOf h t).isEmpty then h.setSeq t fun _ => PathSeq.idle
    else h.setSeq t fun s => { s with stage := .cancelling, target := none, next := none }

/-- R97: an output whose state is FREE or PARKED hands the output-available event. -/
def outAvailable (o : Out) (h : Hall) : Hall :=
  if decide (outState h o = .free) || decide (outState h o = .parked) then h.wantAlloc else h

/-- R97: an output whose state was `old` and is `now` hands the output-available event when it has become FREE or PARKED from
any other state, each from the other among them. A state that stays hands nothing. -/
def outBecomes (old now : OutState) (h : Hall) : Hall :=
  if decide (now ≠ old) && (decide (now = .free) || decide (now = .parked)) then h.wantAlloc else h

/-- R58, R97: a claim released. -/
def release (o : Out) (h : Hall) : Hall := outAvailable o (h.setOwner o none)

/-- R58: the claim on a made output is dropped when its crosspoint is reported OPEN, unless it is the effective output
that the assignment claims. -/
def rowOpened (t : Tx) (o : Out) (h : Hall) : Hall :=
  if h.path.owner[o] = some t then
    match h.asg[t] with
    | some a => if a.eff.out = o && !a.phase.isEnding then h else release o h
    | none => release o h
  else h

/-- R105: an OPEN crosspoint needs no break: a BREAK still queued for one that a read finds OPEN is withdrawn (log 20). -/
def dropBreak (t : Tx) (o : Out) (h : Hall) : Hall :=
  h.setQueue (h.path.queue.filter fun m => decide (m.kind ≠ .brk t o))

/-- R99, R113: a crosspoint's record becomes OPEN, CLOSED or UNKNOWN: the notice with the output's state after the change
(`after`), and with it the row change and, where that state differs from the one before, the output-available event (R97). -/
def xptChangeTo (t : Tx) (o : Out) (st : XState) (c : XCause) (after : Hall → OutState) (h : Hall) : Hall :=
  if xst h t o = st then h
  else
    let old := outState h o
    let h := h.setXpt t o fun x => { x with st := st }
    let h := if st = .opened then rowOpened t o (dropBreak t o h) else h
    outBecomes old (after h) (h.note (.crosspoint t o st (after h) c))

/-- The state a notice gives for an output: FAULTED when the same event faults it (log 20). -/
def stateAfter (fault : Bool) (o : Out) (h : Hall) : OutState := if fault then .faulted else outState h o

def xptChange (t : Tx) (o : Out) (st : XState) (c : XCause) (fault : Bool) (h : Hall) : Hall :=
  xptChangeTo t o st c (stateAfter fault o) h

/-- R130: a positioner's record becomes PARKED or STALLED: its notice. -/
def posChangeTo (o : Out) (st : PosState) (c : PosCause) (after : Hall → OutState) (h : Hall) : Hall :=
  let h := h.mapPos o fun p => { p with st := st }
  h.note (.positioner o st ((h.path.pos[o]).bind Pos.az) (after h) c)

def posChange (o : Out) (st : PosState) (c : PosCause) (fault : Bool) (h : Hall) : Hall :=
  posChangeTo o st c (stateAfter fault o) h

end Sys2Proof.Machine
end

