-- ==== Sys2Proof/Machine/Ends.lean ====
section
/-! DEFINITION. Ends of assignments, preemption stacks and the deferral list (R55, R64 to R70). -/

namespace Sys2Proof.Machine

/-- R69: push; a full stack first drops its bottom item, a reference leaving its bank (R15), and a removal (R71). -/
def pushStack (e : Env) (t : Tx) (it : Item) (r : StackReason) (h : Hall) : Hall :=
  let new : StackItem := ⟨it, e.sec, r⟩
  let l := h.stack[t]
  if l.length < Config.maxStack then h.setStack t (new :: l)
  else
    let keep := l.take (Config.maxStack - 1)
    let out := l.drop (Config.maxStack - 1)
    let h := (h.setStack t (new :: keep)).wantAlloc
    h.each out fun i h => retireCheck i.item.occ.bank (h.note (.dropped i.item.occ))

/-- R67: priority descending, start ascending, transmitter number; equal keys in order of insertion. -/
def itemBefore (a b : Item) : Bool :=
  decide (a.prio > b.prio) ||
  (decide (a.prio = b.prio) &&
    (decide (a.start < b.start) || (decide (a.start = b.start) && decide (a.tx.val < b.tx.val))))

def insertItem (d : DeferItem) : List DeferItem → List DeferItem
  | [] => [d]
  | x :: l => if itemBefore d.item x.item then d :: x :: l else x :: insertItem d l

/-- R67: join the deferral list, or be skipped when it is full. -/
def deferItem (e : Env) (it : Item) (r : DeferReason) (h : Hall) : Hall :=
  if h.deferral.length < Config.maxDeferral then
    { h with deferral := insertItem ⟨it, r⟩ h.deferral }.note (.deferred it.occ r)
  else (report e ⟨.scheduleSkip, .schedule, some it.occ, none, none⟩ h).note (.skipped it.occ)

/-- The occurrence of a SCHEDULE assignment as an item off air. -/
def Asg.item (t : Tx) (a : Asg) : Option Item :=
  a.sched.map fun s => ⟨s.occ, t, s.prio, s.start, s.stop, a.trips, a.fold⟩

/-- R55, R58, R180: a claim given up by T's ended assignment passes to the assignment that awaits the output from it and
still has it as its effective output; otherwise the output is released. -/
def passClaim (t : Tx) (o : Out) (h : Hall) : Hall :=
  match allTx.find? (fun u => (h.asg[u]).any fun a =>
      decide (a.awaits = some (o, t)) && decide (a.eff.out = o) && !a.phase.isEnding) with
  | some u => (h.setOwner o (some u)).mapAsg u fun a => { a with awaits := none, path := .wanted }
  | none => release o h

/-- Waits for outputs of T's ended assignment end with it. -/
def clearAwaits (t : Tx) (h : Hall) : Hall :=
  { h with asg := h.asg.map fun a => a.map fun x => if x.awaits.any (fun w => decide (w.2 = t)) then { x with awaits := none } else x }

/-- R66: the completion of an end, steps 1 to 5, with the reference that leaves (R15). An item whose stop instant has passed leaves
with an EXPIRED notice whatever pushed it, LOCAL included (log 52). -/
def completeEnd (e : Env) (t : Tx) (h : Hall) : Hall :=
  match h.asg[t] with
  | none => h
  | some a =>
    match a.phase with
    | .ending o after =>
      let item := a.item t
      let passed := item.any fun i => decide (i.stop ≤ e.min)
      -- step 1
      let h :=
        match after, item with
        | .push r, some i => if passed then h else pushStack e t i r h
        | _, _ => h
      -- steps 2 and 3
      let h := (h.each (claims h t) (passClaim t)).setAsg t none
      let h := clearAwaits t h
      -- step 4
      let h := h.note (.assignment t (a.sched.map Sched.occ) o a.late a.trips a.fold after)
      let h :=
        match after, item with
        | .push _, some i => if passed then h.note (.expired i.occ) else h
        | .defer r, some i => if passed then h else deferItem e i r h
        | _, _ => h
      let h := match item with | some i => retireCheck i.occ.bank h | none => h
      -- step 5
      h.wantAlloc
    | _ => h

/-- R66: lowering first, and completion when the transmitter does not radiate. -/
def tryEnd (e : Env) (t : Tx) (h : Hall) : Hall :=
  match h.asg[t] with
  | none => h
  | some a =>
    if !a.phase.isEnding then h
    else if a.lowerOver || !(h.tx[t]).needsLower then completeEnd e t h
    else if (h.tx[t]).lowerInHand || decide ((h.tx[t]).st = .lowering) then h
    else handLower e t false h

/-- R66: an assignment goes to ENDING. A second cause does not change its outcome. -/
def endAsg (e : Env) (t : Tx) (o : EndOutcome) (after : After) (h : Hall) : Hall :=
  match h.asg[t] with
  | none => h
  | some a =>
    if a.phase.isEnding then h
    else
      let h := h.setAsg t (some { a with phase := .ending o after, awaits := none, tune := .done, path := .done,
                                         raise := .done, power := false, lowerOver := false })
      tryEnd e t (cancelSeq t (dropHandBack t (withdrawRaise t h)))

/-- R66, R76: QUIESCE, SECTION reset and STORE-ERASE set an ENDING assignment to ABORTED and cancel its push or
deferral. -/
def abortAsg (e : Env) (t : Tx) (h : Hall) : Hall :=
  match h.asg[t] with
  | none => h
  | some a =>
    if a.phase.isEnding then h.setAsg t (some { a with phase := .ending .aborted .nothing })
    else endAsg e t .aborted .nothing h

/-- R111, R64: a path sequence fails: PATH-FAILED to the engine, then as a cancel. -/
def failSeq (e : Env) (t : Tx) (h : Hall) : Hall := cancelSeq t (endAsg e t .failed .nothing h)

/-- R55, R65: an assignment pushed onto its own stack at once; its record and claims are left to the caller. -/
def pushAsg (e : Env) (t : Tx) (a : Asg) (r : StackReason) (h : Hall) : Hall :=
  match a.item t with
  | some i => if i.stop ≤ e.min then h else pushStack e t i r h
  | none => h

/-- R65, R211: T reported LOCAL. No LOWER is ordered; an ENDING assignment completes at once with its own outcome; a
SCHEDULE assignment is pushed, a FOREIGN one ends ABORTED. -/
def engineLocal (e : Env) (t : Tx) (h : Hall) : Hall :=
  match h.asg[t] with
  | none => h
  | some a =>
    let a' : Asg :=
      if a.phase.isEnding then a
      else match a.sched with
        | some _ => { a with phase := .ending .preempted (.push .isLocal) }
        | none => { a with phase := .ending .aborted .nothing }
    completeEnd e t (h.setAsg t (some { a' with awaits := none }) |> dropHandBack t |> cancelSeq t)

/-- R172 step 4, R173 step 5: a lockout handed to the engine. -/
def engineLockout (e : Env) (t : Tx) (h : Hall) : Hall := endAsg e t .lockedOut .nothing h

/-- R64: LOWER-TIMEOUT completes any wait on that LOWER. -/
def engineLowerTimeout (e : Env) (t : Tx) (h : Hall) : Hall :=
  tryEnd e t (h.mapAsg t fun a => { a with lowerOver := true })

/-- The items of a stack leave it one after another, each with its notice and its reference leaving; a bank keeps the
references of the items that have still to leave (R70, R15). -/
def itemsLeave (n : Occ → NoticeBody) : List StackItem → Hall → Hall
  | [], h => h
  | i :: rest, h =>
      let h := h.note (n i.item.occ)
      itemsLeave n rest
        (if rest.any fun x => decide (x.item.occ.bank = i.item.occ.bank) then h else retireCheck i.item.occ.bank h)

/-- R70, R15: the items of a stack that satisfy `p` are removed. -/
def dropStack (t : Tx) (p : Item → Bool) (n : Occ → NoticeBody) (h : Hall) : Hall :=
  let out := (h.stack[t]).filter fun i => p i.item
  if out.isEmpty then h
  else
    itemsLeave n out (h.setStack t ((h.stack[t]).filter fun i => !p i.item)).wantAlloc

/-- R68: items of the deferral list that satisfy `p` are removed, each with its notice. -/
def dropDeferral (p : Item → Bool) (n : Occ → NoticeBody) (h : Hall) : Hall :=
  let out := h.deferral.filter fun (i : DeferItem) => p i.item
  { h with deferral := h.deferral.filter fun (i : DeferItem) => !p i.item }.notes (out.map fun (i : DeferItem) => n i.item.occ)

end Sys2Proof.Machine
end

