-- ==== Sys2Proof/Machine/Freq.lean ====
section
/-! DEFINITION. The Frequency Check (R77, R84), the engine's checks before orders (R85, R86), and the sweep after an edit
(R87, R211). -/

namespace Sys2Proof.Machine

/-- R77. -/
def Exclusion.covers (x : Exclusion) (f : Nat) (m : Mode) : Bool :=
  within x.low x.high f && match m with | .full => x.full | .reduced => x.reduced | .digital => x.digital

/-- R84: the index of the lowest-indexed covering range. -/
def coveredBy (k : Tables) (f : Nat) (m : Mode) : Option Nat :=
  let i := k.excl.findIdx fun x => x.covers f m
  if i < k.excl.length then some i else none

/-- R84, R178: a question; parts may be absent, and the tests that need an absent part are passed over. -/
structure Question where
  freq : Option Nat
  mode : Option Mode
  out : Option Out
  power : Option Nat
  tx : Option Tx

/-- R84: the check. -/
def check (k : Tables) (h : Hall) (q : Question) : CheckAnswer :=
  if !q.freq.all freqOk then .range .frequency
  else if q.out.any (fun o => !(k.outs[o]).defined) then .notFound .output
  else if q.out.any (fun o => q.freq.any fun f => !within (k.outs[o]).low (k.outs[o]).high f) then .range .outputRange
  else if q.out.any (fun o => q.power.any fun p => decide ((k.outs[o]).rating < p)) then .range .outputRating
  else if q.tx.any (fun t => !txDefined k h t) then .notFound .transmitter
  else if q.tx.any (fun t => q.power.any fun p => decide ((k.txs[t]).rating < p)) then .range .txRating
  else
    match q.freq, q.mode with
    | some f, some m => match coveredBy k f m with | some i => .excluded i | none => .permitted
    | _, _ => .permitted

/-- R85: the question about effective parameters, transmitter named. -/
def checkParams (k : Tables) (h : Hall) (t : Tx) (p : Params) : CheckAnswer :=
  check k h ⟨some p.freq, some p.mode, some p.out, some p.power, some t⟩

/-- R84: the status of an answer as a reply. -/
def CheckAnswer.status : CheckAnswer → Status
  | .permitted => .ok
  | .range _ => .range
  | .notFound _ => .notFound
  | .excluded _ => .excluded

/-- R52, R85, R87: the EXCLUDED-AT-ADMISSION report. -/
def reportExcluded (e : Env) (occ : Occ) (f : Nat) (p : CheckPoint) (a : CheckAnswer) (h : Hall) : Hall :=
  report e ⟨.excludedAtAdmission, .schedule, some occ, some f, some (.excluded p a)⟩ h

/-- R85, R87, R211: the fault record of a refusal of what T's assignment uses. -/
def reportRefusal (e : Env) (t : Tx) (p : CheckPoint) (ans : CheckAnswer) (h : Hall) : Hall :=
  match h.asg[t] with
  | none => h
  | some a =>
    match a.sched with
    | some s => reportExcluded e s.occ a.eff.freq p ans h
    | none => report e ⟨.foreignCarrier, .tx t, none, some a.eff.freq, some (.foreign .excluded (some ans))⟩ h

/-- R85, R87, R211: the end of an assignment refused: FAILED, ABORTED for FOREIGN. -/
def endRefused (e : Env) (t : Tx) (h : Hall) : Hall :=
  endAsg e t (if (h.asg[t]).any fun a => a.sched.isNone then .aborted else .failed) .nothing h

def refuseAsg (e : Env) (t : Tx) (p : CheckPoint) (ans : CheckAnswer) (h : Hall) : Hall :=
  endRefused e t (reportRefusal e t p ans h)

/-- R87: the answer that refuses T's assignment of one source, not in ENDING. -/
def refusal (e : Env) (h : Hall) (foreign : Bool) (t : Tx) : Option CheckAnswer :=
  ((h.asg[t]).filter fun a => !a.phase.isEnding && decide (a.sched.isNone = foreign)).bind fun a =>
    (some (checkParams e.k h t a.eff)).filter fun ans => decide (ans ≠ .permitted)

/-- R87: the assignments of one source that are refused, in ascending transmitter order. -/
def refusals (e : Env) (h : Hall) (foreign : Bool) : List (Tx × CheckAnswer) :=
  allTx.filterMap fun t => (refusal e h foreign t).map fun ans => (t, ans)

/-- R87: the records of all refusals, then the ends. -/
def sweepOf (e : Env) (l : List (Tx × CheckAnswer)) (h : Hall) : Hall :=
  (h.each l fun x h => reportRefusal e x.1 .edit x.2 h).each l fun x h => endRefused e x.1 h

/-- R87, R211: the sweep: SCHEDULE assignments in ascending transmitter order, then FOREIGN ones. -/
def sweep (e : Env) (h : Hall) : Hall := sweepOf e (refusals e h false ++ refusals e h true) h

/-- R156, R211: the sweep after STORE-ERASE, which ends no FOREIGN assignment (log 35). -/
def sweepErased (e : Env) (h : Hall) : Hall := sweepOf e (refusals e h false) h

/-- R6 steps 2 to 5, R8 step 2, R24: an entry against the definitions, ratings, exclusion table and output ranges.
`none`: it passes; otherwise the status, and the check's answer when the check gave it. -/
def entryFault (k : Tables) (h : Hall) (en : Entry) : Option (Status × Option CheckAnswer) :=
  if !txDefined k h en.tx || !(k.outs[en.out]).defined then some (.notFound, none)
  else if en.preset.isSome ≠ (k.outs[en.out]).slewable then some (.range, none)
  else if (k.txs[en.tx]).rating < en.power then some (.range, none)
  else
    match check k h ⟨some en.freq, some en.mode, some en.out, some en.power, none⟩ with
    | .permitted => none
    | a => some (a.status, some a)

end Sys2Proof.Machine
end

