-- ==== Sys2Proof/Machine/Paths.lean ====
section
/-! DEFINITION. Path requests and sequences (R103 to R111), the motion queue and its grants (R98, R101, R123, R124), and
the READ and QUERY that wait for a slot (R93, R121). -/

namespace Sys2Proof.Machine

/-- R107: PATH-COMPLETE to the engine. -/
def pathComplete (t : Tx) (h : Hall) : Hall :=
  h.mapAsg t fun a => if a.path = .asked then { a with path := .done } else a

/-- R103 step 1, R111: an UNKNOWN crosspoint in the row or the column, or a FAULTED output. -/
def pathBlocked (h : Hall) (t : Tx) (o : Out) : Bool :=
  decide (outState h o = .faulted) || allOut.any (fun p => decide (xst h t p = .unknown)) ||
  allTx.any fun u => decide (xst h u o = .unknown)

/-- R106, R116: a SLEW is wanted when the output is slewable and its positioner is not parked at the preset. -/
def slewWanted (k : Tables) (h : Hall) (g : Target) : Bool :=
  (k.outs[g.out]).slewable && (h.path.pos[g.out]).isSome && !parkedAt h g.out g.preset

/-- R103 step 2. -/
def pathMade (k : Tables) (h : Hall) (t : Tx) (g : Target) : Bool :=
  decide (xst h t g.out = .closed) && !slewWanted k h g

/-- R123: the target preset is undefined. -/
def presetUndefined (h : Hall) (g : Target) : Bool :=
  match h.path.pos[g.out], g.preset with
  | some p, some n => if hn : n < 16 then (p.presets[n]).isNone else true
  | _, _ => false

/-- R103, R109: a path request. A re-target keeps the permits wanted, which stay in the record, SETTLING though its stage be
(log 49). -/
def pathRequest (e : Env) (t : Tx) (g : Target) (h : Hall) : Hall :=
  if presetUndefined h g then failSeq e t h
  else
    match (h.path.seqs[t]).stage with
    | .idle =>
        if pathBlocked h t g.out then failSeq e t h
        else if pathMade e.k h t g then pathComplete t h
        else h.setSeq t fun s => { s with stage := .settling, target := some g }
    | .settling | .permits => h.setSeq t fun s => { s with stage := .settling, target := some g }
    | .breaking | .making =>
        let h := leaveQueued t h
        let stage := if (grantedOf h t).isEmpty then SeqStage.settling else .redirecting
        h.setSeq t fun s => { s with stage := stage, target := some g }
    | .redirecting => h.setSeq t fun s => { s with target := some g }
    | .cancelling => h.setSeq t fun s => { s with next := some g }

/-- R101: join a request held for the same target and kind, or enter the queue with the next arrival number. -/
def joinOrQueue (t : Tx) (k : MotionKind) (h : Hall) : Hall :=
  let add (m : Motion) : Motion := if m.waiters.contains t then m else { m with waiters := m.waiters ++ [t] }
  if h.path.queue.any fun m => decide (m.kind = k) then
    h.setQueue (h.path.queue.map fun m => if m.kind = k then add m else m)
  else if (slotList h).any fun s => decide (s.motion.kind = k) && !s.hot then
    h.mapSlots fun s => some (if s.motion.kind = k then { s with motion := add s.motion } else s)
  else h.setPath fun p => { p with queue := p.queue ++ [⟨k, p.arrival, [t]⟩], arrival := seqSucc p.arrival }

/-- R105: the breaks a sequence needs, row break first. -/
def breaksNeeded (h : Hall) (t : Tx) (o : Out) : List MotionKind :=
  ((allOut.filter fun p => decide (p ≠ o) && decide (xst h t p ≠ .opened)).map fun p => .brk t p) ++
  ((allTx.filter fun u => decide (u ≠ t) && decide (xst h u o ≠ .opened)).map fun u => .brk u o)

/-- R104: row T and column O are at rest, and no slew of O's positioner holds a slot. -/
def settled (h : Hall) (t : Tx) (o : Out) : Bool :=
  (slotList h).all fun s =>
    match s.motion.kind with
    | .make u p | .brk u p => decide (u ≠ t) && decide (p ≠ o)
    | .slew p _ => decide (p ≠ o)

/-- R104: the permits a sequence wants: its own row's, and that of the row that holds the column. -/
def permitsWanted (h : Hall) (t : Tx) (o : Out) : List Tx :=
  t :: allTx.filter fun u => decide (u ≠ t) && decide (xst h u o ≠ .opened)

/-- R104 to R111: the next move of T's sequence, if it has one now. A crosspoint of its row or column that becomes UNKNOWN
once it has settled fails it at once, in every stage (R111, log 43). -/
def seqStep (e : Env) (t : Tx) (h : Hall) : Option Hall :=
  let s := h.path.seqs[t]
  match s.stage, s.target with
  | .idle, _ => none
  | .cancelling, _ =>
      if !(grantedOf h t).isEmpty then none
      else match s.next with
        | some g => some (h.setSeq t fun s => { s with stage := .settling, target := some g, next := none })
        | none => some (h.setSeq t fun _ => PathSeq.idle)
  | .redirecting, _ =>
      if (grantedOf h t).isEmpty then some (h.setSeq t fun s => { s with stage := .settling }) else none
  | _, none => some (h.setSeq t fun _ => PathSeq.idle)
  | .settling, some g =>
      if outState h g.out = .faulted then some (failSeq e t h)
      else if !settled h t g.out then none
      else if pathBlocked h t g.out then some (failSeq e t h)
      else some (h.setSeq t fun s => { s with stage := .permits, wants := permitsWanted h t g.out })
  | .permits, some g =>
      if pathBlocked h t g.out then some (failSeq e t h)
      else if s.wants.all fun u => decide ((h.tx[u]).permit = .granted) then
        some ((h.setSeq t fun s => { s with stage := .breaking }).each (breaksNeeded h t g.out) (joinOrQueue t))
      else none
  | .breaking, some g =>
      if pathBlocked h t g.out then some (failSeq e t h)
      else if (grantedOf h t).isEmpty && (queuedOf h t).isEmpty then
        some (h.setSeq t fun s => { s with stage := .making })
      else none
  | .making, some g =>
      let awaited := (grantedOf h t ++ queuedOf h t).map Motion.kind
      let slewing := (h.path.queue.map Motion.kind ++ (slotList h).map fun s => s.motion.kind)
      if pathBlocked h t g.out then some (failSeq e t h)
      else if decide (xst h t g.out ≠ .closed) && !awaited.contains (.make t g.out) then
        some (joinOrQueue t (.make t g.out) h)
      else if slewWanted e.k h g then
        match g.preset with
        | some p =>
            if awaited.contains (.slew g.out p) then none
            else if slewing.any (fun k => sameTarget k (.slew g.out p) && decide (k ≠ .slew g.out p)) then none
            else some (joinOrQueue t (.slew g.out p) h)
        | none => none
      else if awaited.isEmpty then some (pathComplete t (h.setSeq t fun _ => PathSeq.idle))
      else none

/-- R101: the first eligible request in order of class descending, then arrival. -/
def bestRequest (h : Hall) : Option Motion :=
  (h.path.queue.filter fun m => eligible h m).foldl (fun best m =>
    match best with
    | none => some m
    | some b => if motionClass h b < motionClass h m then some m else some b) none

def freeSlot (h : Hall) : Option (Fin 4) := (idxs 4).find? fun i => (h.path.slots[i]).isNone

/-- The azimuth of a defined preset. -/
def Pos.preset (p : Pos) (n : Nat) : Option Nat := if hn : n < 16 then p.presets[n] else none

/-- R124: travel in degrees between the stops, from the parked preset's azimuth or the last azimuth. -/
def travel (p : Pos) (target : Nat) : Nat :=
  let here := match p.st with
    | .parked (some n) => p.preset n
    | _ => p.az
  match here with
  | some a => (a - target) + (target - a)
  | none => 0

/-- Ceiling of a division. -/
def ceilDiv (a b : Nat) : Nat := (a + b - 1) / b

/-- R98, R124: what a grant does beyond taking the slot: the record moves and the command is sent; a FREE output that a MAKE
makes PARKED hands the output-available event (R97). The answer is the motion's timeout in ms. -/
def startMotion (e : Env) (k : MotionKind) (h : Hall) : Hall × Ms :=
  match k with
  | .make t o =>
      let old := outState h o
      let h := (h.setXpt t o fun x => { x with st := .closing }).setColCmd o (.make t)
      (outBecomes old (outState h o) h, (e.k.outs[o]).throw * 1000)
  | .brk t o =>
      ((h.setXpt t o fun x => { x with st := .opening }).setColCmd o (.brk t), (e.k.outs[o]).throw * 1000)
  | .slew o n =>
      match h.path.pos[o] with
      | none => (h, 0)
      | some p =>
          let az := (p.preset n).getD 0
          ((h.mapPos o fun p => { p with st := .slewing n }).setDrvCmd p.line (.move az),
            (ceilDiv (travel p az) p.rate + 20) * 1000)

/-- R98, R101: grant a free slot to the best request, if there is one. -/
def grantStep (e : Env) (h : Hall) : Option Hall :=
  match freeSlot h, bestRequest h with
  | some i, some m =>
      let h := h.setQueue (h.path.queue.filter fun x => decide (x ≠ m))
      let r := startMotion e m.kind h
      some (r.1.setSlot i (some ⟨m, e.now, r.2, false⟩))
  | _, _ => none

/-- R93: a READ that waits is sent when no throw of the column holds a slot; a fault clear's READ after adoption's
(log 29). -/
def colStep (e : Env) (o : Out) (h : Hall) : Option Hall :=
  let c := h.path.cols[o]
  if colThrow h o then none
  else
    let sent (j : ColJob) : ColJob := { j with deadline := some (e.now + Config.readMs) }
    match c.adopt, c.clear with
    | some j, _ =>
        if j.deadline.isSome then none
        else some ((h.setCol o fun c => { c with adopt := some (sent j) }).setColCmd o .read)
    | none, some j =>
        if j.deadline.isSome then none
        else some ((h.setCol o fun c => { c with clear := some (sent j) }).setColCmd o .read)
    | none, none => none

/-- R121, R122: a QUERY that waits is sent when no slew of the positioner holds a slot. -/
def queryStep (e : Env) (o : Out) (h : Hall) : Option Hall :=
  match h.path.pos[o] with
  | none => none
  | some p =>
    match p.job with
    | none => none
    | some j =>
      if j.query.isSome || j.again.isSome || (slewSlot h o).isSome then none
      else
        let j := { j with began := if j.misses = 0 then e.now else j.began, query := some (e.now + Config.readMs) }
        some ((h.mapPos o fun p => { p with job := some j }).setDrvCmd p.line .query)

/-- R122: begin a read of a positioner; the QUERY goes out when the slot is free. -/
def beginRead (o : Out) (clear : Bool) (now : Ms) (h : Hall) : Hall :=
  h.mapPos o fun p => { p with job := some ⟨now, 0, none, none, clear⟩ }

end Sys2Proof.Machine
end

