-- ==== Sys2Proof/Machine/Permits.lean ====
section
/-! DEFINITION. Hot switches (R112, R127, R173), lockout (R172), switch permits (R150 to R152). -/

namespace Sys2Proof.Machine

/-- R100, R109, R110, R111, R126: an awaited motion failed: a sequence in BREAKING or MAKING fails; one that is REDIRECTING
or CANCELLING reports nothing. -/
def waiterFails (e : Env) (u : Tx) (h : Hall) : Hall :=
  match (h.path.seqs[u]).stage with
  | .breaking | .making => failSeq e u h
  | _ => h

/-- R112, R127: the sequences that awaited a motion now hot: T's own is cancelled without report, others fail. One that goes to IDLE
leaves its holder sets as R110 gives (log 58). -/
def hotWaiters (e : Env) (t : Tx) (l : List Tx) (h : Hall) : Hall :=
  h.each l fun u h => if u = t then cancelSeq t h else waiterFails e u h

/-- R112: the throws of row T that are moving. A BREAK whose slot a fault clear's read kept is among them, though its crosspoint
is recorded CLOSED and R112 names CLOSING and OPENING (log 29). -/
def hotThrows (e : Env) (t : Tx) (h : Hall) : Hall :=
  h.each (slotList h) fun s h =>
    match s.motion.kind with
    | .make u o | .brk u o =>
        if u ≠ t || s.hot then h
        else
          let h := h.mapSlots fun x =>
            some (if x.motion.kind = s.motion.kind then { x with hot := true, motion := { x.motion with waiters := [] } } else x)
          let h := reportOut e .matrixUnknown o (.matrix .hot (some (t, o))) (xptChange t o .unknown .hot true h)
          hotWaiters e t s.motion.waiters h
    | .slew _ _ => h

/-- R127: the slews fed through row T. `rows` is the slew's row before the throws were dealt with. -/
def hotSlews (e : Env) (t : Tx) (fed : List Out) (h : Hall) : Hall :=
  h.each (slotList h) fun s h =>
    match s.motion.kind with
    | .slew o _ =>
        if !fed.contains o || s.hot then h
        else
          let h := h.mapSlots fun x =>
            some (if x.motion.kind = s.motion.kind then { x with hot := true, motion := { x.motion with waiters := [] } } else x)
          let h := reportOut e .positionerStall o (.stall .hot) (posChange o .stalled .hot true h)
          hotWaiters e t s.motion.waiters h
    | _ => h

/-- R173: a hot switch of row T; `contact`: the Path Controller's report of a contact lost (R95). -/
def hotSwitch (e : Env) (t : Tx) (contact : Bool) (h : Hall) : Hall :=
  let fed := allOut.filter fun o => decide (feeder h o = some t)
  let moving := rowMotion h t
  -- step 1
  let h := setTxState t .lockout .trip h
  let h := overtakePend t (fun _ => true) (overtakeOut t (fun o => decide (o.kind ≠ .lower)) h)
  -- step 2
  let h := reportTx e .hotSwitch t (some (if contact then .contact else .rfp)) h
  -- step 3
  let h := handLower e t true h
  -- step 4
  let h := hotSlews e t fed (hotThrows e t h)
  -- steps 5 and 6
  let h := engineLockout e t h
  h.setTx t fun r => { r with rcv := Recovery.idle, permitHot := decide (r.permit = .granted) && moving }

/-- R172: a lockout decision that finds too many trips. -/
def lockoutTrips (e : Env) (t : Tx) (h : Hall) : Hall :=
  let w := (h.tx[t]).window
  -- step 1
  let h := setTxState t .lockout .trip h
  let h := overtakePend t (fun _ => true) h
  let h := dropHandBack t h
  -- step 2
  let h := reportAsg e .lockout t (some (.trips w.length)) false h
  -- step 3
  let h :=
    match madeOut h t with
    | some o =>
        if w.all TripEntry.refl then report e ⟨.antennaSuspect, .out o, none, none, none⟩ h else h
    | none => h
  -- step 4
  engineLockout e t (h.setTx t fun r => { r with rcv := Recovery.idle })

/-- R152: a GRANTED permit is taken back because of RF: a hot switch when the row's motion is present, otherwise a
revocation, without a record while the transmitter is still to be judged (R206). -/
def takeBackPermit (e : Env) (t : Tx) (h : Hall) : Hall :=
  if rowMotion h t then hotSwitch e t false h
  else
    let h := h.setTx t fun r => { r with permit := .requested, permitHot := false }
    if unjudged h t then h else reportTx e .rfUnexpected t (some .permit) h

/-- R150: a transmitter whose permit is GRANTED is never in RAISING, ON_AIR or LOWERING: the permit of one that has come to be is
taken back in that event. -/
def takeBackStep (e : Env) (t : Tx) (h : Hall) : Option Hall :=
  if decide ((h.tx[t]).permit = .granted) && isRad (h.tx[t]).st then some (takeBackPermit e t h) else none

/-- R104, R108, R150, R151, R152, R173: the next move of the permit of a transmitter that does not radiate under it
(`takeBackStep`), if it has one now. -/
def permitStep (e : Env) (t : Tx) (h : Hall) : Option Hall :=
  let r := h.tx[t]
  let set (p : Permit) : Option Hall := some (h.setTx t fun r => { r with permit := p, permitHot := false })
  match r.permit with
  | .none => if (holders h t).isEmpty then none else set .requested
  | .requested =>
      if (holders h t).isEmpty then set .none
      else if permitTest e h t then set .granted
      else none
  | .granted =>
      if rowMotion h t then none
      else if (holders h t).isEmpty then set .none
      else if r.permitHot then set .requested
      else if doorActive e h t then set .requested
      else none

end Sys2Proof.Machine
end

