-- ==== Sys2Proof/Machine/Trips.lean ====
section
/-! DEFINITION. Trips and trip windows (R165 to R167), re-derivation outside and inside adoption (R138, R206), and the
start of a recovery (R168). -/

namespace Sys2Proof.Machine

/-- R165. -/
def TripCause.isRefl : TripCause → Bool
  | .cab .reflected | .senseRefl => true
  | _ => false

/-- R167: add an entry; a window of 8 removes the oldest first, and its reading leaves the trip times. -/
def windowLeave (t : Tx) (out : List TripEntry) (h : Hall) : Hall :=
  h.mapAsg t fun a => { a with tripTimes := out.foldl (fun l x => l.erase x.clock) a.tripTimes }

def addTrip (e : Env) (t : Tx) (c : TripCause) (h : Hall) : Hall :=
  let w := (h.tx[t]).window
  let n := w.length + 1 - Config.maxWindow
  let h := windowLeave t (w.take n) h
  h.setTx t fun r => { r with window := w.drop n ++ [⟨e.now, e.sec, c, c.isRefl⟩] }

/-- R167: entries whose age has reached the window setting leave. -/
def expireWindow (e : Env) (t : Tx) (h : Hall) : Hall :=
  let old (x : TripEntry) : Bool := decide (x.at_ + e.k.rcv.window * 60000 ≤ e.now)
  let w := (h.tx[t]).window
  let h := windowLeave t (w.filter old) h
  h.setTx t fun r => { r with window := w.filter fun x => !old x }

/-- R155, R202: the window is emptied. -/
def emptyWindow (t : Tx) (h : Hall) : Hall :=
  (windowLeave t (h.tx[t]).window h).setTx t fun r => { r with window := [] }

/-- R166 step 5: the engine takes a trip. A recovery's failed clear is counted for an assignment already TRIPPED
(log 23). The trip count stays at the end of its range (R56, log 59). -/
def engineTrip (e : Env) (t : Tx) (counted : Bool) (h : Hall) : Hall :=
  h.mapAsg t fun a =>
    match a.phase with
    | .raising | .onAir | .tripped =>
        let a := { a with phase := .tripped, raise := .done, power := false }
        if counted then { a with trips := min 65535 (a.trips + 1), tripTimes := a.tripTimes ++ [e.sec] } else a
    | _ => a

/-- R166: a trip of T, counted or a door stop. -/
def trip (e : Env) (t : Tx) (c : TripCause) (h : Hall) : Hall :=
  let counted := decide (c ≠ .door)
  -- step 2, whose TX notice comes before the FAULT notice (R153)
  let h := setTxState t .tripped .trip h
  -- step 1
  let h := if decide (c = .raiseTimeout) || decide (c = .clear) then h else reportAsg e .trip t (some (.trip c)) true h
  let h := overtakePend t (fun o => o.kind.isRaise) (overtakeOut t (fun o => o.kind.isRaise || o.kind.isTune) h)
  -- step 3, and R162 for a door stop
  let h :=
    match c with
    | .senseRefl | .senseArc | .raiseTimeout | .door => handLower e t true h
    | _ => h
  -- step 4
  let h := if counted then addTrip e t c h else h
  -- steps 5 and 6
  (engineTrip e t counted h).setTx t fun r => { r with rcv := ⟨.stopping, some c, c.isRefl, none, false, false, false⟩ }

/-- R166, last paragraph: an uncounted trip while a LOWER that the trip rules did not order is outstanding. The LOWER has
completed; CLEAR-TRIP is ordered. -/
def tripLowering (e : Env) (t : Tx) (c : CabTrip) (h : Hall) : Hall :=
  handClear e t (reportTx e .trip t (some (.tripLowering c)) (setTxState t .tripped .trip h))

/-- R138, R147: a trip found that is not counted. -/
def tripUncounted (e : Env) (t : Tx) (c : TxCause) (h : Hall) : Hall := handClear e t (setTxState t .tripped c h)

/-- R138, R147, R171, R174: a carrier the part did not ask for. -/
def rfUnexpected (e : Env) (t : Tx) (h : Hall) : Hall := handLower e t false (reportTx e .rfUnexpected t (some .cabinet) h)

/-- R138: re-derive the state from the last cabinet condition, outside adoption; `before` is the state before loss. A
transmitter with no condition, or one still to be judged (R206), takes the table's state alone. Going to LOCAL ends
every order but a LOWER that was sent: a lockout's runs on, and one that was declined and waits to be sent again is dropped with its
timeout (R202, log 47). A regain ends the sent one itself (`regain`). -/
def rederive (e : Env) (t : Tx) (before : Option TxState) (c : TxCause) (h : Hall) : Hall :=
  match (h.tx[t]).cond with
  | none => h
  | some r =>
    let new := derive r
    let raised := before.any isRaised
    if unjudged h t then setTxState t new c h
    else if new = .isLocal then
      overtakePend t (fun _ => true) (overtakeOut t (fun o => !o.lowerSent) (setTxState t new c h))
    else if isRad new then
      if raised then setTxState t new c h
      else rfUnexpected e t (setTxState t .lowering c h)
    else
      match new, r.cond with
      | .tripped, .tripped cause =>
          if raised then trip e t (.cab cause) h else tripUncounted e t c h
      | _, _ => setTxState t new c h

end Sys2Proof.Machine
end

