-- ==== Sys2Proof/Machine/Orders.lean ====
section
/-! DEFINITION. Orders the engine hands (R139 to R141), the pending order's turn, and what the engine does for an
assignment in each phase (R58 to R63, R85). -/

namespace Sys2Proof.Machine

/-- R139: the states an order is sent from. -/
def orderListed (k : OrderKind) (s : TxState) : Bool :=
  match k, s with
  | .warm, .cold => true
  | .tune _ _ _, .standby | .tune _ _ _, .ready => true
  | .raise _, .ready | .raise _, .onAir => true
  | .lower, .raising | .lower, .onAir | .lower, .lowering | .lower, .tripped => true
  | .lower, .lockout | .lower, .unreachable => true
  | .cool, .standby | .cool, .ready => true
  | .clearTrip, .tripped | .clearTrip, .lockout => true
  | _, _ => false

/-- R140: the order may be sent from the state; R147: so may, in RAISING, the RAISE sent again for a lost carrier. -/
def Order.listed (o : Order) (s : TxState) : Bool := orderListed o.kind s || (o.again && decide (s = .raising))

/-- R139, R140, R64: an order of the engine declined: its record, and the end of an assignment whose WARM, TUNE or RAISE
it was. -/
def declined (e : Env) (t : Tx) (o : Order) (r : DeclineReason) (st : Option TxState) (h : Hall) : Hall :=
  let h := reportTx e .orderDeclined t (some (.declined o.kind r st)) h
  if o.engine && o.handBack then
    match o.kind with
    | .warm | .tune _ _ _ | .raise _ => endAsg e t .failed .nothing h
    | _ => h
  else h

/-- R165: states in which trips are taken. -/
def tripsTaken (s : TxState) : Bool :=
  match s with
  | .isLocal | .unreachable | .absent | .lockout => false
  | _ => true

/-- R170: a recovery's CLEAR-TRIP failed. -/
def clearFailed (e : Env) (t : Tx) (h : Hall) : Hall := if tripsTaken (h.tx[t]).st then trip e t .clear h else h

/-- R170: a CLEAR-TRIP declined while a recovery is CLEARING is a failed clear. -/
def clearDeclined (e : Env) (t : Tx) (o : Order) (h : Hall) : Hall :=
  if decide (o.kind = .clearTrip) && decide ((h.tx[t]).rcv.stage = .clearing) then clearFailed e t h else h

/-- R140: declined without sending, with the effect of a DECLINED answer. -/
def declineUnsent (e : Env) (t : Tx) (o : Order) (h : Hall) : Hall :=
  clearDeclined e t o (declined e t o .state (some (h.tx[t]).st) h)

/-- R140, R141, R149: the engine hands WARM, TUNE, RAISE or COOL. -/
def handOrder (e : Env) (t : Tx) (k : OrderKind) (h : Hall) : Hall :=
  let o := Order.mk0 k true false
  match (h.tx[t]).st with
  | .absent | .isLocal => overtaken t o h
  | .unreachable => makePending t o h
  | s =>
    if !orderListed k s || decide (s = .lockout) then declineUnsent e t o h
    else if (h.tx[t]).out.isSome || (k.isRaise && raiseHeld e h t) then makePending t o h
    else h.setTx t fun r => { r with out := some o }

/-- R141, R149: the pending order when no order is outstanding: tested again by R140 against the state then, and declined,
completed, kept waiting or put to be sent. A RAISE that a permit, DOOR or ESTOP holds is so tested in the event in which its
state changes (log 11). -/
def pendStep (e : Env) (t : Tx) (h : Hall) : Option Hall :=
  let r := h.tx[t]
  match r.out, r.pend with
  | none, some o =>
    let drop := h.setTx t fun r => { r with pend := none }
    let send := h.setTx t fun r => { r with out := some o, pend := none }
    match r.st with
    | .absent | .isLocal => some (overtaken t o drop)
    | .unreachable => if o.kind = .lower then some send else none
    | s =>
      if o.kind = .lower then if orderListed .lower s || rfpActive e h t then some send else some drop
      else if !o.listed s then some (declineUnsent e t o drop)
      else if o.kind.isRaise && raiseHeld e h t then none
      else some send
  | _, _ => none

/-- The transmitter is lowered as far as the engine waits for it (R59, R64). -/
def lowered (h : Hall) (t : Tx) (a : Asg) : Bool :=
  a.lowerOver || (!(h.tx[t]).needsLower && !(h.tx[t]).lowerInHand)

/-- R60, R103: hand the path request for the effective output. -/
def askPath (e : Env) (t : Tx) (a : Asg) (h : Hall) : Hall :=
  let cls := if a.hold then 4 else (a.sched.map Sched.prio).getD 0
  pathRequest e t ⟨a.eff.out, a.eff.preset, cls⟩ (h.mapAsg t fun a => { a with path := .asked })

/-- R60, R85: the Frequency Check, then TUNE. -/
def askTune (e : Env) (t : Tx) (a : Asg) (h : Hall) : Hall :=
  match checkParams e.k h t a.eff with
  | .permitted =>
      (handOrder e t (.tune a.eff.freq a.eff.mode a.eff.prog) h).mapAsg t fun a =>
        if a.tune = .wanted && !a.phase.isEnding then { a with tune := .asked } else a
  | ans => refuseAsg e t .tune ans h

/-- R61, R85, R211: the Frequency Check, then RAISE at the effective power. -/
def askRaise (e : Env) (t : Tx) (a : Asg) (h : Hall) : Hall :=
  match checkParams e.k h t a.eff with
  | .permitted =>
      handOrder e t (.raise a.eff.power) (h.mapAsg t fun a => { a with raise := .asked, power := false, lowerOver := false })
  | ans => refuseAsg e t .raise ans h

/-- R60, R62, R63: where a prepared, reworked or unmuted assignment goes. -/
def goOnAir (e : Env) (t : Tx) (late : Bool) (h : Hall) : Hall :=
  h.mapAsg t fun a =>
    if (a.sched.map Sched.start).any fun s => decide (e.min < s) then { a with phase := .waiting }
    else { a with phase := .raising, raise := .wanted, late := a.late || late }

/-- R63: to MUTED; the RAISE not yet sent is withdrawn. A FOREIGN assignment ends ABORTED. -/
def muteAsg (e : Env) (t : Tx) (a : Asg) (h : Hall) : Hall :=
  if a.sched.isNone then endAsg e t .aborted .nothing h
  else (withdrawRaise t h).mapAsg t fun a => { a with phase := .muted, raise := .done, power := false, lowerOver := false }

/-- R63: the phases that a mute takes to MUTED. -/
def Phase.mutes : Phase → Bool
  | .waiting | .raising | .onAir | .tripped | .reworking => true
  | _ => false

/-- Phases in which TUNE and path work is done. -/
def Phase.works : Phase → Bool
  | .preparing | .reworking | .muted => true
  | _ => false

/-- R58: claim the effective output that the assignment's path work wants, when it is available and not claimed yet. -/
def claimStep (t : Tx) (a : Asg) (h : Hall) : Option Hall :=
  if !a.phase.works || decide (a.path ≠ .wanted) || a.awaits.isSome || decide (h.path.owner[a.eff.out] = some t) || !outAvail h t a.eff.out then none
  else some ((h.setOwner a.eff.out (some t)).mapAsg t fun a => { a with path := .wanted })

/-- R27, R168: the engine hands no WARM, TUNE or RAISE while the assignment is frozen or a recovery runs. -/
def ordersWait (h : Hall) (t : Tx) : Bool := frozen h t || recovering h t

/-- R60, R62: WARM, TUNE, path request and completion of the work of PREPARING, REWORKING and MUTED. -/
def workStep (e : Env) (t : Tx) (a : Asg) (h : Hall) : Option Hall :=
  let r := h.tx[t]
  let preparing := decide (a.phase = .preparing)
  let steady := decide (r.st = .standby) || decide (r.st = .ready)
  if decide (a.path = .wanted) && decide (h.path.owner[a.eff.out] = some t) && !frozen h t &&
      (preparing || lowered h t a) then
    some (askPath e t a h)
  else if preparing && decide (r.st = .cold) && !ordersWait h t && !r.inHand (fun k => decide (k = .warm)) then
    some (handOrder e t .warm h)
  else if decide (a.tune = .wanted) && steady && lowered h t a && !ordersWait h t &&
      !r.inHand (fun k => k.isTune || decide (k = .cool)) then
    some (askTune e t a h)
  else if preparing && decide (a.tune = .done) && (decide (r.st = .standby) || decide (r.st = .cold)) then
    some (h.mapAsg t fun a => { a with tune := .wanted })
  else if decide (a.tune = .done) && decide (a.path = .done) && lowered h t a && !frozen h t then
    match a.phase with
    | .preparing =>
        if r.st ≠ .ready then none
        else if muting e h t then some (h.mapAsg t fun a => { a with phase := .muted })
        else some (goOnAir e t true h)
    | .reworking =>
        if muting e h t then some (h.mapAsg t fun a => { a with phase := .muted })
        else some (goOnAir e t false h)
    | _ => none
  else none

/-- R66: the end of T's assignment completes: the transmitter does not radiate, or the wait on its LOWER is over. -/
def endStep (e : Env) (t : Tx) (h : Hall) : Option Hall :=
  match h.asg[t] with
  | none => none
  | some a =>
    if a.phase.isEnding && (a.lowerOver || !(h.tx[t]).needsLower) then some (completeEnd e t h) else none

/-- R59 to R63: the next thing the engine does for T's assignment, if there is one now. The end of one that is ENDING completes by
`endStep`. -/
def driveStep (e : Env) (t : Tx) (h : Hall) : Option Hall :=
  match h.asg[t] with
  | none => none
  | some a =>
    let r := h.tx[t]
    let canLower := decide (r.st = .raising) || decide (r.st = .onAir)
    if a.phase.isEnding then
      if a.lowerOver || !r.needsLower then none
      else if !r.lowerInHand && decide (r.st ≠ .lowering) && txDefined e.k h t then some (handLower e t false h)
      else none
    else
      match claimStep t a h with
      | some h => some h
      | none =>
        if a.phase.mutes && muting e h t then some (muteAsg e t a h)
        else if decide (a.phase = .muted) && !muting e h t then
          if decide (a.tune = .done) && decide (a.path = .done) then some (goOnAir e t false h)
          else some (h.mapAsg t fun a => { a with phase := .reworking })
        else if a.phase.works && canLower && !r.lowerInHand && txDefined e.k h t && !a.lowerOver then
          some (handLower e t false h)
        else if a.phase.works then workStep e t a h
        else if decide (a.phase = .raising) && decide (a.raise = .wanted) && lowered h t a && !ordersWait h t &&
            !r.inHand OrderKind.isRaise then
          some (askRaise e t a h)
        else if decide (a.phase = .onAir) && a.power && decide (r.st = .onAir) && !ordersWait h t &&
            !r.inHand OrderKind.isRaise then
          some (askRaise e t a h)
        else none

end Sys2Proof.Machine
end

