-- ==== Sys2Proof/Machine/Engine.lean ====
section
/-! DEFINITION. Recomputation of effective parameters (R57, R62), an assignment taken off its transmitter (R30 case 3,
R182), displacement (R180), hold changes (R177 to R183, R211). -/

namespace Sys2Proof.Machine

/-- R30 case 3, R182: taken off its transmitter to the deferral list. -/
def takeOff (e : Env) (t : Tx) (o : Out) (h : Hall) : Hall :=
  endAsg e t .preempted (.defer (if outState h o = .faulted then .outputBlocked else .outputBusy)) h

/-- R57, R211: effective parameters as they stand now. A FOREIGN assignment's power is worked out when its POWER aspect changes
and when its fold-back does: a POWER hold that stood at its adoption takes effect then (log 25). -/
def currentEff (k : Tables) (h : Hall) (t : Tx) (a : Asg) : Params :=
  match a.sched with
  | some _ => effective k (h.holds[t]) a.base a.fold
  | none =>
      let kw := (h.holds[t]).power.getD a.base.power
      { a.eff with power := if a.fold then foldPower k.rcv.foldback kw else kw }

/-- R60, R62: what the new effective parameters ask of an assignment whose output they may use. Path work keeps the class of
the change that last re-aimed it (R103, log 34). A change of the programme alone is recorded, and tunes only in PREPARING
(log 42). -/
def rework (viaHold : Bool) (new : Params) (a : Asg) : Asg :=
  let old := a.eff
  let freq := decide (old.freq ≠ new.freq) || decide (old.mode ≠ new.mode)
  let out := decide (old.out ≠ new.out) || decide (old.preset ≠ new.preset)
  let power := decide (old.power ≠ new.power)
  let prog := decide (old.prog ≠ new.prog)
  let a := { a with eff := new, hold := if out then viaHold else a.hold }
  let aim (a : Asg) (tune : Bool) : Asg :=
    { a with tune := if tune then .wanted else a.tune, path := if out then .wanted else a.path }
  match a.phase with
  | .preparing => aim a (freq || out || prog)
  | .muted | .reworking => aim a freq
  | .waiting | .tripped =>
      if freq || out then { aim a freq with phase := .reworking, raise := .done, power := false, lowerOver := false } else a
  | .raising =>
      if freq || out then { aim a freq with phase := .reworking, raise := .done, power := false, lowerOver := false }
      else if power && decide (a.raise ≠ .wanted) then { a with power := true } else a
  | .onAir =>
      if freq || out then { aim a freq with phase := .reworking, raise := .done, power := false, lowerOver := false }
      else if power then { a with power := true } else a
  | .ending _ _ => a

/-- R62, R85: the power of an assignment TRIPPED has changed: a retry RAISE that is handed and not sent takes the new one, after
the Frequency Check for a SCHEDULE assignment and, by a hold change, for a FOREIGN one (R169, R211). A refusal ends it. -/
def repowerRetry (e : Env) (t : Tx) (viaHold : Bool) (a : Asg) (h : Hall) : Hall :=
  let stale (o : Order) : Bool := o.unsentRaise && decide (o.kind ≠ .raise a.eff.power)
  if !(((h.tx[t]).out.any stale) || (h.tx[t]).pend.any stale) then h
  else
    let ans := if a.sched.isSome || viaHold then checkParams e.k h t a.eff else .permitted
    if ans = .permitted then repower t a.eff.power h else refuseAsg e t .raise ans h

/-- The assignment claims the output, and may use it: neither FAULTED nor reserved by another transmitter's hold. -/
def outMine (h : Hall) (t : Tx) (o : Out) : Bool :=
  decide (h.path.owner[o] = some t) && decide (outState h o ≠ .faulted) && !reservedByOther h o t

/-- R30 case 3: the output is available to T's assignment: claimed by no other assignment, reserved by no other transmitter's
hold, and not FAULTED. -/
def outUsable (h : Hall) (t : Tx) (o : Out) : Bool := outMine h t o || outAvail h t o

/-- R57, R58, R62, R182: work the effective parameters out again and act on a difference. `mayAwait`: an output still
claimed by an ending assignment of another transmitter is awaited (R179). A change that leaves the effective output as it is
takes the assignment off its transmitter by no way of R182, FAULTED or awaited though that output be (log 32); R30 case 3,
which makes no such exception, is tested by `amendAsg`. A retry RAISE that waits takes the new power (R62, R85). -/
def recompute (e : Env) (t : Tx) (viaHold mayAwait : Bool) (h : Hall) : Hall :=
  match h.asg[t] with
  | none => h
  | some a =>
    let new := currentEff e.k h t a
    if a.phase.isEnding || decide (new = a.eff) then h
    else
      let o := new.out
      let ending : Option Tx := (h.path.owner[o]).filter fun u =>
        decide (u ≠ t) && (h.asg[u]).any fun b => b.phase.isEnding
      if decide (o = a.eff.out) || outUsable h t o || (mayAwait && ending.isSome && !reservedByOther h o t) then
        -- the old effective output, claimed and not made, is given up (log 24)
        let h := if decide (o ≠ a.eff.out) && decide (h.path.owner[a.eff.out] = some t) &&
            decide (madeOut h t ≠ some a.eff.out) then release a.eff.out (h.mapAsg t fun a => { a with eff := new })
          else h
        let awaited := if decide (o = a.eff.out) then a.awaits
          else if outUsable h t o then none else ending.map fun u => (o, u)
        let h := if outAvail h t o then h.setOwner o (some t) else h
        let b := { rework viaHold new a with awaits := awaited }
        let h := h.setAsg t (some b)
        if b.phase = .reworking then withdrawRaise t h
        else if b.phase = .tripped then repowerRetry e t viaHold b h
        else h
      else takeOff e t o (h.mapAsg t fun a => { a with eff := new })

/-- R57, R211: the parameters worked out again by a hold change of one aspect: those of a FOREIGN assignment by POWER alone
(log 25). -/
def recomputeHold (e : Env) (t : Tx) (a : Aspect) (mayAwait : Bool) (h : Hall) : Hall :=
  if decide (a ≠ .power) && (h.asg[t]).any fun x => x.sched.isNone then h else recompute e t true mayAwait h

/-- R57, R164: a change of the fold-back percentage. -/
def recomputeFold (e : Env) (h : Hall) : Hall :=
  h.each allTx fun t h => if (h.asg[t]).any Asg.fold then recompute e t false false h else h

/-! ### Holds -/

/-- The aspect's value in a hold record, when enabled. -/
def Hold.get (d : Hold) : Aspect → Option HoldValue
  | .inhibit => if d.inhibit then some .inhibit else none
  | .output => d.output.map fun v => .output v.1 v.2
  | .frequency => d.freq.map fun v => .frequency v.1 v.2
  | .power => d.power.map .power

def Hold.put (d : Hold) : HoldValue → Hold
  | .inhibit => { d with inhibit := true }
  | .output o p => { d with output := some (o, p) }
  | .frequency f m => { d with freq := some (f, m) }
  | .power kw => { d with power := some kw }

def Hold.drop (d : Hold) : Aspect → Hold
  | .inhibit => { d with inhibit := false }
  | .output => { d with output := none }
  | .frequency => { d with freq := none }
  | .power => { d with power := none }

def aspects : List Aspect := [.inhibit, .output, .frequency, .power]

/-- The enabled aspects. -/
def Hold.enabled (d : Hold) : List Aspect := aspects.filter fun a => (d.get a).isSome

/-- R178: the question of a HOLD-SET, from the hold record as it would stand, and the parameters before holds and fold-back:
the entry's, or those found at adoption. -/
def holdQuestion (h : Hall) (t : Tx) (d : Hold) : Question :=
  let src : Option Params := (h.asg[t]).map Asg.base
  { freq := (d.freq.map Prod.fst).or (src.map Params.freq)
    mode := (d.freq.map Prod.snd).or (src.map Params.mode)
    out := (d.output.map Prod.fst).or (src.map Params.out)
    power := d.power.or (src.map Params.power)
    tx := some t }

/-- R177 step 3. -/
def holdOutputFault (k : Tables) (h : Hall) : HoldValue → Option Status
  | .output o p =>
      if !(k.outs[o]).defined then some .notFound
      else if p.isSome ≠ (k.outs[o]).slewable then some .range
      else if p.any (fun n => !(h.path.pos[o]).any fun q => (q.preset n).isSome) then some .range
      else none
  | _ => none

/-- R177 step 5. -/
def holdOwnerFault (h : Hall) (t : Tx) : HoldValue → Option Status
  | .output o _ =>
      if reservedByOther h o t then some .conflict
      else if outState h o = .faulted then some .state
      else if (h.path.owner[o]).any (fun u => decide (u ≠ t) && (h.asg[u]).any fun a => a.sched.isNone) then some .conflict
      else none
  | _ => none

/-- R177 steps 2 to 5: the first check that fails, with the check's answer at step 4. -/
def holdFault (k : Tables) (h : Hall) (t : Tx) (v : HoldValue) : Option (Status × Option CheckAnswer) :=
  if !txDefined k h t then some (.notFound, none)
  else
    match holdOutputFault k h v with
    | some s => some (s, none)
    | none =>
      let ans := if v = .inhibit then CheckAnswer.permitted else check k h (holdQuestion h t ((h.holds[t]).put v))
      if ans ≠ .permitted then some (ans.status, some ans)
      else (holdOwnerFault h t v).map fun s => (s, none)

/-- R180: a SCHEDULE assignment of another transmitter that claims the output is displaced. -/
def displace (e : Env) (t : Tx) (o : Out) (h : Hall) : Hall :=
  match h.path.owner[o] with
  | some u =>
      if decide (u ≠ t) && (h.asg[u]).any fun a => a.sched.isSome && !a.phase.isEnding then
        endAsg e u .preempted (.push .reservedByHold) h
      else h
  | none => h

/-- R180, R182: newcomers of other transmitters that await the output now reserved are taken off. -/
def cancelWaits (e : Env) (t : Tx) (o : Out) (h : Hall) : Hall :=
  h.each allTx fun u h =>
    if decide (u ≠ t) && (h.asg[u]).any fun a => a.awaits.any fun w => decide (w.1 = o) then takeOff e u o h else h

/-- R211: an OUTPUT or FREQUENCY hold enabled ends a FOREIGN assignment ABORTED. -/
def holdOnForeign (e : Env) (t : Tx) (a : Aspect) (enabled : Bool) (h : Hall) : Hall :=
  if enabled && (decide (a = .output) || decide (a = .frequency)) && (h.asg[t]).any fun x => x.sched.isNone then
    endAsg e t .aborted .nothing h
  else h

/-- R179, R180, R183, R71: the effects of a HOLD-SET that passed its checks. -/
def setHold (e : Env) (t : Tx) (v : HoldValue) (c : HoldCause) (h : Hall) : Hall :=
  let old := h.holds[t]
  if old.get v.aspect = some v then h
  else
    let h := h.setHold t fun d => d.put v
    -- step 1: an output that loses its reservation
    let h := match v, old.output with
      | .output o _, some w => if w.1 = o then h else outAvailable w.1 h
      | _, _ => h
    -- step 3, before the notices of steps 2 and 4 (R183)
    let h := h.note (.hold t v.aspect (some v) c)
    -- step 2
    let h := match v with | .output o _ => cancelWaits e t o (displace e t o h) | _ => h
    -- step 4, and R71 for OUTPUT
    let h := recomputeHold e t v.aspect true (holdOnForeign e t v.aspect true h)
    if v.aspect = .output then h.wantAlloc else h

/-- R181, R183: an aspect disabled. -/
def clearHold (e : Env) (t : Tx) (a : Aspect) (c : HoldCause) (h : Hall) : Hall :=
  let old := h.holds[t]
  if (old.get a).isNone then h
  else
    let h := h.setHold t fun d => d.drop a
    let h := match a, old.output with
      | .output, some w => outAvailable w.1 h
      | _, _ => h
    (recomputeHold e t a false (h.note (.hold t a none c))).wantAlloc

/-- R57, R211: the parameters worked out again by a reset that clears holds. Only STORE-ERASE leaves an assignment to it that is not
ENDING, a FOREIGN one, which the erasure does not end: its retry RAISE takes the new power without the check that a hold's own
RAISE has, as R169 asks none of a FOREIGN one (log 35). -/
def recomputeReset (e : Env) (t : Tx) (power : Bool) (h : Hall) : Hall :=
  if !power && (h.asg[t]).any fun x => x.sched.isNone then h else recompute e t false false h

/-- R176, R183: every aspect of a record disabled by a reset: one HOLD notice that names them. A FOREIGN assignment is worked out
again where POWER is among them (R211, log 25). -/
def resetHold (e : Env) (t : Tx) (h : Hall) : Hall :=
  let old := h.holds[t]
  if old.enabled.isEmpty then h
  else
    let h := (h.setHold t fun _ => Hold.off).note (.holdReset t old.enabled)
    let h := match old.output with | some w => outAvailable w.1 h | none => h
    (recomputeReset e t old.power.isSome h).wantAlloc

end Sys2Proof.Machine
end

