-- ==== Sys2Proof/Machine/Admission.lean ====
section
/-! DEFINITION. Admission, allocation, preemption (R51 to R55), allocation runs (R71), changeovers (R13, R14, R72), minute
and step events (R50, R73). -/

namespace Sys2Proof.Machine

/-- R53. -/
inductive AllocCase where
  | deferred (r : DeferReason) | preempt | busy | create
deriving DecidableEq, Repr

/-- R53: the tests in order. -/
def allocCase (h : Hall) (t : Tx) (o : Out) : AllocCase :=
  let st := (h.tx[t]).st
  if st = .lockout || st = .isLocal || st = .unreachable || st = .absent then .deferred .txBlocked
  else if outState h o = .faulted then .deferred .outputBlocked
  else if reservedByOther h o t then .deferred .outputBusy
  else if (h.asg[t]).isSome || (h.path.owner[o]).any (fun u => decide (u ≠ t)) then .preempt
  else if !isAvail st then .busy
  else .create

/-- R67: an item's reason worked again, without trying preemption. -/
def deferReason (h : Hall) (t : Tx) (o : Out) (old : DeferReason) : DeferReason :=
  match allocCase h t o with
  | .deferred r => r
  | .preempt => if (h.asg[t]).isSome then .txBusy else .outputBusy
  | .busy => .txBusy
  | .create => old

/-- R56: a new assignment in PREPARING. -/
def newAsg (it : Item) (base eff : Params) (awaits : Option (Out × Tx)) : Asg :=
  { sched := some ⟨it.occ, it.prio, it.start, it.stop⟩, base := base, eff := eff, awaits := awaits, phase := .preparing,
    trips := it.trips, tripTimes := [], fold := it.fold, late := false, tune := .wanted, path := .wanted, raise := .done,
    power := false, hold := false, lowerOver := false, counts := true }

/-- R53, R58: the assignment is created and claims its output. -/
def createAsg (t : Tx) (it : Item) (base eff : Params) (origin : Origin) (h : Hall) : Hall :=
  ((h.beginAsg t (newAsg it base eff none)).setOwner eff.out (some t)).note (.admitted t (some it.occ) eff.out origin)

/-- R54: conditions on an obstacle. -/
def victimOk (p : Nat) (a : Asg) : Bool := !a.phase.isEnding && a.sched.any fun s => decide (s.prio < p)

/-- R54: the transmitter whose assignment claims O, other than T. -/
def outputVictim (h : Hall) (t : Tx) (o : Out) : Option Tx := (h.path.owner[o]).filter fun u => decide (u ≠ t)

/-- R54: the transmitter victim, if any, meets the conditions. -/
def txVictimOk (h : Hall) (t : Tx) (p : Nat) : Bool := (h.asg[t]).all (victimOk p)

/-- R54: the output victim, if any, meets the conditions. -/
def outVictimOk (h : Hall) (t : Tx) (o : Out) (p : Nat) : Bool :=
  (outputVictim h t o).all fun u => (h.asg[u]).any (victimOk p) && decide ((h.tx[u]).st ≠ .unreachable)

/-- R55: an allowed preemption. -/
def preempt (e : Env) (t : Tx) (it : Item) (base eff : Params) (h : Hall) : Hall :=
  let o := eff.out
  let awaits := (outputVictim h t o).map fun u => (o, u)
  let new := newAsg it base eff awaits
  let h :=
    match h.asg[t] with
    | some v =>
        let h := pushAsg e t v .preemptedTx h
        let h := cancelSeq t (dropHandBack t (withdrawRaise t h))
        let drop := (claims h t).filter fun p => decide (p ≠ o) && decide (madeOut h t ≠ some p)
        let h := (h.beginAsg t new).each drop release
        let h := clearAwaits t h
        let h := h.note (.assignment t (v.sched.map Sched.occ) .preempted v.late v.trips v.fold (.push .preemptedTx))
        match v.sched with | some s => retireCheck s.occ.bank h | none => h
    | none => h.beginAsg t new
  let h := if awaits.isSome then h else h.setOwner o (some t)
  let h := h.note (.admitted t (some it.occ) o .scan)
  match awaits with
  | some (_, u) => endAsg e u .preempted (.push .preemptedOutput) h
  | none => h

/-- R52 steps 2 and 3 for a newly admitted occurrence. -/
def allocateNew (e : Env) (it : Item) (en : Entry) (h : Hall) : Hall :=
  let t := it.tx
  let base := entryParams en
  let eff := effective e.k (h.holds[t]) base it.fold
  match checkParams e.k h t eff with
  | .permitted =>
      match allocCase h t eff.out with
      | .deferred r => deferItem e it r h
      | .busy => deferItem e it .txBusy h
      | .create => createAsg t it base eff .scan h
      | .preempt =>
          if txVictimOk h t it.prio && outVictimOk h t eff.out it.prio then preempt e t it base eff h
          else deferItem e it (if txVictimOk h t it.prio then .outputBusy else .txBusy) h
  | ans => (reportExcluded e it.occ eff.freq .admission ans h).note (.rejected it.occ ans)

/-! ### The scan -/

/-- R69: the occurrence stands in an assignment, a stack or the deferral list. -/
def occHeld (h : Hall) (o : Occ) : Bool :=
  allTx.any (fun t => (h.asg[t]).any (fun a => a.sched.any fun s => decide (s.occ = o)) ||
    (h.stack[t]).any fun i => decide (i.item.occ = o)) ||
  h.deferral.any fun i => decide (i.item.occ = o)

/-- R51: the occurrence of a record on a date is due. -/
def due (e : Env) (h : Hall) (n : BankNo) (r : EntryRec) (d : Day) : Bool :=
  (h.banks[n]).start.any (fun s => hasOcc r.entry s d) && admitted e r.entry d &&
  decide (e.min < occStop r.entry d) && r.mark.all (fun m => decide (m < occStart r.entry d)) &&
  !occHeld h ⟨n, r.entry.id, d⟩

/-- The dates an occurrence that is due can have: yesterday, today, tomorrow (log 18). -/
def scanDays (e : Env) : List Day :=
  let d := e.min / 1440
  [d - 1, d, d + 1]

/-- A candidate of the scan. -/
structure Cand where
  r : EntryRec
  day : Day

/-- R51: priority descending, start ascending, transmitter number, entry id. -/
def candBefore (a b : Cand) : Bool :=
  let x := a.r.entry
  let y := b.r.entry
  decide (x.prio > y.prio) || (decide (x.prio = y.prio) &&
    (decide (occStart x a.day < occStart y b.day) || (decide (occStart x a.day = occStart y b.day) &&
      (decide (x.tx.val < y.tx.val) || (decide (x.tx = y.tx) && decide (x.id < y.id))))))

/-- Insertion into a list sorted by `lt`, after its equals. -/
def insertBy {α : Type} (lt : α → α → Bool) (a : α) : List α → List α
  | [] => [a]
  | x :: l => if lt a x then a :: x :: l else x :: insertBy lt a l

def sortBy {α : Type} (lt : α → α → Bool) (l : List α) : List α := l.foldl (fun acc a => insertBy lt a acc) []

def itemOf (n : BankNo) (en : Entry) (d : Day) : Item := ⟨⟨n, en.id, d⟩, en.tx, en.prio, occStart en d, occStop en d, 0, false⟩

/-- R52: admit one candidate, when it is still due. -/
def admitCand (e : Env) (n : BankNo) (c : Cand) (h : Hall) : Hall :=
  match entryFor h n c.r.entry.id with
  | none => h
  | some r =>
    if due e h n r c.day then
      allocateNew e (itemOf n r.entry c.day) r.entry (h.setBank n fun b => b.mark r.entry.id (occStart r.entry c.day))
    else h

/-- R51: the admission scan. -/
def scan (e : Env) (h : Hall) : Hall :=
  if h.mode ≠ .running || !e.isSet then h
  else
    match activeBank h with
    | none => h
    | some n =>
      let cands := ((h.banks[n]).recs.flatMap fun r => (scanDays e).filterMap fun d =>
        if due e h n r d then some (⟨r, d⟩ : Cand) else none)
      h.each (sortBy candBefore cands) (admitCand e n)

/-! ### Allocation runs -/

/-- R71: a candidate of an allocation run. -/
structure RunCand where
  item : Item
  stacked : Bool

/-- R71: priority descending, stack before deferral, start ascending, transmitter number. -/
def runBefore (a b : RunCand) : Bool :=
  decide (a.item.prio > b.item.prio) || (decide (a.item.prio = b.item.prio) &&
    ((a.stacked && !b.stacked) || (decide (a.stacked = b.stacked) &&
      (decide (a.item.start < b.item.start) || (decide (a.item.start = b.item.start) &&
        decide (a.item.tx.val < b.item.tx.val))))))

/-- R71: the candidates of an allocation run, in order: the top of each stack, and every deferral item, one of a RETIRING or SPENT
bank among them (R14, log 57). -/
def runCands (h : Hall) : List RunCand :=
  sortBy runBefore (allTx.filterMap (fun t => (h.stack[t]).head?.map fun i => ⟨i.item, true⟩) ++
    h.deferral.map fun i => ⟨i.item, false⟩)

/-- R57 for a candidate: its entry's parameters and the effective ones. An item that an ENDING assignment leaves after a WITHDRAW has
taken its entry has none: it waits, never fits, and keeps those under it on its stack, until its stop instant (log 48). -/
def candParams (k : Tables) (h : Hall) (it : Item) : Option (Params × Params) :=
  (entryFor h it.occ.bank it.occ.id).map fun r =>
    (entryParams r.entry, effective k (h.holds[it.tx]) (entryParams r.entry) it.fold)

/-- R71: both available. -/
def fits (k : Tables) (h : Hall) (c : RunCand) : Bool :=
  (candParams k h c.item).any fun p => txAvail h c.item.tx && outAvail h c.item.tx p.2.out

/-- The candidate leaves its stack or the list. -/
def leaveWait (c : RunCand) (h : Hall) : Hall :=
  if c.stacked then h.setStack c.item.tx (h.stack[c.item.tx]).tail
  else { h with deferral := h.deferral.filter fun (i : DeferItem) => decide (i.item.occ ≠ c.item.occ) }

/-- R67: every item's reason is worked again. -/
def reworkReasons (k : Tables) (h : Hall) : Hall :=
  { h with deferral := h.deferral.map fun i =>
      match candParams k h i.item with
      | some p => { i with reason := deferReason h i.item.tx p.2.out i.reason }
      | none => i }

/-- R71: one walk: the first candidate that fits is admitted, or rejected by the Frequency Check. `none`: the run stops. -/
def runWalk (e : Env) (h : Hall) : Option Hall :=
  match (runCands h).find? (fits e.k h) with
  | none => none
  | some c =>
    match candParams e.k h c.item with
    | none => none
    | some p =>
      let h := leaveWait c h
      match checkParams e.k h c.item.tx p.2 with
      | .permitted => some (createAsg c.item.tx c.item p.1 p.2 (if c.stacked then .stack else .deferral) h)
      | ans =>
          let h := (reportExcluded e c.item.occ p.2.freq .admission ans h).note (.rejected c.item.occ ans)
          some (retireCheck c.item.occ.bank h)

/-- R71: the allocation run that is owed, one walk at a time (log 17). -/
def runStep (e : Env) (h : Hall) : Option Hall :=
  if !h.alloc then none
  else if h.mode ≠ .running then some { h with alloc := false }
  else
    let h := reworkReasons e.k h
    match runWalk e h with
    | some h => some h
    | none => some { h with alloc := false }

/-! ### Changeovers -/

/-- R13: the earliest due COMMITTED bank. -/
def dueBank (e : Env) (h : Hall) : Option BankNo :=
  if !e.isSet || h.mode = .adopting then none
  else
    allBanks.foldl (fun (best : Option BankNo) n =>
      let b := h.banks[n]
      if decide (b.st = .committed) && b.start.any (fun s => decide (s ≤ e.min)) then
        match best with
        | none => some n
        | some m => if b.start.getD 0 < (h.banks[m]).start.getD 0 then some n else some m
      else best) none

/-- R14 step 1, R72. An assignment that is ENDING already keeps its outcome, and its push or deferral (R66, log 57). -/
def clearRetiring (e : Env) (h : Hall) : Hall :=
  match retiringBank h with
  | none => h
  | some r =>
    let mine (a : Asg) : Bool := a.sched.any fun s => decide (s.occ.bank = r)
    let h := h.setBank r fun b => { b with st := .spent }
    let h := { h with asg := h.asg.map fun (a : Option Asg) => a.map fun x => if mine x then { x with counts := false } else x }
    let h := h.each allTx fun t h => if (h.asg[t]).any mine then endAsg e t .changeover .nothing h else h
    let h := h.each allTx fun t h => dropStack t (fun i => decide (i.occ.bank = r)) .changeover h
    bankNotice r h

/-- R14 steps 2 and 3, R72. -/
def retireActive (e : Env) (n : BankNo) (h : Hall) : Hall :=
  match activeBank h with
  | none => h
  | some o =>
    let from_ := ((h.banks[n]).start).getD 0
    let h := h.each allTx fun t h =>
      if (h.asg[t]).any fun a => a.sched.any fun s => decide (s.occ.bank = o) && decide (from_ ≤ s.start) then
        endAsg e t .changeover .nothing h
      else h
    let h := dropDeferral (fun i => decide (i.occ.bank = o)) .changeover h
    bankNotice o (h.setBank o fun b => { b with st := if hasRef o h then .retiring else .spent })

/-- R14 steps 1 to 4: changeover to bank N. -/
def changeover (e : Env) (n : BankNo) (h : Hall) : Hall :=
  bankNotice n ((retireActive e n (clearRetiring e h)).setBank n fun b => { b with st := .active })

/-- R13: due banks change over one at a time, in ascending order of start instant. -/
def changeovers (e : Env) : Nat → Hall → Hall
  | 0, h => h
  | k + 1, h => match dueBank e h with | some n => changeovers e k (changeover e n h) | none => h

/-- R13, R14, R73: the changeovers now due, then the scan (step 5, or the event's own). -/
def changeoverScan (e : Env) (h : Hall) : Hall := scan e (changeovers e 4 h)

/-- R13: only what a due changeover brings. -/
def changeoverIfDue (e : Env) (h : Hall) : Hall := if (dueBank e h).isSome then changeoverScan e h else h

/-! ### Minute and step events -/

/-- R50 step 1, R73 step 1: assignments whose stop instant has come. -/
def endStopped (e : Env) (h : Hall) : Hall :=
  h.each allTx fun t h =>
    match h.asg[t] with
    | some a =>
        if a.sched.any fun s => decide (s.stop ≤ e.min) then
          endAsg e t (if a.phase = .preparing then .missed else .completed) .nothing h
        else h
    | none => h

/-- R50 step 2, R73 step 2. -/
def expireItems (e : Env) (h : Hall) : Hall :=
  let gone (i : Item) : Bool := decide (i.stop ≤ e.min)
  dropDeferral gone .expired (h.each allTx fun t h => dropStack t gone .expired h)

/-- R50 step 3, R73 step 3. -/
def startWaiting (e : Env) (markLate : Bool) (h : Hall) : Hall :=
  h.each allTx fun t h => h.mapAsg t fun a =>
    if a.sched.any fun s => decide (s.start ≤ e.min) then
      match a.phase with
      | .waiting => { a with phase := .raising, raise := .wanted }
      | .preparing => if markLate then { a with late := true } else a
      | _ => a
    else a

/-- R50: the engine's part of a minute event, with the Store's changeover (log 16). -/
def engineMinute (e : Env) (h : Hall) : Hall :=
  if !e.isSet || h.mode = .adopting then h
  else if h.mode = .running then changeoverScan e (startWaiting e false (expireItems e (endStopped e h)))
  else changeoverIfDue e h

/-- R73: the engine's part of a step or set event. -/
def engineStep (e : Env) (h : Hall) : Hall :=
  if h.mode = .running then changeoverScan e (startWaiting e true (expireItems e (endStopped e h)))
  else changeoverIfDue e h

end Sys2Proof.Machine
end

