-- ==== Sys2Proof/Machine/Changes.lean ====
section
/-! DEFINITION. The change queue: examination, engagement, application (R22 to R33). -/

namespace Sys2Proof.Machine

/-- R23. -/
def kindTaken (k : ChangeKind) (s : BankState) : Bool :=
  match s, k with
  | .committed, _ | .active, _ => true
  | .retiring, .withdraw => true
  | _, _ => false

/-- R24: the first entry, in ascending id, that the entry clashes with; `skip` is the entry it replaces. -/
def firstClash (b : Bank) (start : Minutes) (en : Entry) : Option Nat :=
  (b.recs.find? fun r => clash start en r.entry).map fun r => r.entry.id

/-- R24 ADD steps 3 to 7, AMEND step 2. -/
def changeFault (k : Tables) (h : Hall) (b : Bank) (en : Entry) : Option RejectReason :=
  match entryFault k h en with
  | some (s, a) => some (.status s none a)
  | none =>
    match firstClash b (b.start.getD 0) en with
    | some id => some (.status .conflict (some (min en.id id, some (max en.id id))) none)
    | none => none

/-- R24: the validation of a change against its bank. -/
def validate (k : Tables) (h : Hall) (c : Change) : Option RejectReason :=
  let b := h.banks[c.bank]
  let held := (b.find c.id).isSome
  match c.kind, c.entry with
  | .withdraw, _ => if held then none else some (.status .notFound none none)
  | .add, some en =>
      if held then some (.status .conflict (some (c.id, none)) none)
      else if Config.maxEntries ≤ b.recs.length then some (.status .full none none)
      else changeFault k h b en
  | .amend, some en => if held then changeFault k h b en else some (.status .notFound none none)
  | _, none => some (.status .range none none)

/-- R25: the assignments that carry an occurrence of the change's entry. -/
def carriers (h : Hall) (c : Change) : List Tx :=
  allTx.filter fun t => (h.asg[t]).any fun a => a.sched.any fun s => decide (s.occ.bank = c.bank) && decide (s.occ.id = c.id)

/-- R25: work in flight for T's assignment. -/
def workOf (h : Hall) (t : Tx) : List Work :=
  ((h.tx[t]).out.toList.filterMap fun o => if o.sentAt.isSome then some (.order t (o.no.getD 0)) else none) ++
  (grantedOf h t).map fun m => .motion m.kind m.arrival

/-- R25: the assignments in whose way the change stands, with their work. -/
def engaged (h : Hall) (c : Change) : List Tx :=
  let st := (h.banks[c.bank]).st
  if (st = .active || st = .retiring) && decide (c.kind ≠ .add) then
    (carriers h c).filter fun t => !(workOf h t).isEmpty
  else []

/-- R30, R31: the replacement still covers the occurrence's date. -/
def covered (e : Env) (h : Hall) (o : Occ) (en : Entry) : Bool :=
  (h.banks[o.bank]).start.any (fun s => hasOcc en s o.day) && admitted e en o.day && decide (e.min < occStop en o.day)

/-- R31: an item with the replacement's priority and instants. -/
def Item.amend (i : Item) (en : Entry) : Item :=
  { i with tx := en.tx, prio := en.prio, start := occStart en i.occ.day, stop := occStop en i.occ.day }

/-- R30 cases 3 and 4, once the assignment has taken on the replacement: taken off its transmitter where the new effective output
is not available to it, be that output new or not; else the difference is acted on as any change of effective parameters. An
assignment already ENDING ends as it does (R66). -/
def amendRest (e : Env) (t : Tx) (a : Asg) (h : Hall) : Hall :=
  let new := currentEff e.k h t a
  if a.phase.isEnding || outUsable h t new.out then recompute e t false false h
  else takeOff e t new.out (h.mapAsg t fun a => { a with eff := new })

/-- R30: AMEND and a running occurrence. One that is ENDING already keeps its outcome (R66), and where the replacement does not cover
it, or names another transmitter, the item it leaves keeps the old transmitter, priority and instants (log 51). -/
def amendAsg (e : Env) (c : Change) (en : Entry) (t : Tx) (h : Hall) : Hall :=
  match h.asg[t] with
  | none => h
  | some a =>
    match a.sched with
    | none => h
    | some s =>
      if !(decide (s.occ.bank = c.bank) && decide (s.occ.id = c.id)) then h
      else if !covered e h s.occ en || decide (en.tx ≠ t) then endAsg e t .withdrawn .nothing h
      else
        let s := { s with prio := en.prio, start := occStart en s.occ.day, stop := occStop en s.occ.day }
        let a := { a with sched := some s, base := entryParams en }
        amendRest e t a (h.setAsg t (some a))

/-- R31: AMEND and the items of one stack. -/
def amendStack (e : Env) (c : Change) (en : Entry) (t : Tx) (h : Hall) : Hall :=
  let mine (i : Item) : Bool := decide (i.occ.bank = c.bank) && decide (i.occ.id = c.id)
  let h := dropStack t (fun i => mine i && !covered e h i.occ en) .withdrawn h
  if en.tx = t then
    h.setStack t ((h.stack[t]).map fun (i : StackItem) => if mine i.item then { i with item := i.item.amend en } else i)
  else
    let out := (h.stack[t]).filter fun i => mine i.item
    if out.isEmpty then h
    else
      let h := (h.setStack t ((h.stack[t]).filter fun i => !mine i.item)).wantAlloc
      h.each out fun i h => deferItem e (i.item.amend en) .txBusy h

/-- R31: AMEND and the deferral list. -/
def amendDeferral (e : Env) (c : Change) (en : Entry) (h : Hall) : Hall :=
  let mine (i : Item) : Bool := decide (i.occ.bank = c.bank) && decide (i.occ.id = c.id)
  let h := dropDeferral (fun i => mine i && !covered e h i.occ en) .withdrawn h
  let stay := h.deferral.filter fun (i : DeferItem) => !mine i.item
  let moved := h.deferral.filter fun (i : DeferItem) => mine i.item
  { h with deferral := moved.foldl (fun l i => insertItem { i with item := i.item.amend en } l) stay }

/-- R28 to R31: apply a change to its bank and to the occurrences of its entry. The assignments come first: an end that completes at
once has its ASSIGNMENT notice before the WITHDRAWN notices of the items (log 41). The stacks come before the deferral list: an item
that an AMEND moves to a full list is skipped, though the same AMEND then removes an uncovered item from the list (log 61). -/
def applyChange (e : Env) (c : Change) (h : Hall) : Hall :=
  match c.kind, c.entry with
  | .add, some en => h.setBank c.bank fun b => b.put en
  | .amend, some en =>
      let h := h.setBank c.bank fun b => b.put en
      amendDeferral e c en ((h.each allTx (amendAsg e c en)).each allTx (amendStack e c en))
  | .withdraw, _ =>
      let l := carriers h c
      let mine (i : Item) : Bool := decide (i.occ.bank = c.bank) && decide (i.occ.id = c.id)
      let h := (h.setBank c.bank fun b => b.remove c.id).each l fun t h => endAsg e t .withdrawn .nothing h
      dropDeferral mine .withdrawn (h.each allTx fun t h => dropStack t mine .withdrawn h)
  | _, none => h

/-- The head leaves the queue. -/
def popChange (h : Hall) : Hall := { h with changes := h.changes.tail }

/-- R22, R32: the head is rejected. -/
def rejectHead (c : Change) (r : RejectReason) (h : Hall) : Hall :=
  (popChange h).note (.changeRejected c.tag c.bank c.kind c.id r)

/-- R22: one examination of the head. -/
def examine (e : Env) (c : Change) (h : Hall) : Hall :=
  let st := (h.banks[c.bank]).st
  if !kindTaken c.kind st then rejectHead c (.status .state none none) h
  else
    match validate e.k h c with
    | some r => rejectHead c r h
    | none =>
      let l := engaged h c
      if l.isEmpty then
        let h := (popChange (applyChange e c h)).note (.changeDone c.tag c.bank c.kind c.id)
        if st = .committed then h else h.wantAlloc
      else
        { h with changes := { c with draining := true, frozen := l, awaited := l.flatMap (workOf h), recheck := false } ::
                            h.changes.tail }

/-- R26: a DRAINING head is examined again: an awaited item has left flight, or its assignment is gone. That an assignment ends is
taken as the completion of its end (R66), not as its going to ENDING: with its LOWER in flight it does not call for an examination
by going there (log 60). -/
def mustRecheck (h : Hall) (c : Change) : Bool :=
  let now := c.frozen.flatMap (workOf h)
  c.recheck || c.awaited.any (fun w => !now.contains w) || c.frozen.any fun t => !(carriers h c).contains t

/-- R22, R26: examination of the head, when one is due. -/
def changeStep (e : Env) (h : Hall) : Option Hall :=
  match h.changes with
  | [] => none
  | c :: _ =>
    if h.mode = .adopting then none
    else if !c.draining || mustRecheck h c then some (examine e c h)
    else none

/-- R26: ask for the examination of a DRAINING head (QUIESCE, SECTION reset, STORE-ERASE). -/
def recheckHead (h : Hall) : Hall :=
  { h with changes := match h.changes with | c :: l => { c with recheck := c.draining } :: l | [] => [] }

end Sys2Proof.Machine
end

