-- ==== Sys2Proof/Machine/Plans.lean ====
section
/-! DEFINITION. Directive plans: steps, the in-force test, ends, plan 0 (R185 to R193). -/

namespace Sys2Proof.Machine

/-- The steps of a plan 1 to 31. -/
def planSteps (k : Tables) (n : Nat) : List PlanStep :=
  if h : n < 32 then ((k.plans[n]).getD []) else []

/-- R184: plan 0 has one step. -/
def stepCount (k : Tables) (n : Nat) : Nat := if n = 0 then 1 else (planSteps k n).length

def stepAt (k : Tables) (n i : Nat) : Option PlanStep := if n = 0 then none else (planSteps k n)[i - 1]?

/-- R189, R192: start the current step of the running plan: its hold change, with the plan's cause. -/
def startStep (e : Env) (h : Hall) : Hall :=
  match h.running with
  | none => h
  | some r =>
    let cause := HoldCause.plan r.plan r.step
    let r := { r with start := e.now, timeout := e.k.stepTo * 1000, refused := none, who := [] }
    if r.plan = 0 then
      let who := allTx.filter fun t => txDefined e.k h t
      { h with running := some { r with who := who } }.each who fun t h => setHold e t .inhibit cause h
    else
      match stepAt e.k r.plan r.step with
      | some (.setHold t v) =>
          match holdFault e.k h t v with
          | some (s, _) => { h with running := some { r with refused := some s } }
          | none => setHold e t v cause { h with running := some r }
      | some (.clearHold t a) => clearHold e t a cause { h with running := some r }
      | none => { h with running := some r }

/-- R187: acceptance of plan k with tag t. -/
def acceptPlan (e : Env) (k t : Nat) (h : Hall) : Hall :=
  let h := { h with dslot := none, dlast := some ⟨k, t, .accepted⟩ }.note (.directiveAccepted k t)
  startStep e { h with running := some ⟨k, t, 1, e.now, 0, 0, [], none⟩ }

/-- R191: the plan ends; a PENDING directive is accepted. -/
def endPlan (e : Env) (r : Running) (h : Hall) : Hall :=
  let h := { h with running := none }.note (.planDone r.plan r.tag (stepCount e.k r.plan) r.failed)
  match h.dslot with
  | some (k, t) => acceptPlan e k t h
  | none => h

/-- R190, R191: the current step is over with a result; the next one starts, or the plan ends. -/
def stepOver (e : Env) (r : Running) (res : StepResult) (h : Hall) : Hall :=
  let r := { r with failed := if res = .inForce then r.failed else r.failed + 1 }
  let h := h.note (.planStep r.plan r.step res)
  if r.step < stepCount e.k r.plan then startStep e { h with running := some { r with step := r.step + 1 } }
  else endPlan e r h

/-- R190, R193: the in-force test finds no assignment on T. In QUIESCENT it finds none, though an end that QUIESCE began may still
wait on its LOWER; elsewhere one that is ENDING is an assignment (log 53). -/
def noneFound (h : Hall) (t : Tx) : Bool := decide (h.mode = .quiescent) || (h.asg[t]).isNone

/-- R190: the in-force test of one step. -/
def inForce (e : Env) (h : Hall) : PlanStep → Bool
  | .clearHold _ _ => true
  | .setHold t .inhibit => provenDown e h t
  | .setHold t (.output o p) =>
      noneFound h t || (decide (madeOut h t = some o) && (!(e.k.outs[o]).slewable || parkedAt h o p))
  | .setHold t (.frequency f m) =>
      noneFound h t || (h.tx[t]).cond.any fun c => decide (condTune c.cond = some (f, m))
  | .setHold t (.power _) =>
      let kw := (h.asg[t]).map fun a => a.eff.power
      noneFound h t || !isRad (h.tx[t]).st ||
      (decide ((h.tx[t]).st = .onAir) && decide ((h.tx[t]).raiseKw = kw) && decide ((h.tx[t]).doneKw = kw))

/-- R190: the current step is in force. -/
def currentInForce (e : Env) (h : Hall) (r : Running) : Bool :=
  if r.plan = 0 then r.who.all fun t => provenDown e h t
  else match stepAt e.k r.plan r.step with | some s => inForce e h s | none => true

/-- R189 to R191: the running plan's next move, if it has one now. -/
def planStep (e : Env) (h : Hall) : Option Hall :=
  match h.running with
  | none => none
  | some r =>
    match r.refused with
    | some s => some (stepOver e r (.refused s) h)
    | none => if currentInForce e h r then some (stepOver e r .inForce h) else none

/-- R192: plan 0 starts; a plan 1 to 31 that runs is abandoned. -/
def startPlan0 (e : Env) (tag : Nat) (h : Hall) : Hall :=
  let h := match h.running with
    | some r => h.note (.planAbandoned r.plan r.tag r.step r.failed .plan0)
    | none => h
  startStep e ({ h with running := some ⟨0, tag, 1, e.now, 0, 0, [], none⟩ }.note (.directiveAccepted 0 tag))

/-- R163, R192: ESTOP handed to the Hold and Plan Unit. -/
def estopPlan (e : Env) (h : Hall) : Hall :=
  if h.running.any fun r => decide (r.plan = 0) then h else startPlan0 e 0 h

/-- R193: HALL reset and STORE-ERASE: the running plan is abandoned, a PENDING directive cancelled. -/
def resetPlans (h : Hall) : Hall :=
  let h := match h.running with
    | some r => { h with running := none }.note (.planAbandoned r.plan r.tag r.step r.failed .reset)
    | none => h
  match h.dslot with
  | some (k, t) =>
      let last := h.dlast.map fun d => if d.fate = .pending then { d with fate := .cancelled } else d
      { h with dslot := none, dlast := last }.note (.directiveCancelled k t .reset)
  | none => h

end Sys2Proof.Machine
end

