-- ==== Sys2Proof/Machine/Recovery.lean ====
section
/-! DEFINITION. Recovery after a trip (R168 to R170), idle timers (R74), undefine pending (R156). -/

namespace Sys2Proof.Machine

def setRcv (t : Tx) (f : Recovery → Recovery) (h : Hall) : Hall := h.setTx t fun r => { r with rcv := f r.rcv }

/-- R168: WAITING, with the delay started. -/
def startWait (e : Env) (t : Tx) (h : Hall) : Hall :=
  setRcv t (fun r => { r with stage := .waiting, expiry := some (e.now + e.k.rcv.delay * 1000), rfpWait := false }) h

/-- R169: T's assignment is in phase TRIPPED. -/
def asgTripped (h : Hall) (t : Tx) : Bool := (h.asg[t]).any fun a => decide (a.phase = .tripped)

/-- R169: the recovery is IDLE, with a CLEAR-TRIP of the Supervisor's own where T is TRIPPED. -/
def clearRefused (e : Env) (t : Tx) (h : Hall) : Hall :=
  let h := setRcv t (fun _ => Recovery.idle) h
  if (h.tx[t]).st = .tripped then handClear e t h else h

/-- R169: a refused retry. Its CLEAR-TRIP is made after the assignment has ended or left TRIPPED: while it is TRIPPED still (its
stop instant past, and no minute event has ended it: in ADOPTING none does), the clear is owed. -/
def refuseRetry (e : Env) (t : Tx) (h : Hall) : Hall :=
  if asgTripped h t then setRcv t (fun _ => { Recovery.idle with owed := true }) h else clearRefused e t h

/-- R169: the retry RAISE handed. -/
def handRetry (e : Env) (t : Tx) (kw : Nat) (h : Hall) : Hall :=
  let o := Order.mk0 (.raise kw) true false
  match (h.tx[t]).st with
  | .tripped =>
      let h := handClear e t h
      setRcv t (fun r => { r with stage := .clearing }) (makePending t o h)
  | .ready => handOrder e t (.raise kw) (setRcv t (fun r => { r with stage := .retrying }) h)
  | _ => setRcv t (fun _ => Recovery.idle) (declineUnsent e t o h)

/-- R169: the fold-back flag of a REFL-caused trip set, and the effective power worked out again. -/
def foldRetry (e : Env) (t : Tx) (a : Asg) (h : Hall) : Asg :=
  if (h.tx[t]).rcv.refl then
    let a := { a with fold := true }
    { a with eff := { a.eff with power := (currentEff e.k h t a).power } }
  else a

/-- R169: the engine is asked for a retry, and grants or refuses it. A refusal by the Frequency Check ends the assignment FAILED
(R86), and the recovery stays in ASKING until that end completes. -/
def askRetry (e : Env) (t : Tx) (h : Hall) : Hall :=
  match h.asg[t] with
  | none => refuseRetry e t h
  | some a =>
    if decide (a.phase ≠ .tripped) || a.sched.any (fun s => decide (s.stop ≤ e.min)) then refuseRetry e t h
    else
      let a := foldRetry e t a h
      let h := h.setAsg t (some a)
      let ans := if a.sched.isSome then checkParams e.k h t a.eff else .permitted
      if ans = .permitted then handRetry e t a.eff.power (h.mapAsg t fun a => { a with raise := .asked })
      else setRcv t (fun r => { r with failing := true }) (refuseAsg e t .raise ans h)

/-- R169: the decision after the delay. -/
def decideRetry (e : Env) (t : Tx) (h : Hall) : Hall :=
  if e.k.rcv.retries < (h.tx[t]).window.length then lockoutTrips e t h
  else if rfpActive e h t then setRcv t (fun r => { r with rfpWait := true }) h
  else setRcv t (fun r => { r with stage := .asking, rfpWait := false }) h

/-- R27, R169: the request for a retry waits while the assignment is frozen and still TRIPPED. -/
def retryWaits (h : Hall) (t : Tx) : Bool := frozen h t && asgTripped h t

/-- R169: the end of an assignment whose retry RAISE the Frequency Check refused has still to complete. -/
def endWaits (h : Hall) (t : Tx) : Bool := (h.asg[t]).any fun a => a.phase.isEnding

/-- R168 to R170: the next move of T's recovery, if it has one now. A request that waits on a freeze is refused at once when the
assignment leaves TRIPPED, one that the Frequency Check refused when that end completes, and a CLEAR-TRIP owed is then ordered
(R169). In CLEARING a retry RAISE that is withdrawn or overtaken leaves the CLEAR-TRIP to its end, which takes the recovery to IDLE
(R170's table speaks of RETRYING alone: log 63). -/
def recoveryStep (e : Env) (t : Tx) (h : Hall) : Option Hall :=
  let r := h.tx[t]
  match r.rcv.stage with
  | .idle => if r.rcv.owed && !asgTripped h t then some (clearRefused e t h) else none
  | .stopping => if carrierDown r then some (startWait e t h) else none
  | .waiting =>
      if r.rcv.expiry.isSome || decide (r.st = .unreachable) || (r.rcv.rfpWait && rfpActive e h t) then none
      else some (decideRetry e t h)
  | .asking =>
      if r.rcv.failing then if endWaits h t then none else some (clearRefused e t h)
      else if retryWaits h t then none
      else some (askRetry e t h)
  | .clearing =>
      if r.inHand (fun k => decide (k = .clearTrip)) then none
      else if r.inHand OrderKind.isRaise then some (setRcv t (fun r => { r with stage := .retrying }) h)
      else some (setRcv t (fun _ => Recovery.idle) h)
  | .retrying => if r.inHand OrderKind.isRaise then none else some (setRcv t (fun _ => Recovery.idle) h)

/-! ### Idle timers -/

/-- R74: states in which the idle timer stops. -/
def idleStops (r : TxRec) : Bool :=
  match r.st with
  | .isLocal | .unreachable | .lockout | .absent => true
  | .cold => !r.inHand fun k => decide (k = .cool)
  | _ => false

/-- R74: start or stop of T's idle timer, if one is due now; at the creation of an assignment `Hall.beginAsg` stops it. A cool delay
of 0 starts no timer. One that has run out starts again only after a stop: after a declined COOL by R74's words, and after a COOL that
its timeout ends by the model's choice (R146, log 62). -/
def idleStep (e : Env) (t : Tx) (h : Hall) : Option Hall :=
  let r := h.tx[t]
  let i := h.idle[t]
  if (h.asg[t]).isSome || idleStops r then
    if i = .stopped then none else some (h.setIdle t .stopped)
  else if decide (i = .stopped) && (decide (r.st = .standby) || decide (r.st = .ready)) && !unjudged h t then
    some (h.setIdle t (if e.k.cool = 0 then .spent else .running (e.now + e.k.cool * 60000)))
  else none

/-! ### Undefining -/

/-- R133: what every transmitter that goes to ABSENT loses, with its TX notice. An outstanding order stays: at a lockout's release that
is its LOWER, not sent again, until its timeout (R202, log 54). -/
def goAbsent (t : Tx) (c : TxCause) (h : Hall) : Hall :=
  let h := setTxState t .absent c h
  h.setTx t fun r => { r with before := none, contact := false, cond := none, missed := 0, undef := false, exch := none,
                              pend := none, resend := false }

/-- R156: what keeps a transmitter with undefine pending. -/
def undefHeld (e : Env) (h : Hall) (t : Tx) : Bool :=
  let r := h.tx[t]
  (h.asg[t]).isSome || isRad r.st || decide (r.st = .tripped) || decide (r.st = .lockout) || r.out.isSome ||
  decide (r.permit ≠ .none) || rfpActive e h t

/-- R156: to ABSENT when nothing keeps it. -/
def undefStep (e : Env) (t : Tx) (h : Hall) : Option Hall :=
  if (h.tx[t]).undef && !undefHeld e h t then some ((goAbsent t .reset h).setAdopt t fun a => { a with judged := true }) else none

end Sys2Proof.Machine
end

