-- ==== Sys2Proof/Machine/Adoption.lean ====
section
/-! DEFINITION. Adoption: judgement of transmitters, carriers, the end of adoption (R206 to R212). -/

namespace Sys2Proof.Machine

def allRead (h : Hall) : Bool := allOut.all fun o => (h.path.cols[o]).read

/-- R207: T is reachable: its cabinet has replied since the reset and is not lost. -/
def reachable (h : Hall) (t : Tx) : Bool := (h.adopt[t]).firstReply.isSome && decide ((h.tx[t]).st ≠ .unreachable)

/-- The last condition of a reachable cabinet (R208). -/
def foundCond (h : Hall) (t : Tx) : Option CabReply := if reachable h t then (h.tx[t]).cond else none

/-- R208: a carrier is found on T. -/
def carrierFound (e : Env) (h : Hall) (t : Tx) : Bool :=
  match foundCond h t with
  | some c => match c.cond with | .on _ _ _ => !c.loc | _ => false
  | none => rfpActive e h t

/-- R207 condition 5, of T's last reply, reachable or not. -/
def moving (h : Hall) (t : Tx) : Bool :=
  (h.tx[t]).cond.any fun c => match c.cond with | .raising _ _ _ | .lowering _ _ _ => true | _ => false

/-- R207: the timeout by which condition 5 lapses, by T's last reply. -/
def lapseTime (k : Tables) (h : Hall) (t : Tx) : Option Ms :=
  match (h.tx[t]).cond.map CabReply.cond with
  | some (.raising _ _ _) => some ((k.txs[t]).raise * 1000)
  | some (.lowering _ _ _) => some ((k.txs[t]).lower * 1000)
  | _ => none

/-- R207: that timeout has passed since T's first reply. -/
def lapseDue (e : Env) (h : Hall) (t : Tx) : Bool :=
  (h.adopt[t]).firstReply.any fun x => (lapseTime e.k h t).any fun d => decide (x + d ≤ e.now)

/-- R207: the judgement of T would find a carrier: no row above the carrier's applies. -/
def findsCarrier (e : Env) (h : Hall) (t : Tx) : Bool :=
  decide ((h.tx[t]).st ≠ .lockout) && !((h.tx[t]).cond.any fun c => c.loc || condTripped c.cond) && carrierFound e h t

/-- R207: the conditions of judgement. Condition 5 lapses with its timeout, in whatever event finds it passed: a reply that turns
RAISING after it, or a TX-DEFINE that cuts it, is followed by the judgement at once. It lapses too for a cabinet that has not
replied since the reset (log 36), and a lapse that was taken stands (log 56). -/
def readyToJudge (e : Env) (h : Hall) (t : Tx) : Bool :=
  unjudged h t && allRead h && ((h.adopt[t]).firstReply.isSome || (h.adopt[t]).lost) && rfpQualified h t &&
  (!findsCarrier e h t || e.isSet) &&
  (!moving h t || (h.adopt[t]).lapsed || lapseDue e h t || (h.adopt[t]).firstReply.isNone)

/-- R208: the clean path of a carrier. -/
def carrierPath (h : Hall) (t : Tx) : Option Out :=
  match allOut.filter (fun o => decide (xst h t o ≠ .opened)) with
  | [o] =>
      if decide (xst h t o = .closed) && decide (outState h o ≠ .faulted) && !reservedByOther h o t then some o else none
  | _ => none

/-- R209: an occurrence of one bank's record that the carrier can be, on one date. -/
def carrierOcc (e : Env) (h : Hall) (n : BankNo) (t : Tx) (o : Out) (f : Nat) (before : Option Minutes) (r : EntryRec)
    (d : Day) : Bool :=
  let en := r.entry
  (h.banks[n]).start.any (fun s => hasOcc en s d) && before.all (fun b => decide (occStart en d < b)) &&
  decide (occStart en d ≤ e.min) && decide (e.min < occStop en d) && decide (en.tx = t) && decide (en.out = o) &&
  decide (en.freq = f)

/-- R209: candidates of one bank. -/
def carrierCands (e : Env) (h : Hall) (n : BankNo) (t : Tx) (o : Out) (f : Nat) (before : Option Minutes) : List Cand :=
  (h.banks[n]).recs.flatMap fun r => (scanDays e).filterMap fun d =>
    if carrierOcc e h n t o f before r d then some ⟨r, d⟩ else none

/-- R209: priority descending, ACTIVE before RETIRING, start ascending, entry id. -/
def matchBefore (a b : BankNo × Bool × Cand) : Bool :=
  let x := a.2.2.r.entry
  let y := b.2.2.r.entry
  decide (x.prio > y.prio) || (decide (x.prio = y.prio) &&
    ((a.2.1 && !b.2.1) || (decide (a.2.1 = b.2.1) &&
      (decide (occStart x a.2.2.day < occStart y b.2.2.day) ||
        (decide (occStart x a.2.2.day = occStart y b.2.2.day) && decide (x.id < y.id))))))

/-- R209: the candidate taken. -/
def matchCarrier (e : Env) (h : Hall) (t : Tx) (o : Out) (f : Nat) : Option (BankNo × Cand) :=
  match activeBank h with
  | none => none
  | some n =>
    let own := (carrierCands e h n t o f none).map fun c => (n, true, c)
    let old := match retiringBank h with
      | some r => (carrierCands e h r t o f (h.banks[n]).start).map fun c => (r, false, c)
      | none => []
    (sortBy matchBefore (own ++ old)).head?.map fun x => (x.1, x.2.2)

/-- An adopted assignment. -/
def adoptedAsg (s : Option Sched) (base eff : Params) : Asg :=
  { sched := s, base := base, eff := eff, awaits := none, phase := .onAir, trips := 0, tripTimes := [], fold := false,
    late := false, tune := .done, path := .done, raise := .done, power := false, hold := false, lowerOver := false,
    counts := true }

/-- R209, R210: the assignment, its claim, and the power recorded as the last RAISE's. -/
def adoptAsg (t : Tx) (o : Out) (a : Asg) (h : Hall) : Hall :=
  ((h.beginAsg t a).setOwner o (some t)).setTx t fun r =>
    { r with raiseKw := some a.eff.power, doneKw := some a.eff.power }

/-- R208, R210: the FOREIGN-CARRIER report. -/
def reportForeign (e : Env) (t : Tx) (w : ForeignWord) (f : Option Nat) (a : Option CheckAnswer) (h : Hall) : Hall :=
  report e ⟨.foreignCarrier, .tx t, none, f, some (.foreign w a)⟩ h

/-- R210: an unmatched carrier. -/
def adoptForeign (e : Env) (t : Tx) (o : Out) (f : Nat) (m : Mode) (kw : Nat) (h : Hall) : Hall :=
  let preset := ((h.path.pos[o]).bind fun p => match p.st with | .parked n => n | _ => none)
  let p : Params := ⟨f, m, o, preset, max 1 kw, none⟩
  match checkParams e.k h t p with
  | .permitted =>
      let h := reportForeign e t .noMatch (some f) none (adoptAsg t o (adoptedAsg none p p) h)
      { h with adoptedF := h.adoptedF + 1 }.note (.admitted t none o .adoption)
  | ans => handLower e t false (reportForeign e t .excluded (some f) (some ans) h)

/-- R209: a carrier with a path. The ADMITTED notice carries the effective output (R52). -/
def adoptCarrier (e : Env) (t : Tx) (o : Out) (f : Nat) (m : Mode) (kw : Nat) (h : Hall) : Hall :=
  match matchCarrier e h t o f with
  | none => adoptForeign e t o f m kw h
  | some (n, c) =>
    let en := c.r.entry
    let base := entryParams en
    let eff := effective e.k (h.holds[t]) base false
    if checkParams e.k h t eff ≠ .permitted then adoptForeign e t o f m kw h
    else
      let s : Sched := ⟨⟨n, en.id, c.day⟩, en.prio, occStart en c.day, occStop en c.day⟩
      let h := adoptAsg t o (adoptedAsg (some s) base eff) (h.setBank n fun b => b.mark en.id s.start)
      { h with adoptedS := h.adoptedS + 1 }.note (.admitted t (some s.occ) eff.out .adoption)

/-- R208: a carrier on T. -/
def judgeCarrier (e : Env) (t : Tx) (h : Hall) : Hall :=
  match foundCond h t with
  | none =>
      let h := h.setTx t fun r => { r with before := some .onAir }
      reportForeign e t .unreachable none none (handLower e t false h)
  | some c =>
    match c.cond with
    | .on f m kw =>
      match carrierPath h t with
      | some o => adoptCarrier e t o f m kw h
      | none => handLower e t false (reportForeign e t .noPath (some f) none h)
    | _ => h

/-- R207: the judgement of T: the first row that applies. A condition of one in LOCKOUT that was held before the reset counts as a
reply (log 56). -/
def judge (e : Env) (t : Tx) (h : Hall) : Hall :=
  let h := h.setAdopt t fun a => { a with judged := true }
  let r := h.tx[t]
  let c := r.cond
  if r.st = .lockout then if r.condRad && !r.lowerInHand then rfUnexpected e t h else h
  else
    if c.any CabReply.loc then if r.st = .isLocal then h else ordersOver t (setTxState t .isLocal .contact h)
    else if c.any fun x => condTripped x.cond then
      let h := reportTx e .lockout t (some .adopted) (setTxState t .lockout .contact h)
      let h := h.setTx t fun r => { r with pend := none, rcv := Recovery.idle }
      if rfpActive e h t then handLower e t false h else h
    else if carrierFound e h t then judgeCarrier e t h
    else if moving h t then rfUnexpected e t h
    else if (foundCond h t).isSome && rfpActive e h t then handLower e t false (reportTx e .rfUnexpected t (some .sense) h)
    else h

/-- R212: the end of adoption. A stack item of the RETIRING bank is a reference at step 2 as well (R15, log 57). -/
def endAdoption (e : Env) (h : Hall) : Hall :=
  -- step 1
  let h := h.each allTx fun t h =>
    if (h.asg[t]).any fun a => a.sched.any fun s => decide (s.stop ≤ e.min) then endAsg e t .completed .nothing h else h
  -- step 2
  let h := match retiringBank h with | some n => retireNow n h | none => h
  -- step 3
  let h := { h with mode := .running }.note (.hall .running (.adopted h.adoptedS h.adoptedF))
  -- step 4; step 5 follows by R22
  if e.isSet then changeoverScan e h.wantAlloc else h.wantAlloc

/-- R207, R212: the next judgement, in ascending transmitter order, or the end of adoption, if one is due. -/
def adoptStep (e : Env) (h : Hall) : Option Hall :=
  if h.mode ≠ .adopting then none
  else
    match allTx.find? (readyToJudge e h) with
    | some t => some (judge e t h)
    | none => if allRead h && allTx.all (fun t => (h.adopt[t]).judged) then some (endAdoption e h) else none

end Sys2Proof.Machine
end

