-- ==== Sys2Proof/Machine/Settle.lean ====
section
/-! DEFINITION. The end of an event: everything the manual gives "in the same event" settles, one rule at a time in a fixed
order (log 5), and the event's replies and notices go to the link (R215, R216). -/

namespace Sys2Proof.Machine

/-- A rule: the next thing the block does of itself, if there is one now. -/
abbrev Rule := Env → Hall → Option Hall

def forTx (f : Env → Tx → Hall → Option Hall) : Rule := fun e h => allTx.findSome? fun t => f e t h
def forOut (f : Env → Out → Hall → Option Hall) : Rule := fun e h => allOut.findSome? fun o => f e o h

/-- The rules in their order (log 5). First a permit is taken back (R150), and the ends that can complete do (R66): a DRAINING
head examined on the end of its assignment finds the item that the end has left (R26). Then the change queue: the head that comes
up when one leaves is examined at once, before the work that waited on the freeze goes on (R22). -/
def rules : List Rule :=
  [forTx takeBackStep, forTx endStep, changeStep, forTx permitStep, forTx recoveryStep, forTx undefStep, forTx driveStep,
   forTx pendStep, forTx seqStep, grantStep, forOut colStep, forOut queryStep, planStep, adoptStep, runStep, forTx idleStep]

/-- The first rule that has something to do. -/
def nextRule (e : Env) (h : Hall) : Option Hall := rules.findSome? fun r => r e h

/-- Fire rules until none has anything to do. -/
def settle : Nat → Env → Hall → Hall
  | 0, _, h => h
  | k + 1, e, h => match nextRule e h with | some h' => settle k e h' | none => h

/-! ### The outbound side of the link -/

/-- R215, R216: at a line boundary a ready reply goes before the head of the notice queue. -/
def Link.startSend (l : Link) : Link :=
  match l.sending, l.replies, l.notices with
  | some _, _, _ => l
  | none, r :: rs, _ => { l with sending := some (.reply r), replies := rs }
  | none, [], n :: ns => { l with sending := some (.notice n), notices := ns }
  | none, [], [] => l

/-- R216: a notice enters the queue, or is discarded and the notices-lost flag set. -/
def Link.pushNotice (l : Link) (n : Notice) : Link :=
  (if l.notices.length < Config.maxNotices then { l with notices := l.notices ++ [n] } else { l with lost := true }).startSend

/-- A TX notice of T. -/
def NoticeBody.isTxOf (t : Tx) : NoticeBody → Bool
  | .tx u _ _ _ => decide (u = t)
  | _ => false

/-- The transmitter whose record a FAULT notice tells of. -/
def NoticeBody.faultTx : NoticeBody → Option Tx
  | .fault r _ => match r.src with | .tx t => some t | _ => none
  | _ => none

/-- R153, R195: the notices of an event in the order in which they go: the TX notices of a transmitter before the FAULT notices
of its records, whichever was made first (log 20); every other order as they were made. -/
def txFirst : List NoticeBody → List NoticeBody
  | [] => []
  | m :: l =>
      match m.faultTx with
      | some t => (txFirst l).filter (NoticeBody.isTxOf t) ++ m :: (txFirst l).filter fun n => !n.isTxOf t
      | none => m :: txFirst l

/-- A record is the one that a notice tells of. -/
def FaultRec.same (r f : FaultRec) : Bool := decide (f.seq = r.seq) && decide (f.kind = r.kind) && decide (f.src = r.src)

/-- R199: a FAULT notice carries every field of the record as it stands after the event, whatever a later report of the event, or
the carrying of a block, has made of it. A record that the same event has displaced stands no longer: its notice keeps what its own
report left (log 55). -/
def NoticeBody.standing (recs : List FaultRec) : NoticeBody → NoticeBody
  | .fault r v => .fault ((recs.find? r.same).getD r) v
  | n => n

/-- The notices of an event as they go to the link. -/
def eventNotices (h : Hall) : List NoticeBody := (txFirst h.emit).map (NoticeBody.standing h.faults.recs)

/-- R215: replies are made before the notices of their event. -/
def Link.deliver (l : Link) (said : List Reply) (sec : Seconds) (emit : List NoticeBody) : Link :=
  emit.foldl (fun l b => l.pushNotice ⟨sec, b⟩) { l with replies := l.replies ++ said }.startSend

/-- R214: the receiving buffer's line moves up when the waiting buffer is empty and no request is in hand. -/
def Link.moveUp (l : Link) (busy : Bool) : Link :=
  if busy || l.waiting.isSome then l else { l with waiting := l.receiving, receiving := none }

/-- The end of an event. -/
def finish (s : State) : State :=
  let h := settle Config.settleFuel s.env s.hall
  { s with hall := { h with said := [], emit := [] }
           link := (s.link.deliver h.said s.env.sec (eventNotices h)).moveUp h.clear.isSome }

/-- The next state after an event of the hall: its direct effect, then everything that settles. -/
def event (s : State) (f : Env → Hall → Hall) : State := finish (s.onHall f)

end Sys2Proof.Machine
end

