-- ==== Sys2Proof/Machine/Requests.lean ====
section
/-! DEFINITION. How a request is taken: the link in hand, its tag, its one reply (R214, R215). -/

namespace Sys2Proof.Machine

abbrev Result := Host.Outcome State Fault Refusal

/-- What a request does and answers. -/
structure Ans where
  s : State
  st : Status
  body : ReplyBody

def State.ans (s : State) (st : Status) (b : ReplyBody) : Ans := ⟨s, st, b⟩
/-- A refusal: nothing changes. -/
def State.refuse (s : State) (st : Status) : Ans := ⟨s, st, .nothing⟩
def State.ok (s : State) : Ans := ⟨s, .ok, .nothing⟩

/-- R214: a request is in hand, taken or waiting to be taken. -/
def State.busy (s : State) : Bool := s.link.waiting.isSome || s.hall.clear.isSome

/-- Put a reply among those of the event. -/
def State.say (s : State) (tag : Nat) (r : Option Req) (st : Status) (b : ReplyBody) : State :=
  { s with hall := s.hall.say ⟨tag, r, st, b⟩ }

/-- R214: a line enters the receiving buffer, or is lost with LINK-ERROR OVERRUN. -/
def State.hold (s : State) (l : Held) (tag : Option Nat) : State :=
  if s.link.receiving.isSome then { s with hall := s.hall.note (.linkError .overrun tag) }
  else { s with link := { s.link with receiving := some l } }

/-- R215: a tag is 1 to 255. -/
def tagOk (tag : Nat) : Bool := within 1 255 tag

/-- R215: a request is taken: its effect, replies among it; BAD-FORM with tag 0 for a tag outside 1 to 255; the receiving
buffer while another request is in hand (log 6). -/
def State.taking (s : State) (i : Instr) (tag : Nat) (r : Req) (f : State → State) : State :=
  if s.busy then s.hold (.cmd i) (some tag)
  else if tagOk tag then f s
  else s.say 0 (some r) .badForm .nothing

/-- The state with an answer among its replies. -/
def Ans.reply (a : Ans) (tag : Nat) (r : Req) : State := a.s.say tag (some r) a.st a.body

/-- R215: a request answered in its own event: its effect and its one reply. -/
def State.take (s : State) (i : Instr) (tag : Nat) (r : Req) (f : State → Ans) : State :=
  s.taking i tag r fun s => (f s).reply tag r

/-- A request, as a whole event. -/
def request (i : Instr) (tag : Nat) (r : Req) (f : State → Ans) (s : State) : Result := .next (finish (s.take i tag r f))

/-- A plant or time event, as a whole event. -/
def happen (s : State) (f : Env → Hall → Hall) : Result := .next (event s f)

/-- R215: a name outside its list is RANGE. -/
def named {α : Type} (s : State) (x : Option α) (f : α → Ans) : Ans :=
  match x with
  | some a => f a
  | none => s.refuse .range

end Sys2Proof.Machine
end

