-- ==== Sys2Proof/Machine/Store.lean ====
section
/-! DEFINITION. Meanings of the bank requests (R5 to R12, R17) and of the change queue's requests (R20, R21). -/

namespace Sys2Proof.Machine

def State.setBank (s : State) (n : BankNo) (f : Bank → Bank) : State := { s with hall := s.hall.setBank n f }

/-- R4: a bank request: RANGE for a number outside 1 to 4, before anything else. -/
def withBank (bank : Nat) (s : State) (f : BankNo → Bank → Ans) : Ans := named s (bankOf bank) fun n => f n (s.hall.banks[n])

/-- R5. -/
def bankOpen (bank : Nat) (label : Option (List Char)) (s : State) : Ans :=
  withBank bank s fun n b =>
    if b.st ≠ .empty then s.refuse .state
    else if !label.all labelOk then s.refuse .range
    else (s.setBank n fun _ => ⟨.staging, label.getD [], none, []⟩).ok

def execBankOpen (tag bank : Nat) (label : Option (List Char)) (s : State) : Result :=
  request (.bankOpen tag bank label) tag .bankOpen (bankOpen bank label) s

/-- R6. -/
def entryPut (bank : Nat) (f : EntryForm) (s : State) : Ans :=
  withBank bank s fun n b =>
    if b.st ≠ .staging then s.refuse .state
    else
      named s (entryOf f) fun en =>
        match entryFault s.tables s.hall en with
        | some (st, a) => s.ans st (match a with | some a => .answer a | none => .nothing)
        | none =>
          if (b.find en.id).isNone && decide (Config.maxEntries ≤ b.recs.length) then s.refuse .full
          else (s.setBank n fun b => b.put en).ok

def execEntryPut (tag bank : Nat) (f : EntryForm) (s : State) : Result :=
  request (.entryPut tag bank f) tag .entryPut (entryPut bank f) s

/-- R7. -/
def entryDrop (bank id : Nat) (s : State) : Ans :=
  withBank bank s fun n b =>
    if b.st ≠ .staging then s.refuse .state
    else if (b.find id).isNone then s.refuse .notFound
    else (s.setBank n fun b => b.remove id).ok

def execEntryDrop (tag bank id : Nat) (s : State) : Result :=
  request (.entryDrop tag bank id) tag .entryDrop (entryDrop bank id) s

/-- R8 step 3: the first pair that clashes, by lower id, then higher id. -/
def firstPair (start : Minutes) : List EntryRec → Option (Nat × Nat)
  | [] => none
  | r :: l =>
    match l.find? fun x => clash start r.entry x.entry with
    | some x => some (r.entry.id, x.entry.id)
    | none => firstPair start l

/-- R8: the validation of a commit; `none`: it passes. -/
def commitFault (s : State) (b : Bank) (start : Minutes) : Option (Status × ReplyBody) :=
  match allBanks.find? fun m => decide ((s.hall.banks[m]).st = .committed) && decide ((s.hall.banks[m]).start = some start) with
  | some m => some (.conflict, .otherBank m)
  | none =>
    match b.recs.findSome? fun r => (entryFault s.tables s.hall r.entry).map fun x => (r.entry.id, x) with
    | some (id, st, a) => some (st, .atId id a)
    | none => (firstPair start b.recs).map fun p => (.conflict, .otherIds p.1 p.2)

/-- R8: the start instant of a commit. -/
def commitStart (d : DateForm) (hhmm : Nat) : Option Minutes := do
  let day ← dayOf d
  let m ← minuteOf hhmm
  if dayInCentury day then some (instantOf day m) else none

/-- R8, R9. -/
def bankCommit (bank : Nat) (d : DateForm) (hhmm : Nat) (s : State) : Ans :=
  withBank bank s fun n b =>
    named s (commitStart d hhmm) fun start =>
      if b.st ≠ .staging then s.refuse .state
      else
        match commitFault s b start with
        | some (st, body) => s.ans st body
        | none =>
          let s' := s.setBank n fun b => { b with st := .committed, start := some start }
          if s.env.isSet && decide (start ≤ s.env.min) then (s'.onHall changeoverIfDue).ans .accepted .nothing
          else s'.ok

def execBankCommit (tag bank : Nat) (d : DateForm) (hhmm : Nat) (s : State) : Result :=
  request (.bankCommit tag bank d hhmm) tag .bankCommit (bankCommit bank d hhmm) s

/-- R10. -/
def bankUncommit (bank : Nat) (s : State) : Ans :=
  withBank bank s fun n b =>
    if b.st ≠ .committed then s.refuse .state
    else (s.setBank n fun b => { b with st := .staging, start := none }).ok

def execBankUncommit (tag bank : Nat) (s : State) : Result :=
  request (.bankUncommit tag bank) tag .bankUncommit (bankUncommit bank) s

/-- R11. -/
def bankRelease (bank : Nat) (s : State) : Ans :=
  withBank bank s fun n b =>
    if b.st = .staging || b.st = .spent then (s.setBank n fun _ => Bank.blank).ok else s.refuse .state

def execBankRelease (tag bank : Nat) (s : State) : Result :=
  request (.bankRelease tag bank) tag .bankRelease (bankRelease bank) s

/-- R12. R12 gives no place to a label that R4 does not allow: it is refused with RANGE after STATE (log 26). -/
def bankRestage (bank : Nat) (label : Option (List Char)) (s : State) : Ans :=
  withBank bank s fun n b =>
    if b.st ≠ .spent then s.refuse .state
    else if !label.all labelOk then s.refuse .range
    else (s.setBank n fun b => { b with st := .staging, start := none, label := label.getD b.label }).ok

def execBankRestage (tag bank : Nat) (label : Option (List Char)) (s : State) : Result :=
  request (.bankRestage tag bank label) tag .bankRestage (bankRestage bank label) s

/-- R17. -/
def bankStatus (bank : Nat) (s : State) : Ans :=
  withBank bank s fun n b => s.ans .ok (.bank n b.st b.label b.recs.length b.start)

def execBankStatus (tag bank : Nat) (s : State) : Result := request (.bankStatus tag bank) tag .bankStatus (bankStatus bank) s

/-- R17. -/
def entryGet (bank id : Nat) (s : State) : Ans :=
  withBank bank s fun _ b =>
    match b.find id with
    | some r => s.ans .ok (.entry r.entry r.mark)
    | none => s.refuse .notFound

def execEntryGet (tag bank id : Nat) (s : State) : Result := request (.entryGet tag bank id) tag .entryGet (entryGet bank id) s

/-- R17: up to 40 ids from the first id given, and the next one. -/
def entryList (bank first : Nat) (s : State) : Ans :=
  withBank bank s fun _ b =>
    let l := (b.recs.map fun r => r.entry.id).filter fun i => decide (first ≤ i)
    s.ans .ok (.ids (l.take 40) (l.drop 40).head?)

def execEntryList (tag bank first : Nat) (s : State) : Result :=
  request (.entryList tag bank first) tag .entryList (entryList bank first) s

/-- R20, R215: the entry's fields are present exactly for ADD and AMEND; a kind outside the three fixes no form. -/
def changeForm (k : Option ChangeKind) (f : Option EntryForm) : Bool :=
  match k with
  | some .withdraw => f.isNone
  | some _ => f.isSome
  | none => true

/-- R20: the entry of a change, with the change's id, within R1's ranges; a dummy load carries no preset. `none` is RANGE. -/
def changeEntry (id : Nat) (f : Option EntryForm) : Option (Option Entry) :=
  match f with
  | none => some none
  | some f =>
    match entryOf { f with id := id } with
    | some en => if isLoad en.out && en.preset.isSome then none else some (some en)
    | none => none

/-- R20, R215: the form before any range. -/
def changePost (tag bank : Nat) (kind : Option ChangeKind) (id : Nat) (f : Option EntryForm) (s : State) : Ans :=
  if !changeForm kind f then s.refuse .badForm
  else
    named s (bankOf bank) fun n =>
      named s kind fun k =>
        if !within 1 65535 id then s.refuse .range
        else
          named s (changeEntry id f) fun en =>
            if Config.maxChanges ≤ s.hall.changes.length then s.refuse .full
            else
              ({ s with hall := { s.hall with changes := s.hall.changes ++ [(⟨tag, n, k, id, en, false, [], [], false⟩ : Change)] } }).ans
                .accepted .nothing

def execChangePost (tag bank : Nat) (kind : Option ChangeKind) (id : Nat) (f : Option EntryForm) (s : State) : Result :=
  request (.changePost tag bank kind id f) tag .changePost (changePost tag bank kind id f) s

/-- R21. -/
def changeList (s : State) : Ans :=
  s.ans .ok (.changes (s.hall.changes.map fun c => (⟨c.tag, c.bank, c.kind, c.id, c.draining⟩ : ChangeView)))

def execChangeList (tag : Nat) (s : State) : Result := request (.changeList tag) tag .changeList changeList s

end Sys2Proof.Machine
end

