-- ==== Sys2Proof/Machine/Clock.lean ====
section
/-! DEFINITION. Meanings of the Time Base's requests and events (R37 to R45), and a pulse (R38). -/

namespace Sys2Proof.Machine

def State.note (s : State) (b : NoticeBody) : State := { s with hall := s.hall.note b }

def State.setTime (s : State) (f : TimeBase → TimeBase) : State := { s with time := f s.time }

/-- R44: the CLOCK notice, with both readings for a step or set. -/
def State.clockNotice (s : State) (step : Option (ClockTick × ClockTick)) : State :=
  s.note (.clock s.time.cstate s.env.sec (step.map fun p => (p.1 / ticksPerSec, p.2 / ticksPerSec)))

/-- R39: the CLOCK-FREE report of an entry to FREE. -/
def reportFree (e : Env) (h : Hall) : Hall := report e ⟨.clockFree, .timebase, none, none, none⟩ h

/-- The reading lies exactly on a minute boundary. -/
def onMinute (t : ClockTick) : Bool := decide (t % ticksPerMin = 0)

/-- R37: hand a minute event. -/
def State.minute (s : State) : State := s.onHall engineMinute

/-- R38: the reading with its second aligned. -/
def aligned (t : ClockTick) : ClockTick :=
  let frac := t % ticksPerSec
  if frac < 5000 then t - frac else t + (ticksPerSec - frac)

/-- R38: a pulse within half a second of the last accepted one is ignored. -/
def pulseIgnored (t : TimeBase) : Bool := t.lastPulse.any fun p => decide (t.now < p + 500)

/-- R38, R39: the Time Base after an accepted pulse. -/
def TimeBase.pulse (t : TimeBase) : TimeBase :=
  { t with lastPulse := some t.now, absence := some (t.now + Config.absenceMs),
           cstate := if t.cstate = .free then .locked else t.cstate,
           clock := if t.slew.isSome then t.clock else aligned t.clock }

/-- R38, R39: one pulse. The CLOCK notice of a return from FREE to LOCKED carries the reading after the alignment (R45, log 41). -/
def pulse (s : State) : State :=
  if pulseIgnored s.time then s
  else
    let s' := s.setTime TimeBase.pulse
    let s' := if s.time.cstate = .free then s'.clockNotice none else s'
    if decide (s.time.clock < s'.time.clock) && onMinute s'.time.clock then s'.minute else s'

/-- R40: the value of a TIME-SET. -/
def timeValue (d : DateForm) (h m sec : Nat) : Option ClockTick :=
  match dayOf d with
  | some day =>
      if dayInCentury day && decide (h < 24) && decide (m < 60) && decide (sec < 60) then
        some (day * ticksPerDay + ((h * 60 + m) * 60 + sec) * ticksPerSec)
      else none
  | none => none

/-- R40, R43: the value names the second now running, and the fraction is kept. -/
def keepsFraction (t : TimeBase) : Bool :=
  match t.cstate with
  | .locked => true
  | .free => false
  | .unset => t.absence.isSome

/-- R40, R41: the reading that a difference is measured on: the slew still remaining counts as part of it (log 22). -/
def countedReading (t : TimeBase) : Int := (t.clock : Int) + t.slew.getD 0

/-- R40, R43: the difference in clock units. The first set's, which R43 measures against the UNSET reading, is taken on that
reading's whole second while the absence timer runs, as in LOCKED, and on the full reading otherwise, as in FREE (log 22). -/
def timeDiff (t : TimeBase) (v : ClockTick) : Int :=
  if keepsFraction t then (v : Int) - countedReading t / ticksPerSec * ticksPerSec else (v : Int) - countedReading t

/-- R42, R43: the reading a step or the first set leaves. -/
def timeNew (t : TimeBase) (v : ClockTick) : ClockTick := if keepsFraction t then v + t.clock % ticksPerSec else v

/-- R42, R43: the reading moves at once. -/
def TimeBase.step (t : TimeBase) (v : ClockTick) : TimeBase :=
  { t with clock := timeNew t v, slew := none, lastStep := some (t.clock, timeNew t v),
           cstate := if t.cstate = .unset then (if t.absence.isSome then .locked else .free) else t.cstate }

/-- R42, R43: the CLOCK notice, the CLOCK-FREE report of a first set without pulse, the step event, and the minute that the
new reading lies on; R42 states no order of these notices, and they carry the new reading (R45, log 41). -/
def stepClock (v : ClockTick) (s : State) : State :=
  let s' := s.setTime fun t => t.step v
  let s' := s'.clockNotice (some (s.time.clock, s'.time.clock))
  let s' := if decide (s.time.cstate = .unset) && decide (s'.time.cstate = .free) then s'.onHall reportFree else s'
  let s' := s'.onHall engineStep
  if onMinute s'.time.clock then s'.minute else s'

/-- R40: magnitude under 2 s. -/
def slewable (d : Int) : Bool := decide (d.natAbs < 2 * ticksPerSec)

/-- R40 to R43. A difference of zero in FREE is a slew worked off at once (log 22). -/
def timeSet (d : DateForm) (h m sec : Nat) (s : State) : Ans :=
  named s (timeValue d h m sec) fun v =>
    let diff := timeDiff s.time v
    if s.time.cstate = .unset then (stepClock v s).ans .ok (.timeSet .set diff)
    else if diff = 0 ∧ s.time.cstate = .locked then s.ans .ok (.timeSet .unchanged 0)
    else if slewable diff then
      (s.setTime fun t => { t with slew := if diff = 0 then none else some diff }).ans .ok (.timeSet .slewed diff)
    else (stepClock v s).ans .ok (.timeSet .stepped diff)

def execTimeSet (tag : Nat) (d : DateForm) (h m sec : Nat) (s : State) : Result :=
  request (.timeSet tag d h m sec) tag .timeSet (timeSet d h m sec) s

/-- R45: tenths of a second of an offset in clock units, rounded toward zero (log 22). -/
def slewTenths (d : Int) : Int := d.tdiv (ticksPerSec / 10)

/-- R45: the slew remaining to a tenth of a second, and whole seconds since the last accepted pulse, rounded down (log 22). -/
def timeStatus (s : State) : Ans :=
  s.ans .ok (.timeStatus s.env.sec s.time.cstate (s.time.slew.map slewTenths) (s.time.lastPulse.map fun p => (s.time.now - p) / 1000)
    (s.time.lastStep.map fun p => (p.1 / ticksPerSec, p.2 / ticksPerSec)))

def execTimeStatus (tag : Nat) (s : State) : Result := request (.timeStatus tag) tag .timeStatus timeStatus s

/-- R37, R50. -/
def execMinuteEvent (s : State) : Result := .next (finish s.minute)

/-- R41: the slew remaining becomes absent when its offset is worked off. -/
def slewWorkedOff (s : State) : State :=
  if s.time.slew = some 0 then s.setTime fun t => { t with slew := none } else s

def execSlewWorkedOff (s : State) : Result := .next (finish (slewWorkedOff s))

/-- R39: the pulse-absence timer expires. -/
def pulseAbsence (s : State) : State :=
  if s.time.absence.any fun x => decide (x ≤ s.time.now) then
    let s' := s.setTime fun t => { t with absence := none, cstate := if t.cstate = .locked then .free else t.cstate }
    if s.time.cstate = .locked then (s'.clockNotice none).onHall reportFree else s'
  else s

def execPulseAbsenceTimeout (s : State) : Result := .next (finish (pulseAbsence s))

end Sys2Proof.Machine
end

