-- ==== Sys2Proof/Machine/EngineRequests.lean ====
section
/-! DEFINITION. Meanings of the Schedule Engine's requests and of the idle timer's expiry (R47 to R49, R56, R67, R74). -/

namespace Sys2Proof.Machine

def State.setTables (s : State) (f : Tables → Tables) : State := { s with tables := f s.tables }

/-- R47. -/
def engineSet (lead cool : Option Nat) (s : State) : Ans :=
  if withinOpt 60 1800 lead && withinOpt 0 240 cool then
    (s.setTables fun k => { k with lead := lead.getD k.lead, cool := cool.getD k.cool }).ok
  else s.refuse .range

def execEngineSet (tag : Nat) (lead cool : Option Nat) (s : State) : Result :=
  request (.engineSet tag lead cool) tag .engineSet (engineSet lead cool) s

/-- R48: every stack item and every deferral item is removed with an EXPIRED notice. -/
def expireAll (h : Hall) : Hall :=
  dropDeferral (fun _ => true) .expired (h.each allTx fun t h => dropStack t (fun _ => true) .expired h)

/-- R46: the hall mode changes, with its HALL notice (R216). -/
def setMode (m : HallMode) (c : HallCause) (h : Hall) : Hall := { h with mode := m }.note (.hall m c)

/-- R48, R33: what QUIESCE does. -/
def quiesceHall (e : Env) (h : Hall) : Hall :=
  let h := expireAll ((setMode .quiescent .quiesce h).each allTx (abortAsg e))
  recheckHead (h.each allTx cancelSeq)

/-- R48. -/
def quiesce (s : State) : Ans :=
  if s.hall.mode = .running then (s.onHall quiesceHall).ans .accepted .nothing else s.refuse .state

def execQuiesce (tag : Nat) (s : State) : Result := request (.quiesce tag) tag .quiesce quiesce s

/-- R49. -/
def resumeHall (e : Env) (h : Hall) : Hall := scan e (setMode .running .resume h)

/-- R49. -/
def resume (s : State) : Ans :=
  if s.hall.mode = .quiescent then (s.onHall resumeHall).ok else s.refuse .state

def execResume (tag : Nat) (s : State) : Result := request (.resume tag) tag .resume resume s

/-- R56, R69. -/
def assignmentStatus (t : Option Tx) (s : State) : Ans :=
  named s t fun t =>
    s.ans .ok (.assignment t ((s.hall.asg[t]).map fun a => ⟨a, madeOut s.hall t, claims s.hall t⟩) s.hall.stack[t])

def execAssignmentStatus (tag : Nat) (t : Option Tx) (s : State) : Result :=
  request (.assignmentStatus tag t) tag .assignmentStatus (assignmentStatus t) s

/-- R67. -/
def deferralList (s : State) : Ans := s.ans .ok (.deferral s.hall.deferral)

def execDeferralList (tag : Nat) (s : State) : Result := request (.deferralList tag) tag .deferralList deferralList s

/-- R74: a stack item or a deferral item names T. -/
def itemNames (h : Hall) (t : Tx) : Bool :=
  allTx.any (fun u => (h.stack[u]).any fun i => decide (i.item.tx = t)) || h.deferral.any fun i => decide (i.item.tx = t)

/-- R74: T's idle timer runs and has come to its end. -/
def idleDue (e : Env) (h : Hall) (t : Tx) : Bool :=
  match h.idle[t] with
  | .running x => decide (x ≤ e.now)
  | _ => false

/-- R74: expiry of T's idle timer. -/
def idleExpiry (t : Tx) (e : Env) (h : Hall) : Hall :=
  if !idleDue e h t then h
  else if itemNames h t then
    h.setIdle t (if e.k.cool = 0 then .spent else .running (e.now + e.k.cool * 60000))
  else handOrder e t .cool (h.setIdle t .spent)

def execIdleTimerExpiry (t : Tx) (s : State) : Result := happen s (idleExpiry t)

end Sys2Proof.Machine
end

