-- ==== Sys2Proof/Machine/Licence.lean ====
section
/-! DEFINITION. Meanings of the Frequency Check's requests (R77 to R83, R88, R89). -/

namespace Sys2Proof.Machine

/-- R78: the modes of a new range: all three when none are given; `none` for an empty list, an unknown name or a
repeat. -/
def exclusionModes : Option (List (Option Mode)) → Option (List Mode)
  | none => some [.full, .reduced, .digital]
  | some l =>
      if l.all Option.isSome && !l.isEmpty && decide l.Nodup then some (l.filterMap id) else none

/-- R78 step 1. -/
def exclusionOf (low high : Nat) (modes : Option (List (Option Mode))) : Option Exclusion :=
  match exclusionModes modes with
  | some ms =>
      if freqOk low && freqOk high && decide (low ≤ high) then
        some ⟨low, high, ms.contains .full, ms.contains .reduced, ms.contains .digital⟩
      else none
  | none => none

/-- R78. -/
def exclusionAdd (low high : Nat) (modes : Option (List (Option Mode))) (s : State) : Ans :=
  named s (exclusionOf low high modes) fun x =>
    if s.tables.lock then s.refuse .locked
    else if Config.maxExclusions ≤ s.tables.excl.length then s.refuse .full
    else
      ((s.setTables fun k => { k with excl := k.excl ++ [x] }).onHall sweep).ans .ok (.index s.tables.excl.length)

def execExclusionAdd (tag low high : Nat) (modes : Option (List (Option Mode))) (s : State) : Result :=
  request (.exclusionAdd tag low high modes) tag .exclusionAdd (exclusionAdd low high modes) s

/-- R79. -/
def exclusionDrop (index : Nat) (s : State) : Ans :=
  if !within 0 15 index then s.refuse .range
  else if s.tables.lock then s.refuse .locked
  else if s.tables.excl.length ≤ index then s.refuse .notFound
  else ((s.setTables fun k => { k with excl := k.excl.eraseIdx index }).onHall sweep).ok

def execExclusionDrop (tag index : Nat) (s : State) : Result :=
  request (.exclusionDrop tag index) tag .exclusionDrop (exclusionDrop index) s

/-- R81: an entry of a COMMITTED, ACTIVE or RETIRING bank satisfies `p`. -/
def runnableEntry (h : Hall) (p : Entry → Bool) : Bool :=
  allBanks.any fun n =>
    let b := h.banks[n]
    (decide (b.st = .committed) || decide (b.st = .active) || decide (b.st = .retiring)) && b.recs.any fun r => p r.entry

/-- R81: an output is in use. -/
def outInUse (h : Hall) (o : Out) : Bool :=
  decide (outState h o ≠ .free) || (reserver h o).isSome || runnableEntry h fun en => decide (en.out = o)

/-- R81: the record with the values given. -/
def outResult (d : OutDef) (low high rating throw : Option Nat) (slew : Option Bool) : OutDef :=
  { defined := true, low := low.getD d.low, high := high.getD d.high, rating := rating.getD d.rating,
    throw := throw.getD d.throw, slewable := slew.getD d.slewable }

/-- R81 step 1. -/
def outDefineOk (o : Out) (d : OutDef) (low high rating throw : Option Nat) (slew : Option Bool) : Bool :=
  let r := outResult d low high rating throw slew
  low.all freqOk && high.all freqOk && withinOpt 1 1000 rating && withinOpt 1 30 throw && decide (r.low ≤ r.high) &&
  !(isLoad o && (low.isSome || high.isSome || slew.isSome)) && (d.defined || rating.isSome)

/-- R80: the slewable antennas counted. -/
def slewableCount (k : Tables) : Nat := (allOut.filter fun o => (k.outs[o]).slewable).length

/-- R119: the lowest-numbered positioner line that no record holds; none when records that STORE-ERASE left to their slews
(R129) hold it. -/
def freeLine (h : Hall) : Option (Fin 8) :=
  (idxs 8).find? fun l => !allOut.any fun o => (h.path.pos[o]).any fun p => decide (p.line = l)

/-- R119: a new positioner record. -/
def Pos.fresh (l : Fin 8) : Pos :=
  { line := l, rate := 3, presets := tab 16 none, st := .parked none, az := none, read := false, job := none, gone := false }

/-- R119: a change of the slewable flag creates the record and begins its read, or removes the record. -/
def slewFlag (o : Out) (slewable : Bool) (e : Env) (h : Hall) : Hall :=
  if slewable then beginRead o false e.now (h.setPos o ((freeLine h).map Pos.fresh)) else h.setPos o none

/-- R81. A change of slewability also waits for the positioner's slew, and for a record that STORE-ERASE left to it (R119,
R129); without a free line the answer is that of the eight slewable antennas, FULL (R80, R119; both log 26). -/
def outputDefine (o : Option Out) (low high rating throw : Option Nat) (slew : Option Bool) (s : State) : Ans :=
  named s o fun o =>
    let d := s.tables.outs[o]
    let r := outResult d low high rating throw slew
    let change := decide (r.slewable ≠ d.slewable)
    if !outDefineOk o d low high rating throw slew then s.refuse .range
    else if s.tables.lock && (decide (r.low ≠ d.low) || decide (r.high ≠ d.high)) then s.refuse .locked
    else if change && (outInUse s.hall o || (slewSlot s.hall o).isSome || (s.hall.path.pos[o]).any Pos.gone) then
      s.refuse .state
    else if change && r.slewable && (decide (Config.maxSlewable ≤ slewableCount s.tables) || (freeLine s.hall).isNone) then s.refuse .full
    else
      let s := s.setTables fun k => { k with outs := upd k.outs o fun _ => r }
      let s := if change then s.onHall (slewFlag o r.slewable) else s
      (s.onHall sweep).ok

def execOutputDefine (tag : Nat) (o : Option Out) (low high rating throw : Option Nat) (slew : Option Bool) (s : State) :
    Result :=
  request (.outputDefine tag o low high rating throw slew) tag .outputDefine (outputDefine o low high rating throw slew) s

/-- R82. -/
def outputUndefine (o : Option Out) (s : State) : Ans :=
  named s o fun o =>
    if !(s.tables.outs[o]).defined then s.ok
    else if outInUse s.hall o then s.refuse .state
    else (s.setTables fun k => { k with outs := upd k.outs o fun d => { d with defined := false } }).ok

def execOutputUndefine (tag : Nat) (o : Option Out) (s : State) : Result :=
  request (.outputUndefine tag o) tag .outputUndefine (outputUndefine o) s

/-- R83. -/
def exclusionList (s : State) : Ans := s.ans .ok (.exclusions s.tables.excl s.tables.lock)

def execExclusionList (tag : Nat) (s : State) : Result := request (.exclusionList tag) tag .exclusionList exclusionList s

/-- R83. -/
def outputGet (o : Option Out) (s : State) : Ans := named s o fun o => s.ans .ok (.output o s.tables.outs[o])

def execOutputGet (tag : Nat) (o : Option Out) (s : State) : Result :=
  request (.outputGet tag o) tag .outputGet (outputGet o) s

/-- R88: the host's own check. A number not in its written form is `none`; a transmitter may be absent (outer `none`) or a
name outside the list (inner). The conventions give powers no range: 1 to 1000 kW is taken, the range of an entry's power
and of the ratings (R1, R80; log 37). -/
def checkRequest (freq : Option Nat) (mode : Option Mode) (o : Option Out) (power : Option Nat) (t : Option (Option Tx))
    (s : State) : Ans :=
  named s freq fun f =>
    named s mode fun m =>
      named s o fun o =>
        named s power fun p =>
          if !freqOk f || !within 1 1000 p || decide (t = some none) then s.refuse .range
          else s.ans .ok (.answer (check s.tables s.hall ⟨some f, some m, some o, some p, t.bind id⟩))

def execCheck (tag : Nat) (freq : Option Nat) (mode : Option Mode) (o : Option Out) (power : Option Nat)
    (t : Option (Option Tx)) (s : State) : Result :=
  request (.check tag freq mode o power t) tag .check (checkRequest freq mode o power t) s

/-- R89. -/
def licenceLock (s : State) : Ans := (s.setTables fun k => { k with lock := true }).ok

def execLicenceLock (tag : Nat) (s : State) : Result := request (.licenceLock tag) tag .licenceLock licenceLock s

end Sys2Proof.Machine
end

