-- ==== Sys2Proof/Machine/Text.lean ====
section
/-! DEFINITION. Written forms that more than one chapter needs: numbers, lists, names of transmitters, outputs and fault
sources, a record of FAULT-LIST, and how much of a list a line has room for (R204, R213; log 8, log 9). -/

namespace Sys2Proof.Machine

abbrev Text := List Char

/-! ### Written forms of values -/

def Text.of (s : String) : Text := s.toList
/-- R213: a decimal number without separators. -/
def dec (n : Nat) : Text := Nat.toDigits 10 n
/-- A decimal number of at least `w` digits. -/
def decW (w n : Nat) : Text := List.replicate (w - (dec n).length) '0' ++ dec n
/-- Pieces with a character between them. -/
def joinWith (c : Char) (l : List Text) : Text := List.intercalate [c] l
/-- R213: a list value. -/
def listText (l : List Text) : Text := joinWith ',' l
/-- The parts of one item of a list (13: the STACK field of an assignment). -/
def itemText (l : List Text) : Text := joinWith ';' l
/-- An item's part that may be absent: a dash. -/
def dash (x : Option Text) : Text := x.getD ['-']
def yn (b : Bool) : Text := [if b then 'Y' else 'N']
/-- The name of a value in a list of names. -/
def nameFor {α : Type} [DecidableEq α] (t : List (String × α)) (a : α) : Text :=
  (((t.find? fun p => decide (p.2 = a)).map Prod.fst).getD "").toList

def txText (t : Tx) : Text := 'T' :: dec (t.val + 1)
def outText (o : Out) : Text := if o.val < 24 then 'A' :: dec (o.val + 1) else 'L' :: dec (o.val - 23)

def faultNames : List (String × FaultKind) :=
  [("LOCKOUT", .lockout), ("HOT-SWITCH", .hotSwitch), ("MATRIX-UNKNOWN", .matrixUnknown),
   ("POSITIONER-STALL", .positionerStall), ("ANTENNA-SUSPECT", .antennaSuspect), ("TRIP", .trip), ("TUNE-FAIL", .tuneFail),
   ("TUNE-TIMEOUT", .tuneTimeout), ("RAISE-TIMEOUT", .raiseTimeout), ("LOWER-TIMEOUT", .lowerTimeout)] ++
  [("WARM-TIMEOUT", .warmTimeout), ("ORDER-DECLINED", .orderDeclined), ("UNREACHABLE", .unreachable),
   ("LOCAL-TAKEOVER", .localTakeover), ("RF-UNEXPECTED", .rfUnexpected), ("FOREIGN-CARRIER", .foreignCarrier),
   ("EXCLUDED-AT-ADMISSION", .excludedAtAdmission), ("SCHEDULE-SKIP", .scheduleSkip), ("CLOCK-FREE", .clockFree)]

def sourceText : FaultSource → Text
  | .tx t => txText t
  | .out o => outText o
  | .timebase => Text.of "TIMEBASE"
  | .schedule => Text.of "SCHEDULE"

/-- R204: a record as FAULT-LIST writes it. -/
def FaultView.text (r : FaultView) : Text :=
  itemText [dec r.seq, nameFor faultNames r.kind, sourceText r.src, yn r.blocking, dec r.count]

/-- The first items of a list whose texts, each with a separator, have room. -/
def fitItems {α : Type} (f : α → Text) : Nat → List α → List α
  | _, [] => []
  | room, a :: l =>
      let n := (f a).length + 1
      if n ≤ room then a :: fitItems f (room - n) l else []

end Sys2Proof.Machine
end

