-- ==== Sys2Proof/Machine/FaultClear.lean ====
section
/-! DEFINITION. Meanings of the Fault Table's requests, and the release of what a blocking record holds (R200 to R204). -/

namespace Sys2Proof.Machine

def findFault (h : Hall) (seq : Nat) : Option FaultRec := h.faults.recs.find? fun r => decide (r.seq = seq)

/-- R201 step 2. -/
def removeFault (seq : Nat) (h : Hall) : Hall :=
  { h with faults := { h.faults with recs := h.faults.recs.filter fun (r : FaultRec) => decide (r.seq ≠ seq) } }

/-- R201 step 3: a crosspoint of the column still UNKNOWN. -/
def heldXpt (e : Env) (o : Out) (t : Tx) (h : Hall) : Hall :=
  if xst h t o = .unknown then reportOut e .matrixUnknown o (.matrix .held (some (t, o))) h else h

/-- A STALLED positioner of the output. -/
def posStalled (h : Hall) (o : Out) : Bool := (h.path.pos[o]).any fun p => decide (p.st = .stalled)

/-- R201 step 3: the causes still present on an output. -/
def heldCauses (e : Env) (o : Out) (h : Hall) : Hall :=
  let h := h.each allTx (heldXpt e o)
  if posStalled h o then reportOut e .positionerStall o (.stall .held) h else h

/-- The record of a blocking kind that names a resource and was created first. -/
def nextBlock (h : Hall) (s : FaultSource) : Option FaultRec :=
  h.faults.recs.find? fun r => r.kind.canBlock && decide (r.src = s)

/-- R201 step 4. -/
def carryBlock (s : FaultSource) (h : Hall) : Hall :=
  if blocked h s then h
  else
    match nextBlock h s with
    | none => h
    | some f =>
        let g := { f with blocking := true }
        { h with faults := { h.faults with recs := h.faults.recs.map fun (x : FaultRec) => if x.seq = f.seq then g else x } }.note
          (.fault g .blocking)

/-- R201 steps 2 to 5 for an output; R97. A release starts an allocation run (R71). -/
def clearOut (e : Env) (seq : Nat) (o : Out) (h : Hall) : Hall :=
  let h := carryBlock (.out o) (heldCauses e o (removeFault seq h))
  if blocked h (.out o) then h else h.wantAlloc

/-- The output's state once its record is removed, for the notices of the release, which come before it (log 20). -/
def stateCleared (seq : Nat) (o : Out) (h : Hall) : OutState :=
  let g := removeFault seq h
  if (nextBlock g (.out o)).isSome || allTx.any (fun t => decide (xst h t o = .unknown)) ||
      posStalled h o then .faulted
  else outState g o

/-- R202: the state a transmitter released from LOCKOUT goes to. Contact not made comes before undefine pending; one lost while in
LOCKOUT counts as in contact (log 54). -/
def leaveLockout (e : Env) (t : Tx) (h : Hall) : Hall :=
  let r := h.tx[t]
  if !r.contact || r.cond.isNone then
    setTxState t .unreachable .trip (h.setTx t fun r => { r with before := none })
  else if r.undef then goAbsent t .trip h
  else rederive e t none .trip h

/-- R202: release of a transmitter, which starts an allocation run (R71). -/
def releaseTx (e : Env) (t : Tx) (h : Hall) : Hall :=
  (leaveLockout e t ((emptyWindow t h).setTx t fun r => { r with rcv := Recovery.idle })).wantAlloc

/-- R201, R202: the clear of a transmitter's blocking record. -/
def clearTx (e : Env) (seq : Nat) (t : Tx) (h : Hall) : Hall :=
  let h := carryBlock (.tx t) (removeFault seq h)
  if blocked h (.tx t) then h else releaseTx e t h

/-- The reply of a FAULT-CLEAR whose read has ended. -/
def answerClear (c : Clear) (st : Status) (h : Hall) : Hall :=
  { h with clear := none }.say ⟨c.tag, some .faultClear, st, .nothing⟩

/-- R201: the owner releases output O at the end of its read. -/
def clearGranted (e : Env) (c : Clear) (h : Hall) : Hall := answerClear c .ok (clearOut e c.seq c.out h)

/-- The FAULT-CLEAR that waits on a read of output O for records of a kind. -/
def clearFor (h : Hall) (k : FaultKind) (o : Out) : Option Clear :=
  h.clear.filter fun c => decide (c.kind = k) && decide (c.out = o)

/-- R203: the clear of an output's blocking record: asked of the Path Controller. A read of the positioner that is already in
progress is given up for the clear's own (R128, log 38). -/
def askRelease (e : Env) (tag : Nat) (r : FaultRec) (o : Out) (h : Hall) : Hall :=
  let c : Clear := ⟨tag, r.seq, r.kind, o⟩
  match r.kind with
  | .matrixUnknown => { h with clear := some c }.setCol o fun x => { x with clear := some ⟨0, none⟩ }
  | .positionerStall =>
      if (h.path.pos[o]).isNone then clearGranted e c h else beginRead o true e.now { h with clear := some c }
  | _ => clearGranted e c h

/-- R200, R201: the clear of a record that the table holds. -/
def clearRecord (e : Env) (tag : Nat) (r : FaultRec) (h : Hall) : Hall :=
  let done (h : Hall) : Hall := h.say ⟨tag, some .faultClear, .ok, .nothing⟩
  if !r.blocking then done (removeFault r.seq h)
  else
    match r.src with
    | .tx t => done (clearTx e r.seq t h)
    | .out o => askRelease e tag r o h
    | _ => done (removeFault r.seq h)

/-- R200. -/
def faultClear (tag seq : Nat) (s : State) : State :=
  if !within 1 65535 seq then s.say tag (some .faultClear) .range .nothing
  else
    match findFault s.hall seq with
    | none => s.say tag (some .faultClear) .notFound .nothing
    | some r => s.onHall fun e h => clearRecord e tag r h

def execFaultClear (tag seq : Nat) (s : State) : Result :=
  .next (finish (s.taking (.faultClear tag seq) tag .faultClear (faultClear tag seq)))

/-- R204: the records from the one given, or from the start for 0. -/
def faultPage (first : Nat) (l : List FaultRec) : Option (List FaultRec) :=
  if first = 0 then some l
  else
    let from_ := l.dropWhile fun r => decide (r.seq ≠ first)
    if from_.isEmpty then none else some from_

/-- R204: a record as FAULT-LIST gives it. -/
def FaultRec.view (r : FaultRec) : FaultView := ⟨r.seq, r.kind, r.src, r.blocking, r.count⟩

/-- Characters for the records in FAULT-LIST's longest line: 480 less those of the other pieces. -/
def faultRoom : Nat := 400

/-- R204, R213: the records of one reply: up to 16, as many as its line has room for. -/
def faultsListed (l : List FaultRec) : List FaultRec := fitItems (fun r => r.view.text) (faultRoom + 1) (l.take 16)

/-- R204. -/
def faultList (first : Nat) (s : State) : Ans :=
  let f := s.hall.faults
  match faultPage first f.recs with
  | none => s.refuse .notFound
  | some l =>
      let shown := faultsListed l
      s.ans .ok (.faults f.recs.length f.overflow f.next (shown.map FaultRec.view) ((l.drop shown.length).head?.map FaultRec.seq))

def execFaultList (tag first : Nat) (s : State) : Result := request (.faultList tag first) tag .faultList (faultList first) s

/-- R204. -/
def faultGet (seq : Nat) (s : State) : Ans :=
  match findFault s.hall seq with
  | none => s.refuse .notFound
  | some r => s.ans .ok (.fault r)

def execFaultGet (tag seq : Nat) (s : State) : Result := request (.faultGet tag seq) tag .faultGet (faultGet seq) s

/-- R204. -/
def faultClearOverflow (s : State) : Ans :=
  ({ s with hall := { s.hall with faults := { s.hall.faults with overflow := false } } }).ok

def execFaultClearOverflow (tag : Nat) (s : State) : Result :=
  request (.faultClearOverflow tag) tag .faultClearOverflow faultClearOverflow s

end Sys2Proof.Machine
end

