-- ==== Sys2Proof/Machine/Matrix.lean ====
section
/-! DEFINITION. Meanings of the antenna matrix's events and requests (R92 to R95, R99, R100, R114, R115). -/

namespace Sys2Proof.Machine

/-- R92. -/
inductive Reading where | made | broken | disagreeing
deriving DecidableEq, Repr

/-- R92. -/
def readPair (c : Contacts) : Reading :=
  match c.made, c.broken with
  | true, false => .made
  | false, true => .broken
  | _, _ => .disagreeing

/-- R92: a report's pairs become the column's last indications. -/
def storeReport (o : Out) (rows : Vector Contacts 12) (h : Hall) : Hall :=
  h.each allTx fun (t : Tx) (h : Hall) => h.setXpt t o fun x => { x with ind := some rows[t] }

/-- The throw of crosspoint T/O that holds a slot and is not hot. -/
def throwOf (h : Hall) (t : Tx) (o : Out) : Option Slot :=
  (slotList h).find? fun s => !s.hot && (decide (s.motion.kind = .make t o) || decide (s.motion.kind = .brk t o))

/-- The slots of a motion are released. -/
def freeMotion (p : MotionKind → Bool) (h : Hall) : Hall :=
  h.mapSlots fun s => if p s.motion.kind then none else some s

/-- A throw of crosspoint T/O. -/
def isThrow (t : Tx) (o : Out) (k : MotionKind) : Bool := decide (k = .make t o) || decide (k = .brk t o)

/-- T has a crosspoint other than OPEN in another column. -/
def rowElsewhere (h : Hall) (t : Tx) (o : Out) : Bool :=
  allOut.any fun p => decide (p ≠ o) && decide (xst h t p ≠ .opened)

/-- R99: one row of a report as throw progress. -/
def progressRow (o : Out) (rows : Vector Contacts 12) (t : Tx) (h : Hall) : Hall :=
  match throwOf h t o with
  | none => h
  | some s =>
    match s.motion.kind, readPair rows[t] with
    | .make _ _, .made => xptChange t o .closed .throw false (freeMotion (isThrow t o) h)
    | .brk _ _, .broken => xptChange t o .opened .throw false (freeMotion (isThrow t o) h)
    | _, _ => h

/-- R99. -/
def progress (o : Out) (rows : Vector Contacts 12) (h : Hall) : Hall := h.each allTx (progressRow o rows)

/-- R94: a row that would be CLOSED or UNKNOWN is set OPEN instead: the column holds another crosspoint other than OPEN, but
for a CLOSED one of a later row that is still to be read (`read`), or the row's transmitter is switched elsewhere (log 29). -/
def readConflict (h : Hall) (read : List Tx) (o : Out) (t : Tx) : Bool :=
  allTx.any (fun u => decide (u ≠ t) && decide (xst h u o ≠ .opened) &&
    !(decide (xst h u o = .closed) && decide (t < u) && read.contains u)) || rowElsewhere h t o

/-- R94: one row of a read result, which reads the rows of `read`. An UNKNOWN crosspoint and a moving one are passed over. -/
def readRow (e : Env) (read : List Tx) (o : Out) (rows : Vector Contacts 12) (t : Tx) (h : Hall) : Hall :=
  let st := xst h t o
  if st ≠ .opened && st ≠ .closed then h
  else
    match readPair rows[t] with
    | .broken => xptChange t o .opened .read false h
    | r =>
      if readConflict h read o t then
        reportOut e .matrixUnknown o (.matrix .conflict (some (t, o))) (xptChange t o .opened .read true h)
      else if r = .made then xptChange t o .closed .read false h
      else reportOut e .matrixUnknown o (.matrix .read (some (t, o))) (xptChange t o .unknown .read true h)

/-- R94: a read result; throws of the column make progress by it (log 29). The rows progress covers are not read. -/
def readResult (e : Env) (o : Out) (rows : Vector Contacts 12) (h : Hall) : Hall :=
  let still := allTx.filter fun t => (throwOf h t o).isNone
  let h := (progress o rows h).each still (readRow e still o rows)
  h.setCol o fun c => { c with read := true, adopt := none }

/-- R95: the row disagrees with its record. -/
def disagrees (st : XState) (r : Reading) : Bool :=
  match st, r with
  | .closed, .made | .opened, .broken => false
  | .closed, _ | .opened, _ => true
  | _, _ => false

/-- R95: T/O set UNKNOWN lies in the row or the target column of U's sequence. -/
def seqHolds (h : Hall) (t : Tx) (o : Out) (u : Tx) : Bool :=
  (h.path.seqs[u]).target.any fun g => decide (u = t) || decide (g.out = o)

/-- R95: a crosspoint set UNKNOWN at rest is handed on: the assignment whose made output it was fails (R111), a contact
lost under RF is a hot switch (R173), and the sequences that hold it fail (R111). -/
def restHanded (e : Env) (o : Out) (t : Tx) (wasMade : Bool) (h : Hall) : Hall :=
  let h := if wasMade && (h.asg[t]).isSome then failSeq e t h else h
  let h := if isRad (h.tx[t]).st || rfpActive e h t then hotSwitch e t true h else h
  h.each allTx fun u h => if seqHolds h t o u then failSeq e u h else h

/-- R95: one row of a report at rest. -/
def restRow (e : Env) (o : Out) (rows : Vector Contacts 12) (t : Tx) (h : Hall) : Hall :=
  let st := xst h t o
  if !disagrees st (readPair rows[t]) then h
  else if st = .opened && (rowElsewhere h t o || allTx.any fun u => decide (u ≠ t) && decide (xst h u o ≠ .opened)) then
    reportOut e .matrixUnknown o (.matrix .conflict (some (t, o))) h
  else
    restHanded e o t (decide (madeOut h t = some o))
      (reportOut e .matrixUnknown o (.matrix .rest (some (t, o))) (xptChange t o .unknown .rest true h))

/-- R92: neither a read result: throw progress, and a report at rest for the rest of the column, in that order (log 20). -/
def restReport (e : Env) (o : Out) (rows : Vector Contacts 12) (h : Hall) : Hall :=
  let still := allTx.filter fun t => (throwOf h t o).isNone
  (progress o rows h).each still (restRow e o rows)

/-- R115: the report is consistent. -/
def consistent (h : Hall) (o : Out) (rows : Vector Contacts 12) : Bool :=
  let made := allTx.filter fun t => decide (readPair rows[t] = .made)
  allTx.all (fun t => decide (readPair rows[t] ≠ .disagreeing)) && decide (made.length ≤ 1) &&
  made.all fun t => !rowElsewhere h t o

/-- R115: one row of a consistent read. A throw of the crosspoint is over with it, but for a BREAK that the report still shows
made, which goes on holding its slot (log 29). -/
def clearRow (seq : Nat) (o : Out) (rows : Vector Contacts 12) (t : Tx) (h : Hall) : Hall :=
  let made := decide (readPair rows[t] = .made)
  let ends (s : Slot) : Bool := isThrow t o s.motion.kind && !s.hot && !(made && decide (s.motion.kind = .brk t o))
  (xptChangeTo t o (if made then .closed else .opened) .clear (stateCleared seq o) h).mapSlots fun s =>
    if ends s then none else some s

/-- R115: the rows of a consistent read, in their order: each row's notice gives the output's state as it is with that row
written and the later ones still as before (R113, log 20). -/
def clearRows (seq : Nat) (o : Out) (rows : Vector Contacts 12) (h : Hall) : Hall := h.each allTx (clearRow seq o rows)

/-- R115: the read of a fault clear ends with a report. -/
def clearRead (e : Env) (o : Out) (rows : Vector Contacts 12) (h : Hall) : Hall :=
  let ok := consistent h o rows
  let h := h.setCol o fun c => { c with clear := none }
  match clearFor h .matrixUnknown o with
  | none => h
  | some c => if ok then clearGranted e c (clearRows c.seq o rows h) else answerClear c .state h

/-- A READ of the column is outstanding. -/
def ColJob.isOut (j : Option ColJob) : Bool := j.any fun x => x.deadline.isSome

/-- R92: a column report, taken in one of three ways. -/
def columnReport (o : Out) (rows : Vector Contacts 12) (e : Env) (h : Hall) : Hall :=
  let c := h.path.cols[o]
  let h := storeReport o rows h
  if ColJob.isOut c.adopt then readResult e o rows h
  else if ColJob.isOut c.clear then clearRead e o rows h
  else restReport e o rows h

def execColumnReport (o : Out) (rows : Vector Contacts 12) (s : State) : Result := happen s (columnReport o rows)

/-- R93: the reply limit of a READ has passed. -/
def ColJob.late (j : Option ColJob) (now : Ms) : Option ColJob :=
  j.filter fun x => x.deadline.any fun d => decide (d ≤ now)

/-- R93: the column is taken as silent at adoption. -/
def silentColumn (e : Env) (o : Out) (h : Hall) : Hall :=
  (reportOut e .matrixUnknown o (.matrix .silent none) h).setCol o fun c => { c with read := true, adopt := none }

/-- R115: the column is taken as silent at a fault clear. -/
def silentClear (o : Out) (h : Hall) : Hall :=
  let h := h.setCol o fun c => { c with clear := none }
  match clearFor h .matrixUnknown o with
  | some c => answerClear c .state h
  | none => h

/-- R93: a READ goes unanswered: sent again, or the column is silent after three. -/
def readTimeout (o : Out) (e : Env) (h : Hall) : Hall :=
  match ColJob.late (h.path.cols[o]).adopt e.now, ColJob.late (h.path.cols[o]).clear e.now with
  | some j, _ =>
      if 3 ≤ j.misses + 1 then silentColumn e o h
      else h.setCol o fun c => { c with adopt := some ⟨j.misses + 1, none⟩ }
  | none, some j =>
      if 3 ≤ j.misses + 1 then silentClear o h
      else h.setCol o fun c => { c with clear := some ⟨j.misses + 1, none⟩ }
  | none, none => h

def execReadTimeout (o : Out) (s : State) : Result := happen s (readTimeout o)

/-- The slot that a throw of crosspoint T/O holds, once its timeout has passed. -/
def lateThrow (e : Env) (h : Hall) (t : Tx) (o : Out) : Option Slot :=
  (slotList h).find? fun s => isThrow t o s.motion.kind && decide (s.start + s.timeout ≤ e.now)

/-- R100, R112. A BREAK that a fault clear's read left in its slot, its crosspoint CLOSED, fails so too (log 29). -/
def throwTimeout (t : Tx) (o : Out) (e : Env) (h : Hall) : Hall :=
  match lateThrow e h t o with
  | none => h
  | some s =>
    let h := freeMotion (isThrow t o) h
    if s.hot then h
    else
      let h := reportOut e .matrixUnknown o (.matrix .timeout (some (t, o))) (xptChange t o .unknown .timeout true h)
      h.each s.motion.waiters (waiterFails e)

def execThrowTimeout (t : Tx) (o : Out) (s : State) : Result := happen s (throwTimeout t o)

/-- R114. -/
def matrixOutBody (h : Hall) (o : Out) : ReplyBody :=
  .matrixOut o (outState h o) (feeder h o) h.path.owner[o] (reserver h o) (h.path.cols[o]).read h.path.xpt[o]

/-- R114. -/
def matrixTxBody (h : Hall) (t : Tx) : ReplyBody :=
  .matrixTx t (allOut.map (xst h t)) h.path.seqs[t] (grantedOf h t ++ queuedOf h t)
    (decide ((h.tx[t]).permit = .granted)) (decide ((h.tx[t]).permit = .requested))

/-- R114. -/
def matrixStatus (subject : Option MatrixSubject) (s : State) : Ans :=
  named s subject fun x =>
    match x with
    | .out o => s.ans .ok (matrixOutBody s.hall o)
    | .tx t => s.ans .ok (matrixTxBody s.hall t)

def execMatrixStatus (tag : Nat) (subject : Option MatrixSubject) (s : State) : Result :=
  request (.matrixStatus tag subject) tag .matrixStatus (matrixStatus subject) s

/-- R114: the four slots, with the elapsed time in whole seconds (log 22). -/
def slotViews (h : Hall) (now : Ms) : List (Option SlotView) :=
  h.path.slots.toList.map fun x => x.map fun (s : Slot) =>
    (⟨s.motion.kind, motionClass h s.motion, s.motion.waiters.head?, (now - s.start) / 1000⟩ : SlotView)

/-- R114: the queue, class descending, then arrival. -/
def queueViews (h : Hall) : List QueueView :=
  (sortBy (fun (a b : Motion) => decide (motionClass h b < motionClass h a)) h.path.queue).map fun (m : Motion) =>
    (⟨m.kind, motionClass h m, m.arrival, m.waiters.head?, eligible h m⟩ : QueueView)

/-- R114. -/
def motionList (s : State) : Ans := s.ans .ok (.motions (slotViews s.hall s.time.now) (queueViews s.hall))

def execMotionList (tag : Nat) (s : State) : Result := request (.motionList tag) tag .motionList motionList s

end Sys2Proof.Machine
end

