-- ==== Sys2Proof/Machine/Positioners.lean ====
section
/-! DEFINITION. Meanings of the antenna positioners' requests and events (R119 to R130). -/

namespace Sys2Proof.Machine

/-- R120: the record of the antenna a request names; NOT-FOUND without one. -/
def withPos (o : Option Out) (s : State) (f : Out → Pos → Ans) : Ans :=
  named s o fun o =>
    match s.hall.path.pos[o] with
    | none => s.refuse .notFound
    | some p => f o p

/-- R120: the antenna whose record holds a line. -/
def lineHolder (h : Hall) (l : Fin 8) : Option Out := allOut.find? fun o => (h.path.pos[o]).any fun p => decide (p.line = l)

/-- R120: lines 1 to 8, counted from 0. -/
def lineOf (n : Nat) : Option (Fin 8) := if h : 1 ≤ n ∧ n ≤ 8 then some ⟨n - 1, by omega⟩ else none

/-- R120: the new line of a POSITIONER-SET, when it differs from the one held. -/
def newLine (p : Pos) (line : Option Nat) : Option (Fin 8) := (line.bind lineOf).filter fun l => decide (l ≠ p.line)

/-- R120, R122: a new line makes the record unread and begins its read. -/
def moveLine (o : Out) (l : Option (Fin 8)) (e : Env) (h : Hall) : Hall :=
  match l with
  | some l => beginRead o false e.now (h.mapPos o fun p => { p with line := l, read := false })
  | none => h

/-- R120. -/
def positionerSet (o : Option Out) (line rate : Option Nat) (s : State) : Ans :=
  withPos o s fun o p =>
    if !(withinOpt 1 8 line && withinOpt 1 12 rate) then s.refuse .range
    else
      let l := newLine p line
      match (l.bind (lineHolder s.hall)).filter fun u => decide (u ≠ o) with
      | some u => s.ans .conflict (.otherOut u)
      | none =>
        if l.isSome && ((slewSlot s.hall o).isSome || p.job.isSome) then s.refuse .state
        else (s.onHall fun e h => moveLine o l e (h.mapPos o fun p => { p with rate := rate.getD p.rate })).ok

def execPositionerSet (tag : Nat) (o : Option Out) (line rate : Option Nat) (s : State) : Result :=
  request (.positionerSet tag o line rate) tag .positionerSet (positionerSet o line rate) s

/-- R120: a path sequence's target, or the target it keeps for later, names the output with the preset. -/
def presetTargeted (h : Hall) (o : Out) (n : Nat) : Bool :=
  allTx.any fun t =>
    let s := h.path.seqs[t]
    s.target.any (fun g => decide (g.out = o) && decide (g.preset = some n)) ||
    s.next.any fun g => decide (g.out = o) && decide (g.preset = some n)

/-- R120: the preset may not be edited now. -/
def presetHeld (h : Hall) (o : Out) (p : Pos) (n : Nat) : Bool :=
  decide (p.st = .parked (some n)) || decide (p.st = .slewing n) || presetTargeted h o n ||
  h.path.queue.any fun m => decide (m.kind = .slew o n)

/-- R120: one preset replaced. -/
def Pos.setPreset (p : Pos) (n : Nat) (az : Option Nat) : Pos :=
  if hn : n < 16 then { p with presets := p.presets.set n az } else p

/-- R120: an absent azimuth is UNDEFINED. -/
def presetSet (o : Option Out) (n : Nat) (az : Option Nat) (s : State) : Ans :=
  withPos o s fun o p =>
    if !(within 0 15 n && withinOpt 0 359 az) then s.refuse .range
    else if presetHeld s.hall o p n then s.refuse .state
    else (s.onHall fun _ h => h.mapPos o fun p => p.setPreset n az).ok

def execPresetSet (tag : Nat) (o : Option Out) (n : Nat) (az : Option Nat) (s : State) : Result :=
  request (.presetSet tag o n az) tag .presetSet (presetSet o n az) s

/-- R130: the slew's elapsed time and timeout in whole seconds (log 22). -/
def positionerStatus (o : Option Out) (s : State) : Ans :=
  withPos o s fun o p =>
    s.ans .ok (.positioner o p ((slewSlot s.hall o).map fun x => ((s.time.now - x.start) / 1000, x.timeout / 1000)))

def execPositionerStatus (tag : Nat) (o : Option Out) (s : State) : Result :=
  request (.positionerStatus tag o) tag .positionerStatus (positionerStatus o) s

/-! ### Ends of reads -/

/-- R122: the lowest-numbered defined preset at an azimuth. -/
def Pos.presetAt (p : Pos) (az : Nat) : Option Nat := (List.range 16).find? fun n => decide (p.preset n = some az)

/-- R122: the read ends; the record is read. -/
def readDone (o : Out) (h : Hall) : Hall := h.mapPos o fun p => { p with job := none, read := true }

/-- R130: a read's change of state, without a notice when nothing changes. -/
def readState (o : Out) (old new : PosState) (fault : Bool) (h : Hall) : Hall :=
  if old = new then h else posChange o new .read fault h

/-- R122, R128: a read ends at rest. One that a line change began takes a STALLED positioner to PARKED; its stall record stands
(log 40). -/
def readRest (e : Env) (o : Out) (p : Pos) (clear : Bool) (az : Nat) (h : Hall) : Hall :=
  let n := p.presetAt az
  let h := readDone o h
  if !clear then readState o p.st (.parked n) false h
  else
    match clearFor h .positionerStall o with
    | none => h
    | some c =>
        if n.isSome then clearGranted e c (posChangeTo o (.parked n) .clear
          (fun h => stateCleared c.seq o (h.mapPos o fun p => { p with st := .parked n })) h)
        else answerClear c .state h

/-- R122, R126, R128: a read ends as a stall. -/
def readStalled (e : Env) (o : Out) (p : Pos) (clear : Bool) (w : StallWord) (h : Hall) : Hall :=
  let h := readDone o h
  if !clear then reportOut e .positionerStall o (.stall w) (readState o p.st .stalled true h)
  else
    match clearFor h .positionerStall o with
    | none => h
    | some c => answerClear c .state h

/-! ### Ends of slews -/

def isSlewOf (o : Out) (k : MotionKind) : Bool := k.isSlew && decide (k.out = o)

/-- R129: a record that STORE-ERASE left to its slew is removed when the slew ends; a clear that waits on it is then
answered (R128). -/
def slewEnded (e : Env) (o : Out) (h : Hall) : Hall :=
  if (h.path.pos[o]).any Pos.gone then
    let h := h.setPos o none
    match clearFor h .positionerStall o with
    | some c => clearGranted e c h
    | none => h
  else h

/-- R125. -/
def slewComplete (e : Env) (o : Out) (n : Nat) (h : Hall) : Hall :=
  slewEnded e o (posChange o (.parked (some n)) .slew false (freeMotion (isSlewOf o) h))

/-- R125, R126: a slew stalls. -/
def slewStalls (e : Env) (o : Out) (waiters : List Tx) (w : StallWord) (c : PosCause) (h : Hall) : Hall :=
  let h := reportOut e .positionerStall o (.stall w) (posChange o .stalled c true (freeMotion (isSlewOf o) h))
  slewEnded e o (h.each waiters (waiterFails e))

/-! ### Events -/

/-- The azimuth a report carries. -/
def reportAz : DriveReport → Nat
  | .atRest a | .moving a | .atTarget a => a

/-- R122: a read result. An AT-TARGET answers no QUERY. The 2 s to the next QUERY of a MOVING unit run from its report (log 40). -/
def queryAnswer (e : Env) (o : Out) (p : Pos) (j : PosJob) (r : DriveReport) (h : Hall) : Hall :=
  match r with
  | .atRest a => readRest e o p j.clear a h
  | .moving _ => h.mapPos o fun p => { p with job := some { j with query := none, misses := 0, again := some (e.now + Config.readMs) } }
  | .atTarget _ => h

/-- R125: an AT-TARGET while a slew holds a slot; after a hot switch it changes nothing else (R127). -/
def slewAnswer (e : Env) (o : Out) (p : Pos) (s : Slot) (r : DriveReport) (h : Hall) : Hall :=
  match r, s.motion.kind with
  | .atTarget a, .slew _ n =>
      if s.hot then h
      else if p.preset n = some a then slewComplete e o n h
      else slewStalls e o s.motion.waiters .stopped .stopped h
  | _, _ => h

/-- R121: a report on a positioner line. -/
def positionerReport (line : Fin 8) (r : DriveReport) (e : Env) (h : Hall) : Hall :=
  match lineHolder h line with
  | none => h
  | some o =>
    match h.path.pos[o] with
    | none => h
    | some p =>
      let h := h.mapPos o fun p => { p with az := some (reportAz r) }
      match p.job.filter fun j => j.query.isSome, slewSlot h o with
      | some j, _ => queryAnswer e o p j r h
      | none, some s => slewAnswer e o p s r h
      | none, none => h

def execPositionerReport (line : Fin 8) (r : DriveReport) (s : State) : Result := happen s (positionerReport line r)

/-- A time of the read in progress has come. -/
def dueJob (h : Hall) (o : Out) (due : Pos → PosJob → Bool) : Option (Pos × PosJob) :=
  (h.path.pos[o]).bind fun p => (p.job.filter fun j => due p j).map fun j => (p, j)

def reached (now : Ms) (t : Option Ms) : Bool := t.any fun x => decide (x ≤ now)

/-- R121: a QUERY goes unanswered: sent again, or the drive unit is silent after three. -/
def queryTimeout (o : Out) (e : Env) (h : Hall) : Hall :=
  match dueJob h o fun _ j => reached e.now j.query with
  | none => h
  | some (p, j) =>
      if 3 ≤ j.misses + 1 then readStalled e o p j.clear .silent h
      else h.mapPos o fun p => { p with job := some { j with misses := j.misses + 1, query := none } }

def execQueryTimeout (o : Out) (s : State) : Result := happen s (queryTimeout o)

/-- R122: QUERY is sent again to a MOVING unit. -/
def queryRepeat (o : Out) (e : Env) (h : Hall) : Hall :=
  match dueJob h o fun _ j => reached e.now j.again with
  | none => h
  | some (p, j) =>
      (h.mapPos o fun p => { p with job := some { j with again := none, query := some (e.now + Config.readMs) } }).setDrvCmd
        p.line .query

def execQueryRepeat (o : Out) (s : State) : Result := happen s (queryRepeat o)

/-- R122: the full-travel time in ms, at the rate held when it is tested (log 40). -/
def fullTravel (p : Pos) : Ms := (ceilDiv 359 p.rate + 20) * 1000

/-- R122: the full-travel time has passed since the read began, with the unit still MOVING; a QUERY that is still unanswered is
not waited for (log 40). -/
def readFullTravelTimeout (o : Out) (e : Env) (h : Hall) : Hall :=
  match dueJob h o fun p j => (j.query.isSome || j.again.isSome) && decide (j.began + fullTravel p ≤ e.now) with
  | none => h
  | some (p, j) => readStalled e o p j.clear .read h

def execReadFullTravelTimeout (o : Out) (s : State) : Result := happen s (readFullTravelTimeout o)

/-- R126, R127: a slew's timeout has passed. -/
def slewTimeout (o : Out) (e : Env) (h : Hall) : Hall :=
  match (slewSlot h o).filter fun s => decide (s.start + s.timeout ≤ e.now) with
  | none => h
  | some s =>
      if s.hot then slewEnded e o (freeMotion (isSlewOf o) h)
      else slewStalls e o s.motion.waiters .timeout .timeout h

def execSlewTimeout (o : Out) (s : State) : Result := happen s (slewTimeout o)

end Sys2Proof.Machine
end

