-- ==== Sys2Proof/Machine/Cabinets.lean ====
section
/-! DEFINITION. Meanings of the cabinet lines' events: slots, replies, missed replies, order timeouts (R134 to R149, R166,
R170, R171, R174). -/

namespace Sys2Proof.Machine

/-! ### Slots -/

/-- R134: the number after the line's last order number. -/
def nextNo (n : Nat) : Nat := if 255 ≤ n then 1 else n + 1

/-- R139: the part-side state an order's first sending moves to. -/
def sentState (k : OrderKind) (s : TxState) : TxState :=
  match k, s with
  | .warm, .cold => .warming
  | .tune _ _ _, .standby | .tune _ _ _, .ready => .tuning
  | .raise _, .ready => .raising
  | .lower, .raising | .lower, .onAir => .lowering
  | .cool, .standby | .cool, .ready => .cold
  | _, s => s

/-- R132, R142 to R146: the timeout of an order in ms. -/
def orderTimeout (d : TxDef) : OrderKind → Ms
  | .warm | .cool => d.warm * 1000
  | .tune _ _ _ => d.tune * 1000
  | .raise _ | .clearTrip => d.raise * 1000
  | .lower => d.lower * 1000

/-- An order to be sent that can no longer be sent waits as the pending one, unless another waits already. The RAISE sent again
for a lost carrier replaces one that waits (R147). -/
def backToPend (t : Tx) (o : Order) (h : Hall) : Hall :=
  let h := h.setTx t fun r => { r with out := none }
  if (h.tx[t]).pend.isSome && !o.again then overtaken t o h else makePending t o h

/-- R140, R141, R149: the order to be sent is tested at its slot against the state then (log 11). -/
def retest (e : Env) (t : Tx) (o : Order) (h : Hall) : Hall :=
  let drop := h.setTx t fun r => { r with out := none }
  match (h.tx[t]).st with
  | .absent | .isLocal => overtaken t o drop
  | .unreachable => if o.kind = .lower then h else backToPend t o h
  | s =>
    if o.kind = .lower then if orderListed .lower s || rfpActive e h t then h else drop
    else if !o.listed s then declineUnsent e t o drop
    else if o.kind.isRaise && raiseHeld e h t then backToPend t o h
    else h

/-- An exchange begins. -/
def startExchange (e : Env) (t : Tx) (m : CabMsg) (h : Hall) : Hall :=
  h.setTx t fun r => { r with exch := some ⟨m, e.now⟩ }

/-- R170, R64: the retry RAISE is sent: the engine's assignment goes from TRIPPED to RAISING. -/
def raiseSent (t : Tx) (o : Order) (h : Hall) : Hall :=
  if o.kind.isRaise && o.handBack then
    h.mapAsg t fun a => if a.phase = .tripped && a.raise = .asked then { a with phase := .raising } else a
  else h

/-- R147, R190: the power of the last RAISE, which has not completed yet. -/
def lastRaise (k : OrderKind) (r : TxRec) : TxRec :=
  match k with
  | .raise kw => { r with raiseKw := some kw, doneKw := none }
  | _ => r

/-- R134, R139: the first sending of an order. A LOWER sent again after a decline keeps its first sending time. -/
def sendFirst (e : Env) (t : Tx) (o : Order) (last : Nat) (h : Hall) : Hall :=
  let no := nextNo last
  let s := (h.tx[t]).st
  let o' : Order :=
    { o with no := some no, sentAt := some e.now, since := some (o.since.getD e.now),
             timeout := if o.since.isSome then o.timeout else orderTimeout (e.k.txs[t]) o.kind,
             answered := false, prev := s, sawTuning := false }
  let h := h.setTx t fun r => lastRaise o.kind { r with out := some o', lastNo := some no }
  startExchange e t (.order o.kind no) (raiseSent t o (setTxState t (sentState o.kind s) .order h))

/-- R145: LOWER is sent again after its timeout. It is not outstanding again, and each sending takes the next number (log 13). -/
def sendLowerAgain (e : Env) (t : Tx) (last : Nat) (h : Hall) : Hall :=
  startExchange e t (.order .lower (nextNo last)) (h.setTx t fun r => { r with lastNo := some (nextNo last) })

/-- R134 items 3 and 4: a slot that has no order to carry: LOWER again while R145 requires it, or a POLL. -/
def slotBare (e : Env) (t : Tx) (last : Nat) (h : Hall) : Hall :=
  if (h.tx[t]).resend && rfpActive e h t then sendLowerAgain e t last h else startExchange e t .poll h

/-- R134 items 1 to 4, once orders may be sent. In LOCAL no order is sent: a lockout's LOWER that runs on waits there (R148, R202,
log 47). -/
def slotMessage (e : Env) (t : Tx) (last : Nat) (h : Hall) : Hall :=
  match (h.tx[t]).out with
  | some o =>
      if (h.tx[t]).st = .isLocal then startExchange e t .poll h
      else if o.sentAt.isNone then sendFirst e t o last h
      else if o.answered then slotBare e t last h
      else startExchange e t (.order o.kind (o.no.getD 0)) h
  | none => slotBare e t last h

/-- R140, R141: the order to be sent and then the pending one are tested again. -/
def retestAll (e : Env) (t : Tx) (h : Hall) : Hall :=
  let h := match (h.tx[t]).out with
    | some o => if o.sentAt.isNone then retest e t o h else h
    | none => h
  (pendStep e t h).getD h

/-- R134: a slot of a defined transmitter's line. A slot during an exchange starts none (log 14). -/
def cabinetSlot (t : Tx) (e : Env) (h : Hall) : Hall :=
  if !txDefined e.k h t || (h.tx[t]).exch.isSome then h
  else
    match (h.tx[t]).lastNo with
    | none => startExchange e t .poll h
    | some last => slotMessage e t last (retestAll e t h)

def execCabinetSlot (t : Tx) (s : State) : Result := happen s (cabinetSlot t)

/-! ### Ends of orders -/

/-- The outstanding order ends. -/
def endOrder (t : Tx) (h : Hall) : Hall := h.setTx t fun r => { r with out := none }

/-- R136, R139 to R149: an order's end sets the part-side state, of an UNREACHABLE transmitter too, but not of one in LOCKOUT,
LOCAL or ABSENT (log 30). -/
def orderState (t : Tx) (s : TxState) (c : TxCause) (h : Hall) : Hall :=
  match (h.tx[t]).st with
  | .lockout | .isLocal | .absent => h
  | _ => setTxState t s c h

/-- R138 at the end of an order, with the same exception. -/
def orderRederive (e : Env) (t : Tx) (c : TxCause) (h : Hall) : Hall :=
  match (h.tx[t]).st with
  | .lockout | .isLocal | .absent => h
  | _ => rederive e t none c h

/-- R64: an order of the engine failed. -/
def orderFailed (e : Env) (t : Tx) (o : Order) (h : Hall) : Hall :=
  if o.engine && o.handBack then endAsg e t .failed .nothing h else h

/-- R139: the state an order's decline returns to. A state re-derived in the same reply stays, unless it is still the one that the
sending set (log 33). -/
def declineState (t : Tx) (o : Order) (h : Hall) : Hall :=
  if (h.tx[t]).st = sentState o.kind o.prev then orderState t o.prev .order h else h

/-- R139: a DECLINED answer. R195: for STATE the record carries the part-side state, to which the decline has returned it. -/
def orderDeclined (e : Env) (t : Tx) (o : Order) (r : DeclineReason) (h : Hall) : Hall :=
  let h := declineState t o (endOrder t h)
  let h := declined e t o r (if r = .state then some (h.tx[t]).st else none) h
  if o.kind = .lower then
    h.setTx t fun x => { x with out := some { o with no := none, sentAt := none, answered := false } }
  else clearDeclined e t o h

/-- R139, R134 (log 12): the reply answers the outstanding order when its last answered number is the order's. -/
def answers (o : Order) (rep : CabReply) : Option Answer :=
  if o.sentAt.isSome && !o.answered && decide (rep.lastNo = o.no) then rep.answer else none

/-- R143: the TUNE's frequency and mode. -/
def tuneMatches (k : OrderKind) (f : Nat) (m : Mode) : Bool :=
  match k with
  | .tune g n _ => decide (f = g) && decide (m = n)
  | _ => false

def tuneFreq : OrderKind → Nat
  | .tune f _ _ => f
  | _ => 0

/-- R142 to R146: the condition that completes an order. -/
def completes (k : OrderKind) (c : Cond) : Bool :=
  match k, c with
  | .warm, .standby | .warm, .tuned _ _ => true
  | .tune f m _, .tuned g n => decide (f = g) && decide (m = n)
  | .raise kw, .on _ _ p => powerMatches kw p
  | .lower, .tuned _ _ | .lower, .standby | .lower, .cold | .lower, .cooling | .lower, .tripped _ => true
  | .cool, .cold => true
  | .clearTrip, .tripped _ => false
  | .clearTrip, _ => true
  | _, _ => false

/-- R142, R143, R144: the completion handed to the engine. -/
def engineDone (t : Tx) (o : Order) (h : Hall) : Hall :=
  if o.handBack then
    h.mapAsg t fun a =>
      match o.kind with
      | .tune _ _ _ => if a.tune = .asked then { a with tune := .done } else a
      | .raise _ =>
          if a.phase = .raising && a.raise = .asked then { a with phase := .onAir, raise := .done }
          else if a.raise = .asked && !o.again then { a with raise := .done } else a
      | _ => a
  else h

/-- R144, R190. -/
def raiseDone (t : Tx) (kw : Nat) (h : Hall) : Hall := h.setTx t fun r => { r with doneKw := some kw }

/-- R145, R166: a LOWER completed by TRIPPED. `taken`: the same reply was already taken as a counted trip at the regain
(R138, R165, log 23). -/
def lowerTripped (e : Env) (t : Tx) (o : Order) (c : CabTrip) (taken : Bool) (h : Hall) : Hall :=
  if o.byTrip || taken || !tripsTaken (h.tx[t]).st then orderState t .tripped .order h else tripLowering e t c h

/-- R142 to R146: an order completes on the reply's condition. -/
def orderDone (e : Env) (t : Tx) (o : Order) (c : Cond) (taken : Bool) (h : Hall) : Hall :=
  let h := endOrder t h
  match o.kind, c with
  | .raise kw, _ => engineDone t o (raiseDone t kw (orderState t .onAir .order h))
  | .lower, .tripped x => lowerTripped e t o x taken h
  | .clearTrip, _ => orderRederive e t .order h
  | _, c => engineDone t o (orderState t (condState c) .order h)

/-- R144, R165: TRIPPED seen while a RAISE is outstanding ends the RAISE as overtaken. It is a trip in RAISING and ON_AIR; in the
other states of R147 it is the uncounted trip of that table, and in TRIPPED nothing more (log 33). -/
def raiseTripped (e : Env) (t : Tx) (x : CabTrip) (h : Hall) : Hall :=
  let ended := overtakeOut t (fun o => o.kind.isRaise) h
  match (h.tx[t]).st with
  | .raising | .onAir => trip e t (.cab x) h
  | .cold | .warming | .standby | .tuning | .ready | .lowering => tripUncounted e t .condition ended
  | .tripped => ended
  | _ => h

/-- R143, R144: the conditions that neither complete an order nor leave it as it is. -/
def orderProgress (e : Env) (t : Tx) (o : Order) (c : Cond) (h : Hall) : Hall :=
  match o.kind, c with
  | .tune _ _ _, .tuning => h.setTx t fun r => { r with out := some { o with sawTuning := true } }
  | .tune f _ _, .tuned g _ =>
      if o.sawTuning then
        orderFailed e t o (reportTx e .tuneFail t (some (.tuneFail f g)) (orderState t .standby .order (endOrder t h)))
      else h
  | .raise _, .tripped x => raiseTripped e t x h
  | _, _ => h

/-- R135 steps 3 and 4 for the order outstanding when the reply came. -/
def replyOrder (e : Env) (t : Tx) (rep : CabReply) (taken : Bool) (h : Hall) : Hall :=
  match (h.tx[t]).out with
  | none => h
  | some o =>
    if o.sentAt.isNone then h
    else
      match answers o rep with
      | some (.declined r) => orderDeclined e t o r h
      | a =>
        let o' : Order := { o with answered := o.answered || a.isSome }
        let h := h.setTx t fun r => { r with out := some o' }
        if completes o.kind rep.cond then orderDone e t o' rep.cond taken h else orderProgress e t o' rep.cond h

/-! ### Conditions without an order -/

/-- R147: the RAISE of a lost carrier is to be sent: before an order that waits for its slot, which becomes the pending one, but
not where a LOWER is to be sent (R141, log 11). -/
def sendAgain (t : Tx) (kw : Nat) (h : Hall) : Hall :=
  let o : Order := { Order.mk0 (.raise kw) true false with again := true }
  let put (h : Hall) : Hall := h.setTx t fun r => { r with out := some o }
  if (h.tx[t]).lowerInHand then h
  else
    match (h.tx[t]).out with
    | none => put h
    | some waits => put (makePending t waits h)

/-- R147: the carrier lost: the last RAISE is sent again as a new order, once for each loss. -/
def carrierLost (t : Tx) (c : Cond) (h : Hall) : Hall :=
  if (h.tx[t]).out.any Order.again || (h.tx[t]).pend.any Order.again then h
  else
    match (h.tx[t]).raiseKw with
    | some kw => sendAgain t kw (setTxState t .raising .condition h)
    | none => setTxState t (condState c) .condition h

/-- R171: a carrier seen in TRIPPED. -/
def trippedRad (e : Env) (t : Tx) (h : Hall) : Hall :=
  if (h.tx[t]).lowerInHand then h
  else
    let back (r : Recovery) : Recovery :=
      if decide (r.stage = .idle) then r else { r with stage := .stopping, expiry := none, rfpWait := false, failing := false }
    setRcv t back (handLower e t true (reportTx e .rfUnexpected t (some .cabinet) h))

/-- R147, R171: a reply with no order outstanding. -/
def conditionSeen (e : Env) (t : Tx) (c : Cond) (h : Hall) : Hall :=
  let r := h.tx[t]
  let unexpected (h : Hall) : Hall := if r.lowerInHand then h else rfUnexpected e t h
  match r.st, c with
  | .raising, .tripped x | .onAir, .tripped x => trip e t (.cab x) h
  | .tripped, .tripped _ => h
  | .cold, .tripped _ | .warming, .tripped _ | .standby, .tripped _ | .tuning, .tripped _ | .ready, .tripped _
  | .lowering, .tripped _ => tripUncounted e t .condition h
  | .raising, c | .onAir, c => if condIsRad c then h else carrierLost t c h
  | .lowering, c =>
      if condIsRad c then if condState c = .lowering then h else handLower e t false h
      else setTxState t (condState c) .condition h
  | .tripped, c =>
      if condIsRad c then trippedRad e t h
      else if r.rcv.stage = .idle then setTxState t (condState c) .condition h
      else h
  | .cold, c | .warming, c | .standby, c | .tuning, c | .ready, c =>
      if condIsRad c then unexpected h else setTxState t (condState c) .condition h
  | .lockout, c => if condIsRad c then unexpected h else h
  | _, _ => h

/-! ### Contact and the local flag -/

/-- R148: what LOCAL brings beside the state. -/
def localTaken (e : Env) (t : Tx) (takeover : Bool) (h : Hall) : Hall :=
  let h := ordersOver t h
  let h := if takeover then reportTx e .localTakeover t none h else h
  engineLocal e t h

/-- R137: a TX notice with the new state, sent though the state is unchanged. -/
def noticeAnyway (t : Tx) (old : TxState) (c : TxCause) (h : Hall) : Hall :=
  if (h.tx[t]).st = old then h.note (.tx t old old c) else h

/-- R137: the cabinet is regained. Re-derived to LOCAL (R138), it has its orders ended and the engine told as R148 gives, and
no LOCAL-TAKEOVER record (log 45). -/
def regain (e : Env) (t : Tx) (h : Hall) : Hall :=
  let old := h.tx[t]
  let h := h.setTx t fun r => { r with contact := true, before := none }
  let h := if old.st = .unreachable then rederive e t old.before .contact h else h
  let h := noticeAnyway t old.st .contact h
  if old.st = .unreachable && (h.tx[t]).st = .isLocal then localTaken e t false h else h

/-- R148. -/
def localFlag (e : Env) (t : Tx) (rep : CabReply) (h : Hall) : Hall :=
  match (h.tx[t]).st, rep.loc with
  | .isLocal, true | .absent, _ | .lockout, _ => h
  | .isLocal, false => rederive e t none .isLocal h
  | _, true => localTaken e t true (setTxState t .isLocal .isLocal h)
  | _, false => h

/-- R139, R206: what a reply to a transmitter still to be judged does to an order that runs on: it ends or goes on, without record
(log 33). A DECLINED order ends, but for a LOWER, which is to be sent again. TUNED elsewhere after TUNING ends a TUNE as failed
(R143), and TRIPPED a RAISE as overtaken (R144). -/
def unjudgedOrder (t : Tx) (o : Order) (rep : CabReply) (h : Hall) : Hall :=
  match answers o rep with
  | some (.declined _) =>
      if o.kind = .lower then
        h.setTx t fun r => { r with out := some { o with no := none, sentAt := none, answered := false } }
      else endOrder t h
  | a =>
      let elsewhere := o.kind.isTune && o.sawTuning && decide (condState rep.cond = .ready)
      if completes o.kind rep.cond || elsewhere then endOrder t h
      else if o.kind.isRaise && condTripped rep.cond then overtakeOut t (fun _ => true) h
      else h.setTx t fun r => { r with out := some { o with
        answered := o.answered || a.isSome
        sawTuning := o.sawTuning || (o.kind.isTune && decide (rep.cond = .tuning)) } }

/-- R206: a reply to a transmitter still to be judged: the state of R138's table, no fault and no order; an order that
runs on is taken by `unjudgedOrder`. Entering LOCAL ends the orders (R148). -/
def unjudgedReply (t : Tx) (rep : CabReply) (h : Hall) : Hall :=
  let old := h.tx[t]
  let h := h.setTx t fun r => { r with contact := true, before := none }
  let h := if old.st = .lockout then h else setTxState t (derive rep) .contact h
  let h := if old.contact && decide (old.st ≠ .unreachable) then h else noticeAnyway t old.st .contact h
  if (h.tx[t]).st = .isLocal && decide (old.st ≠ .isLocal) then ordersOver t h
  else
    match (h.tx[t]).out with
    | none => h
    | some o => if o.sentAt.isNone then h else unjudgedOrder t o rep h

/-- R135: the reply's record is taken. R134: the first reply gives the last order number; R206: it is handed to
adoption. -/
def storeReply (e : Env) (t : Tx) (rep : CabReply) (h : Hall) : Hall :=
  (h.setTx t fun r =>
    { r with cond := some rep, missed := 0, exch := none, lastNo := some (r.lastNo.getD (rep.lastNo.getD 255)) }).setAdopt t
      fun a => { a with firstReply := some (a.firstReply.getD e.now) }

/-- R139: the reply declines the outstanding order. -/
def declines (r : TxRec) (rep : CabReply) : Bool :=
  r.out.any fun o => match answers o rep with | some (.declined _) => true | _ => false

/-- R135 step 5 after a DECLINED answer has ended the order at step 3: the condition is compared as with no order outstanding;
TRIPPED in a reply that found T in RAISING or ON_AIR, `was`, is a counted trip (R165, log 33). -/
def conditionAfterDecline (e : Env) (t : Tx) (was : TxState) (c : Cond) (h : Hall) : Hall :=
  match c with
  | .tripped x => if isRaised was && tripsTaken (h.tx[t]).st then trip e t (.cab x) h else conditionSeen e t c h
  | _ => conditionSeen e t c h

/-- R135 steps 1 to 5 for a judged transmitter. -/
def judgedReply (e : Env) (t : Tx) (rep : CabReply) (h : Hall) : Hall :=
  let r := h.tx[t]
  let lost := decide (r.st = .unreachable) || !r.contact
  let h := localFlag e t rep (if lost then regain e t h else h)
  let now := h.tx[t]
  let taken := decide (r.st = .unreachable) && r.before.any isRaised && condTripped rep.cond
  let h := replyOrder e t rep taken h
  if declines now rep then conditionAfterDecline e t now.st rep.cond h
  else if r.sent && decide ((h.tx[t]).st ≠ .lockout) then h
  else conditionSeen e t rep.cond h

/-- R135. A reply without an exchange is discarded (R134, log 14). -/
def cabinetReply (t : Tx) (rep : CabReply) (e : Env) (h : Hall) : Hall :=
  if !txDefined e.k h t || (h.tx[t]).exch.isNone then h
  else
    let h := storeReply e t rep h
    if unjudged h t then unjudgedReply t rep h else judgedReply e t rep h

def execCabinetReply (t : Tx) (rep : CabReply) (s : State) : Result := happen s (cabinetReply t rep)

/-! ### Missed replies -/

/-- R131: the states that are kept as the state before loss. -/
def keptBefore (s : TxState) : Option TxState :=
  match s with
  | .absent | .unreachable | .isLocal | .lockout => none
  | s => some s

/-- R136: the transmitter is lost. One in LOCKOUT keeps its contact and its last condition, by which its release is worked out
(log 54). -/
def loseTx (e : Env) (t : Tx) (h : Hall) : Hall :=
  let old := h.tx[t]
  let h :=
    if old.st = .lockout || old.st = .unreachable then h
    else setTxState t .unreachable .loss (h.setTx t fun r => { r with before := if r.contact then keptBefore r.st else none })
  reportTx e .unreachable t none (noticeAnyway t old.st .loss h)

/-- R136. -/
def missedReply (t : Tx) (e : Env) (h : Hall) : Hall :=
  if !txDefined e.k h t || (h.tx[t]).exch.isNone then h
  else
    let n := min 3 ((h.tx[t]).missed + 1)
    let first := decide (n = 3) && decide ((h.tx[t]).missed < 3)
    let h := h.setTx t fun r => { r with missed := n, exch := none }
    let h := if n = 3 then h.setAdopt t fun a => { a with lost := true } else h
    if first then loseTx e t h else h

def execMissedReply (t : Tx) (s : State) : Result := happen s (missedReply t)

/-! ### Order timeouts -/

/-- The outstanding order whose timeout has passed, when it is of the kind asked. -/
def lateOrder (e : Env) (h : Hall) (t : Tx) (p : OrderKind → Bool) : Option Order :=
  (h.tx[t]).out.filter fun o => p o.kind && o.since.any fun x => decide (x + o.timeout ≤ e.now)

/-- R142. -/
def warmTimeout (t : Tx) (e : Env) (h : Hall) : Hall :=
  match lateOrder e h t fun k => decide (k = .warm) with
  | none => h
  | some o =>
      let h := endOrder t h
      let h := if (h.tx[t]).cond.isSome then orderRederive e t .timeout h else orderState t .cold .timeout h
      orderFailed e t o (reportTx e .warmTimeout t none h)

def execWarmTimeout (t : Tx) (s : State) : Result := happen s (warmTimeout t)

/-- R143. -/
def tuneTimeout (t : Tx) (e : Env) (h : Hall) : Hall :=
  match lateOrder e h t OrderKind.isTune with
  | none => h
  | some o => orderFailed e t o (reportTx e .tuneTimeout t none (orderState t .standby .timeout (endOrder t h)))

def execTuneTimeout (t : Tx) (s : State) : Result := happen s (tuneTimeout t)

/-- R144, R166: RAISE-TIMEOUT is taken as a trip where trips are taken. -/
def raiseTimeout (t : Tx) (e : Env) (h : Hall) : Hall :=
  match lateOrder e h t OrderKind.isRaise with
  | none => h
  | some _ =>
      let h := endOrder t h
      if tripsTaken (h.tx[t]).st then
        trip e t .raiseTimeout (reportTx e .raiseTimeout t none (setTxState t .tripped .trip h))
      else handLower e t true (reportTx e .raiseTimeout t none h)

def execRaiseTimeout (t : Tx) (s : State) : Result := happen s (raiseTimeout t)

/-- R145: the re-sending begins where RFP is active as the timeout passes (log 13). -/
def lowerTimeout (t : Tx) (e : Env) (h : Hall) : Hall :=
  match lateOrder e h t fun k => decide (k = .lower) with
  | none => h
  | some o =>
      let again := rfpActive e h t && decide ((h.tx[t]).st ≠ .isLocal)
      let h := reportTx e .lowerTimeout t none ((endOrder t h).setTx t fun r => { r with resend := again })
      if o.handBack then engineLowerTimeout e t h else h

def execLowerTimeout (t : Tx) (s : State) : Result := happen s (lowerTimeout t)

/-- R146. -/
def coolTimeout (t : Tx) (e : Env) (h : Hall) : Hall :=
  match lateOrder e h t fun k => decide (k = .cool) with
  | none => h
  | some _ => reportTx e .warmTimeout t (some .cool) (orderRederive e t .timeout (endOrder t h))

def execCoolTimeout (t : Tx) (s : State) : Result := happen s (coolTimeout t)

/-- R146, R170: outside a recovery's CLEARING the CLEAR-TRIP only ends (log 30). -/
def clearTripTimeout (t : Tx) (e : Env) (h : Hall) : Hall :=
  match lateOrder e h t fun k => decide (k = .clearTrip) with
  | none => h
  | some _ =>
      let clearing := decide ((h.tx[t]).rcv.stage = .clearing)
      let h := endOrder t h
      if clearing then clearFailed e t (reportTx e .raiseTimeout t (some .clear) h) else h

def execClearTripTimeout (t : Tx) (s : State) : Result := happen s (clearTripTimeout t)

end Sys2Proof.Machine
end

