-- ==== Sys2Proof/Machine/TxRequests.lean ====
section
/-! DEFINITION. Meanings of the transmitters' requests (R132, R133, R153), and the lapse of an adoption condition (R207). -/

namespace Sys2Proof.Machine

/-- R132: the values of a definition within their ranges. -/
def txDefineOk (defined : Bool) (rating warm tune raise lower : Option Nat) : Bool :=
  withinOpt 1 1000 rating && withinOpt 10 1800 warm && withinOpt 10 300 tune && withinOpt 5 120 raise &&
  withinOpt 2 60 lower && (defined || rating.isSome)

/-- R132: the definition with the values given. -/
def TxDef.edit (d : TxDef) (rating warm tune raise lower : Option Nat) : TxDef :=
  { defined := true, rating := rating.getD d.rating, warm := warm.getD d.warm, tune := tune.getD d.tune,
    raise := raise.getD d.raise, lower := lower.getD d.lower }

/-- R132, R156, R206: what a definition brings: an ABSENT transmitter becomes UNREACHABLE, and UNJUDGED during adoption;
undefine pending is cleared. -/
def defineTx (t : Tx) (h : Hall) : Hall :=
  let h := h.setTx t fun r => { r with undef := false }
  if (h.tx[t]).st = .absent then
    let h := if h.mode = .adopting then h.setAdopt t fun _ => ⟨false, none, false, false⟩ else h
    setTxState t .unreachable .define (h.setTx t fun r => { r with contact := false, before := none })
  else h

/-- R132. -/
def txDefine (t : Option Tx) (rating warm tune raise lower : Option Nat) (s : State) : Ans :=
  named s t fun t =>
    if !txDefineOk (txDefined s.tables s.hall t) rating warm tune raise lower then s.refuse .range
    else
      let s := s.setTables fun k => { k with txs := upd k.txs t fun d => d.edit rating warm tune raise lower }
      (s.onHall fun e h => sweep e (defineTx t h)).ok

def execTxDefine (tag : Nat) (t : Option Tx) (rating warm tune raise lower : Option Nat) (s : State) : Result :=
  request (.txDefine tag t rating warm tune raise lower) tag .txDefine (txDefine t rating warm tune raise lower) s

/-- R133: an assignment, stack item or deferral item names T. -/
def txNamed (h : Hall) (t : Tx) : Bool := (h.asg[t]).isSome || itemNames h t

/-- R133: what refuses an undefinition. -/
def txInUse (e : Env) (h : Hall) (t : Tx) : Bool :=
  let r := h.tx[t]
  txNamed h t || runnableEntry h (fun en => decide (en.tx = t)) || !(h.holds[t]).enabled.isEmpty ||
  isRad r.st || decide (r.st = .tripped) || decide (r.st = .lockout) || r.out.isSome || decide (r.permit ≠ .none) ||
  rfpActive e h t

/-- R133, R206. -/
def undefineTx (t : Tx) (h : Hall) : Hall := (goAbsent t .define h).setAdopt t fun a => { a with judged := true }

/-- R133. -/
def txUndefine (t : Option Tx) (s : State) : Ans :=
  named s t fun t =>
    if !txDefined s.tables s.hall t then s.ok
    else if txInUse s.env s.hall t then s.refuse .state
    else
      let s := s.setTables fun k => { k with txs := upd k.txs t fun d => { d with defined := false } }
      (s.onHall fun _ h => undefineTx t h).ok

def execTxUndefine (tag : Nat) (t : Option Tx) (s : State) : Result :=
  request (.txUndefine tag t) tag .txUndefine (txUndefine t) s

/-- R153: what holds a pending order. -/
def heldBy (e : Env) (h : Hall) (t : Tx) : Option HeldBy :=
  (h.tx[t]).pend.map fun o =>
    (⟨(h.tx[t]).out.isSome, o.kind.isRaise && decide ((h.tx[t]).permit = .granted), o.kind.isRaise && doorActive e h t,
      o.kind.isRaise && estopActive e h, o.kind.isRaise && raiseFrozen h t, decide ((h.tx[t]).st = .unreachable)⟩ : HeldBy)

/-- R153, R167: with the seconds since the outstanding order's first sending and the age of each trip. One with undefine pending
shows as defined, as it counts for every rule (R156). -/
def txStatusBody (e : Env) (h : Hall) (t : Tx) : ReplyBody :=
  let r := h.tx[t]
  .tx t { e.k.txs[t] with defined := txDefined e.k h t } r ((r.out.bind Order.since).map fun x => (e.now - x) / 1000)
    (heldBy e h t) (r.window.map fun w => (e.now - w.at_) / 1000)

/-- R153. -/
def txStatus (t : Option Tx) (s : State) : Ans := named s t fun t => s.ans .ok (txStatusBody s.env s.hall t)

def execTxStatus (tag : Nat) (t : Option Tx) (s : State) : Result := request (.txStatus tag t) tag .txStatus (txStatus t) s

/-- R207: condition 5 lapses. A lapse taken under LOWERING stands when the condition becomes RAISING afterwards,
and the judging goes on at once (log 56). -/
def adoptionLapse (t : Tx) (e : Env) (h : Hall) : Hall :=
  if unjudged h t && lapseDue e h t then h.setAdopt t fun a => { a with lapsed := true } else h

def execAdoptionConditionLapse (t : Tx) (s : State) : Result := happen s (adoptionLapse t)

end Sys2Proof.Machine
end

