-- ==== Sys2Proof/Machine/SenseLines.lean ====
section
/-! DEFINITION. Meanings of the sense lines' requests and events, the recovery settings, trip window and recovery delay
(R157 to R164, R167 to R169). -/

namespace Sys2Proof.Machine

/-! ### What lines do -/

/-- R161: RFP is expected to be active. -/
def rfpExpected (r : TxRec) : Bool := isRad r.st || r.lowerInHand

/-- R161, R206: RFP qualifies active. -/
def rfpOn (e : Env) (t : Tx) (h : Hall) : Hall :=
  if (h.tx[t]).permit = .granted then takeBackPermit e t h
  else if rfpExpected (h.tx[t]) || unjudged h t then h
  else reportTx e .rfUnexpected t (some .sense) h

/-- R161: RFP qualifies inactive: the re-sending of a LOWER stops. Permits and recoveries that wait go on as the event
settles. -/
def rfpOff (t : Tx) (h : Hall) : Hall := h.setTx t fun r => { r with resend := false }

/-- R162: DOOR qualifies active. -/
def doorOn (e : Env) (t : Tx) (h : Hall) : Hall :=
  if (h.tx[t]).st = .raising || (h.tx[t]).st = .onAir then trip e t .door h else h

/-- R63, R163: the assignments an ESTOP mutes. -/
def muteOne (e : Env) (t : Tx) (h : Hall) : Hall :=
  match h.asg[t] with
  | some a => if a.phase.mutes then muteAsg e t a h else h
  | none => h

/-- R163: ESTOP qualifies active. -/
def estopOn (e : Env) (h : Hall) : Hall :=
  let h := h.each allTx fun t h =>
    if (h.tx[t]).st = .raising || (h.tx[t]).st = .onAir then handLower e t false h else h
  estopPlan e (h.each allTx (muteOne e))

/-- R165: a REFL or ARC event; no trip outside RAISING and ON_AIR, nor before judgement (R206). -/
def lineTrip (e : Env) (t : Tx) (c : TripCause) (h : Hall) : Hall :=
  if ((h.tx[t]).st = .raising || (h.tx[t]).st = .onAir) && !unjudged h t then trip e t c h else h

/-- R160: DOOR and ESTOP send a SENSE notice, masked or not. -/
def senseNotice (l : SenseLine) (active masked : Bool) (h : Hall) : Hall :=
  match l with
  | .door _ | .estop => h.note (.sense l active masked)
  | _ => h

/-- R158, R159: a level line qualifies active or inactive; a masked line's effects are not taken. -/
def lineLevel (e : Env) (l : SenseLine) (active masked : Bool) (h : Hall) : Hall :=
  if masked then h
  else
    match l, active with
    | .rfp t, true => rfpOn e t h
    | .rfp t, false => rfpOff t h
    | .door t, true => doorOn e t h
    | .estop, true => estopOn e h
    | .refl t, true => lineTrip e t .senseRefl h
    | .arc t, true => lineTrip e t .senseArc h
    | _, _ => h

/-- R158: a qualified event of an edge line. -/
def lineEdge (e : Env) (l : SenseLine) (masked : Bool) (h : Hall) : Hall :=
  if masked then h
  else
    match l with
    | .refl t => lineTrip e t .senseRefl h
    | .arc t => lineTrip e t .senseArc h
    | _ => h

/-- R158: the edge of an edge mode. -/
def edgeSeen (m : SenseMode) (old : Option Bool) (new : Bool) : Bool :=
  match m, old with
  | .edgeRise, some false => new
  | .edgeFall, some true => !new
  | _, _ => false

/-- R158: a first qualification that leaves a line inactive is an event for RFP and DOOR alone. -/
def firstInactive (l : SenseLine) : Bool :=
  match l with
  | .rfp _ | .door _ => true
  | _ => false

/-- R158, R160: the meaning of a level line changed from `old` to `new`. The SENSE notice goes before the notices of its effects
(log 41). -/
def lineMeaning (e : Env) (l : SenseLine) (masked : Bool) (old new : Option Bool) (h : Hall) : Hall :=
  match new with
  | none => h
  | some a =>
      if old = new || (old.isNone && !a && !firstInactive l) then h
      else lineLevel e l a masked (senseNotice l a masked h)

/-- R158: the qualified level becomes the one being qualified, with its effects; PULSE is left to the Time Base. -/
def qualify (l : SenseLine) (new : Bool) (e : Env) (h : Hall) : Hall :=
  let old := (h.line l).qual
  let cfg := e.cfg l
  let h := h.setSense l fun x => { x with qual := some new, timer := none }
  if edgeSeen cfg.mode old new then lineEdge e l cfg.mask h
  else lineMeaning e l cfg.mask (lineActive cfg.mode old) (lineActive cfg.mode (some new)) h

/-! ### Events -/

/-- R158: a raw level. A change starts the timer, a change back stops it; on a line not yet qualified every change starts it
for its own level (log 46). -/
def rawChange (l : SenseLine) (high : Bool) (e : Env) (h : Hall) : Hall :=
  let x := h.line l
  if x.raw = high then h
  else
    h.setSense l fun x =>
      { x with raw := high, timer := if x.qual = some high then none else some (high, e.now + (e.cfg l).qual) }

def execSenseRawChange (l : SenseLine) (high : Bool) (s : State) : Result := happen s (rawChange l high)

/-- R158: the level whose qualification is due. -/
def dueLevel (e : Env) (h : Hall) (l : SenseLine) : Option Bool :=
  ((h.line l).timer.filter fun x => decide (x.2 ≤ e.now)).map Prod.fst

/-- R38: a qualified rising edge of PULSE. -/
def pulseEdge (l : SenseLine) (old : Option Bool) (new : Bool) : Bool :=
  decide (l = .pulse) && edgeSeen .edgeRise old new

/-- R158, R38. -/
def qualificationExpiry (l : SenseLine) (s : State) : State :=
  match dueLevel s.env s.hall l with
  | none => s
  | some new =>
    let s' := s.onHall (qualify l new)
    if pulseEdge l (s.hall.line l).qual new then pulse s' else s'

def execQualificationTimerExpiry (l : SenseLine) (s : State) : Result := .next (finish (qualificationExpiry l s))

/-! ### Requests -/

/-- R157: the modes a line allows. -/
def modeAllowed : SenseLine → SenseMode → Bool
  | .refl _, _ | .arc _, _ => true
  | .pulse, _ => false
  | _, .levelHigh | _, .levelLow => true
  | _, _ => false

/-- R159: what refuses a SENSE-SET. -/
def senseSetOk (l : SenseLine) (mode : Option SenseMode) (mask : Option Bool) (qual : Option Nat) : Bool :=
  match l with
  | .pulse => mode.isNone && mask.isNone && qual.isNone
  | l =>
      mode.all (modeAllowed l) && withinOpt 1 250 qual &&
      match l with
      | .rfp _ | .estop => decide (mask ≠ some true)
      | _ => true

def SenseCfg.edit (c : SenseCfg) (mode : Option SenseMode) (mask : Option Bool) (qual : Option Nat) : SenseCfg :=
  { mode := mode.getD c.mode, mask := mask.getD c.mask, qual := qual.getD c.qual }

/-- R159: a DOOR line edited: a mask counts as inactive. -/
def doorEdited (e : Env) (l : SenseLine) (old new : SenseCfg) (was now : Bool) (h : Hall) : Hall :=
  let a := was && !old.mask
  let b := now && !new.mask
  if a ≠ b then lineLevel e l b false (h.note (.sense l b new.mask))
  else if was ≠ now then h.note (.sense l now new.mask)
  else h

/-- R159: the present level under the new meaning. An edge mode gives no meaning to change from or to (log 31). -/
def senseEdited (l : SenseLine) (old new : SenseCfg) (e : Env) (h : Hall) : Hall :=
  let q := (h.line l).qual
  match lineActive old.mode q, lineActive new.mode q with
  | some a, some b =>
      match l with
      | .door _ => doorEdited e l old new a b h
      | _ => if a = b then h else lineLevel e l b new.mask (senseNotice l b new.mask h)
  | _, _ => h

/-- R159. The mode of the request may be absent (outer `none`) or a name outside the list (inner). -/
def senseSet (l : Option SenseLine) (mode : Option (Option SenseMode)) (mask : Option Bool) (qual : Option Nat) (s : State) :
    Ans :=
  named s l fun l =>
    if decide (mode = some none) || !senseSetOk l (mode.bind id) mask qual then s.refuse .range
    else
      let old := s.tables.sense[senseIx l]
      let new := old.edit (mode.bind id) mask qual
      ((s.setTables fun k => { k with sense := upd k.sense (senseIx l) fun _ => new }).onHall (senseEdited l old new)).ok

def execSenseSet (tag : Nat) (l : Option SenseLine) (mode : Option (Option SenseMode)) (mask : Option Bool)
    (qual : Option Nat) (s : State) : Result :=
  request (.senseSet tag l mode mask qual) tag .senseSet (senseSet l mode mask qual) s

/-- R160: whether a line counts as active, for the level modes (R158, R159). An unqualified REFL or ARC line is shown as not active
(log 15). -/
def senseView (e : Env) (h : Hall) (l : SenseLine) : SenseView :=
  let c := e.cfg l
  let x := h.line l
  let level := decide (c.mode = .levelHigh) || decide (c.mode = .levelLow)
  let counts : Bool :=
    match l with
    | .rfp t => rfpActive e h t
    | .door t => doorActive e h t
    | .estop => estopActive e h
    | _ => (lineActive c.mode x.qual).getD false
  ⟨l, c, x.qual, if level then some counts else none, x.raw⟩

/-- R160. -/
def senseStatus (subject : Option SenseSubject) (s : State) : Ans :=
  named s subject fun x =>
    let lines := match x with
      | .line l => [l]
      | .position t => [.rfp t, .refl t, .arc t, .door t]
    s.ans .ok (.sense (lines.map (senseView s.env s.hall)))

def execSenseStatus (tag : Nat) (subject : Option SenseSubject) (s : State) : Result :=
  request (.senseStatus tag subject) tag .senseStatus (senseStatus subject) s

/-! ### Recovery settings, windows, delays -/

/-- R164. -/
def recoveryOk (delay retries window foldback : Option Nat) : Bool :=
  withinOpt 2 120 delay && withinOpt 0 7 retries && withinOpt 1 60 window && withinOpt 50 100 foldback

def RecoverySettings.edit (r : RecoverySettings) (delay retries window foldback : Option Nat) : RecoverySettings :=
  { delay := delay.getD r.delay, retries := retries.getD r.retries, window := window.getD r.window,
    foldback := foldback.getD r.foldback }

/-- R164, R167: a new window takes effect at once, and a new fold-back is handed to the engine. -/
def recoveryEdited (e : Env) (h : Hall) : Hall := recomputeFold e (h.each allTx (expireWindow e))

/-- R164. -/
def recoverySet (delay retries window foldback : Option Nat) (s : State) : Ans :=
  if !recoveryOk delay retries window foldback then s.refuse .range
  else
    ((s.setTables fun k => { k with rcv := k.rcv.edit delay retries window foldback }).onHall recoveryEdited).ok

def execRecoverySet (tag : Nat) (delay retries window foldback : Option Nat) (s : State) : Result :=
  request (.recoverySet tag delay retries window foldback) tag .recoverySet (recoverySet delay retries window foldback) s

/-- R167. -/
def tripWindowExpiry (t : Tx) (e : Env) (h : Hall) : Hall := expireWindow e t h

def execTripWindowEntryExpiry (t : Tx) (s : State) : Result := happen s (tripWindowExpiry t)

/-- R169: the recovery delay expires; the decision follows as the event settles, or at the regain (R168). -/
def recoveryDelayExpiry (t : Tx) (e : Env) (h : Hall) : Hall :=
  let r := (h.tx[t]).rcv
  if decide (r.stage = .waiting) && r.expiry.any fun x => decide (x ≤ e.now) then
    setRcv t (fun r => { r with expiry := none }) h
  else h

def execRecoveryDelayExpiry (t : Tx) (s : State) : Result := happen s (recoveryDelayExpiry t)

end Sys2Proof.Machine
end

