-- ==== Sys2Proof/Machine/HoldsPlans.lean ====
section
/-! DEFINITION. Meanings of the requests on holds, plans and directives, and of the plan step's timeout (R176 to R191). -/

namespace Sys2Proof.Machine

/-- R177 step 5: the other holder that a CONFLICT names. -/
def holdRival (h : Hall) (t : Tx) : HoldValue → ReplyBody
  | .output o _ =>
      match ((reserver h o).filter fun u => decide (u ≠ t)).or h.path.owner[o] with
      | some u => .otherTx u
      | none => .nothing
  | _ => .nothing

/-- R177. -/
def holdSet (t : Option Tx) (v : Option HoldForm) (s : State) : Ans :=
  named s t fun t =>
    named s (v.bind holdOf) fun v =>
      match holdFault s.tables s.hall t v with
      | some (st, some a) => s.ans st (.answer a)
      | some (.conflict, none) => s.ans .conflict (holdRival s.hall t v)
      | some (st, none) => s.refuse st
      | none => (s.onHall fun e h => setHold e t v .host h).ok

def execHoldSet (tag : Nat) (t : Option Tx) (v : Option HoldForm) (s : State) : Result :=
  request (.holdSet tag t v) tag .holdSet (holdSet t v) s

/-- R181. -/
def holdClear (t : Option Tx) (a : Option Aspect) (s : State) : Ans :=
  named s t fun t => named s a fun a => (s.onHall fun e h => clearHold e t a .host h).ok

def execHoldClear (tag : Nat) (t : Option Tx) (a : Option Aspect) (s : State) : Result :=
  request (.holdClear tag t a) tag .holdClear (holdClear t a) s

/-- R183: one transmitter, or all twelve when none is named. -/
def holdStatus (t : Option (Option Tx)) (s : State) : Ans :=
  match t with
  | some none => s.refuse .range
  | some (some t) => s.ans .ok (.holds [(t, s.hall.holds[t])])
  | none => s.ans .ok (.holds (allTx.map fun t => (t, s.hall.holds[t])))

def execHoldStatus (tag : Nat) (t : Option (Option Tx)) (s : State) : Result :=
  request (.holdStatus tag t) tag .holdStatus (holdStatus t) s

/-- R184: plans 1 to 31. -/
def planOf (n : Nat) : Option (Fin 32) := if h : 1 ≤ n ∧ n ≤ 31 then some ⟨n, by omega⟩ else none

/-- R184: the plan is PENDING in the slot or RUNNING. -/
def planBusy (h : Hall) (n : Nat) : Bool :=
  h.dslot.any (fun d => decide (d.1 = n)) || h.running.any fun r => decide (r.plan = n)

/-- R184: 1 to 8 steps, each of its form. -/
def planForm (l : List StepForm) : Option (List PlanStep) :=
  let steps := l.map stepOf
  if within 1 8 l.length && steps.all Option.isSome then some (steps.filterMap id) else none

def State.setPlan (s : State) (n : Fin 32) (p : Option (List PlanStep)) : State :=
  s.setTables fun k => { k with plans := upd k.plans n fun _ => p }

/-- R184. -/
def planLoad (plan : Nat) (steps : List StepForm) (s : State) : Ans :=
  named s (planOf plan) fun n =>
    named s (planForm steps) fun l =>
      if planBusy s.hall plan then s.refuse .state else (s.setPlan n (some l)).ok

def execPlanLoad (tag plan : Nat) (steps : List StepForm) (s : State) : Result :=
  request (.planLoad tag plan steps) tag .planLoad (planLoad plan steps) s

/-- R184. -/
def planDrop (plan : Nat) (s : State) : Ans :=
  named s (planOf plan) fun n =>
    if planBusy s.hall plan then s.refuse .state
    else if (s.tables.plans[n]).isNone then s.refuse .notFound
    else (s.setPlan n none).ok

def execPlanDrop (tag plan : Nat) (s : State) : Result := request (.planDrop tag plan) tag .planDrop (planDrop plan) s

/-- R184. -/
def planGet (plan : Nat) (s : State) : Ans :=
  if plan = 0 then s.ans .ok (.plan 0 [] true)
  else
    named s (planOf plan) fun n =>
      match s.tables.plans[n] with
      | some l => s.ans .ok (.plan plan l false)
      | none => s.refuse .notFound

def execPlanGet (tag plan : Nat) (s : State) : Result := request (.planGet tag plan) tag .planGet (planGet plan) s

/-- R184. -/
def planSet (step : Option Nat) (s : State) : Ans :=
  if withinOpt 10 600 step then (s.setTables fun k => { k with stepTo := step.getD k.stepTo }).ok else s.refuse .range

def execPlanSet (tag : Nat) (step : Option Nat) (s : State) : Result := request (.planSet tag step) tag .planSet (planSet step) s

/-- R185, R184: the running plan's current step. -/
def stepView (k : Tables) (r : Running) : Option StepView :=
  if r.plan = 0 then some (.inhibitAll r.who) else (stepAt k r.plan r.step).map .step

/-- R185. -/
def directiveBody (s : State) : ReplyBody :=
  let r := s.hall.running
  .directive s.hall.dslot r s.hall.dlast s.tables.stepTo (r.map fun r => (s.time.now - r.start) / 1000)
    (r.bind (stepView s.tables))

/-- R185. -/
def directiveStatus (s : State) : Ans := s.ans .ok (directiveBody s)

def execDirectiveStatus (tag : Nat) (s : State) : Result := request (.directiveStatus tag) tag .directiveStatus directiveStatus s

/-- R186: plan 0. -/
def postPlan0 (tag : Nat) (s : State) : Ans :=
  if s.hall.running.any fun r => decide (r.plan = 0) then s.refuse .busy
  else (s.onHall fun e h => startPlan0 e tag h).ans .accepted .stageRunning

/-- R186: plans 1 to 31. -/
def postPlan (tag plan : Nat) (s : State) : Ans :=
  if s.hall.dslot.isSome then s.refuse .busy
  else if s.hall.running.isNone then (s.onHall fun e h => acceptPlan e plan tag h).ans .accepted .stageRunning
  else
    ({ s with hall := { s.hall with dslot := some (plan, tag), dlast := some ⟨plan, tag, .pending⟩ } }).ans .accepted
      .stagePending

/-- R186. -/
def directivePost (tag plan : Nat) (s : State) : Ans :=
  if plan = 0 then postPlan0 tag s
  else
    named s (planOf plan) fun n =>
      if (s.tables.plans[n]).isNone then s.refuse .notFound else postPlan tag plan s

def execDirectivePost (tag plan : Nat) (s : State) : Result :=
  request (.directivePost tag plan) tag .directivePost (directivePost tag plan) s

/-- R188. -/
def directiveWithdraw (s : State) : Ans :=
  match s.hall.dslot, s.hall.dlast with
  | some (k, t), last =>
      ({ s with hall := { s.hall with dslot := none, dlast := last.map fun (d : LastDirective) => { d with fate := .withdrawn } } }).ans .ok
        (.planTag k t)
  | none, some d => if d.fate = .accepted then s.ans .tooLate (.planTag d.plan d.tag) else s.refuse .notFound
  | none, none => s.refuse .notFound

def execDirectiveWithdraw (tag : Nat) (s : State) : Result :=
  request (.directiveWithdraw tag) tag .directiveWithdraw directiveWithdraw s

/-- R191: the running plan's step timeout has passed. -/
def planTimeout (e : Env) (h : Hall) : Hall :=
  match h.running.filter fun r => decide (r.start + r.timeout ≤ e.now) with
  | some r => stepOver e r .timeout h
  | none => h

def execPlanStepTimeout (s : State) : Result := happen s planTimeout

end Sys2Proof.Machine
end

