-- ==== Sys2Proof/Machine/Resets.lean ====
section
/-! DEFINITION. Meanings of the hall's requests, the resets, the erasure and power-on (R18, R19, R35, R75, R76, R117, R118,
R129, R154 to R156, R175, R193, R216 to R220). -/

namespace Sys2Proof.Machine

/-! ### Reads -/

/-- R216. -/
def hallView (s : State) : HallView :=
  { mode := s.hall.mode, lead := s.tables.lead, cool := s.tables.cool, rcv := s.tables.rcv, lock := s.tables.lock,
    clock := s.time.cstate, overflow := s.hall.faults.overflow,
    blocking := (s.hall.faults.recs.filter fun r => r.blocking).length, notices := s.link.notices.length,
    lost := s.link.lost }

/-- R216: the read clears the notices-lost flag. -/
def hallStatus (s : State) : Ans := ({ s with link := { s.link with lost := false } }).ans .ok (.hall (hallView s))

def execHallStatus (tag : Nat) (s : State) : Result := request (.hallStatus tag) tag .hallStatus hallStatus s

/-- R217: the part number, the revision and the capacities. -/
def identify (s : State) : Ans := s.ans .ok (.identity "HC-1228" Config.revision Config.capacities)

def execIdentify (tag : Nat) (s : State) : Result := request (.identify tag) tag .identify identify s

/-! ### Orders that a reset drops -/

/-- R154, R155: the pending order is dropped, and with it an order that was still to be sent, a LOWER excepted (log 11). -/
def dropPending (t : Tx) (h : Hall) : Hall :=
  h.setTx t fun r => { r with pend := none, out := r.out.filter fun o => o.sentAt.isSome || decide (o.kind = .lower) }

/-! ### HALL reset -/

/-- R35: every change is rejected, head first. -/
def rejectAll (h : Hall) : Hall :=
  { h with changes := [] }.notes (h.changes.map fun (c : Change) => .changeRejected c.tag c.bank c.kind c.id .reset)

/-- R75: the engine's records are discarded without notices. -/
def discardAll (h : Hall) : Hall :=
  { h with asg := tab 12 none, stack := tab 12 [], deferral := [], idle := tab 12 .stopped, alloc := false }

/-- R117: QUEUED requests are withdrawn; a sequence with a GRANTED request goes to CANCELLING, the others to IDLE; owners
are cleared, and every column is unread with its READ wanted. -/
def resetPath (h : Hall) : Hall :=
  let h := (h.setQueue []).each allTx cancelSeq
  h.setPath fun p =>
    { p with owner := tab 28 none, cols := tab 28 ⟨false, some ⟨0, none⟩, none⟩,
             seqs := p.seqs.map fun s => { s with next := none } }

/-- R154, R175: one transmitter. -/
def resetTx (t : Tx) (h : Hall) : Hall :=
  (noHandBack t (fun _ => true) (dropPending t h)).setTx t fun r => { r with contact := false, rcv := Recovery.idle }

/-- R206: adoption starts from the beginning. -/
def restartAdoption (k : Tables) (h : Hall) : Hall :=
  { h with mode := .adopting, adoptedS := 0, adoptedF := 0,
           adopt := Vector.ofFn fun t => ⟨!txDefined k h t, none, false, false⟩ }

/-- R219, R19, R35, R75, R117, R154, R175, R176, R193: HALL reset. The HALL notice comes first, then those of the blocks. -/
def resetHall (e : Env) (h : Hall) : Hall :=
  let h := (restartAdoption e.k h).note (.hall .adopting .reset)
  let h := ((resetPath (discardAll (rejectAll h))).each allTx resetTx)
  let h := match retiringBank h with | some n => retireNow n h | none => h
  (resetPlans h).each allTx (resetHold e)

/-- R219: the notice queue and the receiving buffer are emptied. -/
def hallReset (s : State) : Ans :=
  let s := { s with link := { s.link with notices := [], receiving := none } }
  (s.onHall resetHall).ans .accepted .nothing

def execHallReset (tag : Nat) (s : State) : Result := request (.hallReset tag) tag .hallReset hallReset s

/-! ### SECTION reset -/

/-- R155, R175: the Supervisor's part. -/
def sectionTx (e : Env) (t : Tx) (h : Hall) : Hall :=
  let st := (h.tx[t]).st
  let h := emptyWindow t (dropPending t h)
  let h := h.setTx t fun r => { r with before := if r.st = .unreachable then none else r.before, rcv := Recovery.idle }
  if st = .raising || st = .onAir then handLower e t false h
  else if st = .tripped then handClear e t h
  else h

/-- R76: the engine's part. -/
def sectionEngine (e : Env) (t : Tx) (h : Hall) : Hall :=
  (dropStack t (fun _ => true) .expired (abortAsg e t h)).setIdle t .stopped

/-- R219, R76, R118, R155, R175, R176. R26: the head is examined again when the reset ends an assignment of its entry. -/
def resetSection (t : Tx) (e : Env) (h : Hall) : Hall :=
  let ends := h.changes.head?.any fun c => (carriers h c).contains t
  let h := resetHold e t (cancelSeq t (sectionEngine e t (sectionTx e t h)))
  if ends then recheckHead h else h

/-- R219. -/
def sectionReset (t : Option Tx) (s : State) : Ans :=
  named s t fun t =>
    if !txDefined s.tables s.hall t then s.refuse .notFound
    else (s.onHall (resetSection t)).ans .accepted .nothing

def execSectionReset (tag : Nat) (t : Option Tx) (s : State) : Result :=
  request (.sectionReset tag t) tag .sectionReset (sectionReset t) s

/-! ### STORE-ERASE -/

/-- R220 step 2. -/
def anyRaised (h : Hall) : Bool := allTx.any fun t => decide ((h.tx[t]).st = .raising) || decide ((h.tx[t]).st = .onAir)

/-- R156: every defined transmitter takes undefine pending; one that nothing keeps goes to ABSENT as the event settles. -/
def undefAll (k : Tables) (h : Hall) : Hall :=
  h.each allTx fun t h => if (k.txs[t]).defined then h.setTx t fun r => { r with undef := true } else h

/-- R19: every bank becomes EMPTY, with a BANK notice where it was not: before the notices of what follows (log 41). -/
def eraseBanks (h : Hall) : Hall :=
  h.each allBanks fun n h => if (h.banks[n]).st = .empty then h else bankNotice n (h.setBank n fun _ => Bank.blank)

/-- R19: every assignment of a SCHEDULE source ends ABORTED. -/
def abortScheduled (e : Env) (h : Hall) : Hall :=
  h.each allTx fun t h => if (h.asg[t]).any fun a => a.sched.isSome then abortAsg e t h else h

/-- R129: every positioner record is removed, or is left to its slew. -/
def erasePositioners (h : Hall) : Hall :=
  h.each allOut fun o h =>
    if (slewSlot h o).isSome then h.mapPos o fun p => { p with gone := true } else h.setPos o none

/-- R19, R35, R129, R156, R176, R193, R220: what the erasure of the store reaches in the hall. R19 states no order of its
notices: the BANK notices stand first here (log 41). The fold-back's return to its default works no power out (R164, log 35). -/
def eraseHall (e : Env) (h : Hall) : Hall :=
  let h := expireAll (abortScheduled e (eraseBanks h))
  let h := (resetPlans h).each allTx (resetHold e)
  recheckHead (sweepErased e (erasePositioners h))

/-- R220. A DOOR or ESTOP line whose meaning its default mode or mask changes has not qualified: no event follows and no SENSE
notice (R157, R159, log 31). -/
def storeErase (s : State) : Ans :=
  if s.tables.lock then s.refuse .locked
  else if anyRaised s.hall then s.refuse .state
  else
    let s := { s with hall := undefAll s.tables s.hall }
    ((s.setTables fun _ => Tables.default).onHall eraseHall).ans .accepted .nothing

def execStoreErase (tag : Nat) (s : State) : Result := request (.storeErase tag) tag .storeErase storeErase s

/-! ### Power-on -/

/-- R157: the masks of RFP and ESTOP are set clear when the store is reloaded. -/
def reloadSense (l : SenseLine) (c : SenseCfg) : SenseCfg :=
  match l with
  | .rfp _ | .estop => { c with mask := false }
  | _ => c

/-- R89, R157: the retained tables as power-on finds them. -/
def Tables.powerOn (k : Tables) : Tables :=
  { k with lock := false, sense := Vector.ofFn fun i => reloadSense (senseLine i) k.sense[i] }

/-- R18, R36, R56, R75, R91, R117, R119, R129, R131, R154, R157, R175, R176, R185, R193, R194, R205, R206, R214, R216: power is
applied. What is retained and the raw levels of the sense lines are taken from the state; the commands that wait stay. -/
def powerUp (s : State) : State :=
  let k := s.tables.powerOn
  { tables := k, time := TimeBase.powerOn,
    hall := Hall.powerOn k s.hall.banks s.hall.path.pos (s.hall.sense.map Sense.raw),
    link := Link.powerOn, pending := s.pending }

def execPowerOn (s : State) : Result := .next (powerUp s)

/-! ### The link -/

/-- R216: the outbound line finishes a line; the next one begins. -/
def lineSent (s : State) : State := { s with link := { s.link with sending := none }.startSend }

def execOutboundLineSent (s : State) : Result := .next (finish (lineSent s))

/-- R218: the directions a RESYNC discards. -/
def resyncIn : Dir → Bool
  | .inn | .both => true
  | .out => false

def resyncOut : Dir → Bool
  | .out | .both => true
  | .inn => false

/-- R218: the lines discarded. -/
def resyncLink (d : Dir) (l : Link) : Link :=
  let l := if resyncIn d then { l with receiving := none, waiting := none } else l
  if resyncOut d then { l with notices := [] } else l

/-- R218: DIR missing is BAD-FORM, another value RANGE. -/
def resync (dir : Option (Option Dir)) (s : State) : Ans :=
  match dir with
  | none => s.refuse .badForm
  | some none => s.refuse .range
  | some (some d) => ({ s with link := resyncLink d s.link }).ans .ok (.dir d)

/-- R218: taken at once, whatever request is in hand. -/
def resyncNow (tag : Nat) (dir : Option (Option Dir)) (s : State) : State :=
  if tagOk tag then (resync dir s).reply tag .resync else s.say 0 (some .resync) .badForm .nothing

def execResync (tag : Nat) (dir : Option (Option Dir)) (s : State) : Result := .next (finish (resyncNow tag dir s))

/-- R215: the tag of a BAD-FORM reply. -/
def badTag (tag : Option Nat) : Nat :=
  match tag with
  | some t => if tagOk t then t else 0
  | none => 0

/-- R215: a request whose form is refused; the reply carries the name its line gave, if any (log 9). -/
def requestBadForm (head : LineHead) (s : State) : State :=
  if s.busy then s.hold (.cmd (.requestBadForm head)) head.tag else s.say (badTag head.tag) head.name .badForm .nothing

def execRequestBadForm (head : LineHead) (s : State) : Result := .next (finish (requestBadForm head s))

end Sys2Proof.Machine
end

