-- ==== Sys2Proof/Machine/Lines.lean ====
section
/-! DEFINITION. Inbound lines: the checksum, the framing checks, and the request a line spells (R213 to R215). The names of
fields that the manual does not list are presumed from those it does (log 9). -/

namespace Sys2Proof.Machine

/-! ### Checksum -/

/-- R213: one bit of the CRC with generator x^16+x^12+x^5+1. -/
def crcBit (c : BitVec 16) (b : Bool) : BitVec 16 :=
  let s := c <<< 1
  if c.msb ≠ b then s ^^^ 0x1021#16 else s

/-- R213: a character's eight bits, most significant first. -/
def charBits (c : Char) : List Bool := (List.range 8).map fun i => c.toNat.testBit (7 - i)

/-- R213: from all ones, without final inversion. -/
def crc (l : List Char) : BitVec 16 := l.foldl (fun c x => (charBits x).foldl crcBit c) 0xFFFF#16

/-- R213: an upper-case hex digit. -/
def hexDigit (c : Char) : Option Nat :=
  if '0' ≤ c ∧ c ≤ '9' then some (c.toNat - 48) else if 'A' ≤ c ∧ c ≤ 'F' then some (c.toNat - 55) else none

/-- Four hex digits as a number. -/
def hexWord : List Char → Option Nat
  | [a, b, c, d] => do
      let a ← hexDigit a
      let b ← hexDigit b
      let c ← hexDigit c
      let d ← hexDigit d
      some (((a * 16 + b) * 16 + c) * 16 + d)
  | _ => none

/-! ### Pieces -/

/-- Split at every `c`. -/
def splitAt (c : Char) : List Char → List (List Char)
  | [] => [[]]
  | x :: l =>
      match splitAt c l with
      | [] => [[x]]
      | p :: ps => if x = c then [] :: p :: ps else (x :: p) :: ps

def digitOf (c : Char) : Option Nat := if '0' ≤ c ∧ c ≤ '9' then some (c.toNat - 48) else none

/-- A decimal number without separators. Leading zeros are taken (R88, log 39). -/
def numOf (l : List Char) : Option Nat :=
  if l.isEmpty then none
  else l.foldl (fun a c => a.bind fun n => (digitOf c).map fun d => n * 10 + d) (some 0)

/-- A decimal number of exactly `w` digits. -/
def numW (w : Nat) (l : List Char) : Option Nat := if l.length = w then numOf l else none

/-- YYYY-MM-DD. -/
def dateOf (l : List Char) : Option DateForm :=
  match splitAt '-' l with
  | [y, m, d] => do some ⟨← numW 4 y, ← numW 2 m, ← numW 2 d⟩
  | _ => none

/-- HH:MM:SS. -/
def timeOf (l : List Char) : Option (Nat × Nat × Nat) :=
  match splitAt ':' l with
  | [h, m, s] => do some (← numW 2 h, ← numW 2 m, ← numW 2 s)
  | _ => none

/-- YYYY-MM-DD/HHMM. -/
def instantForm (l : List Char) : Option (DateForm × Nat) :=
  match splitAt '/' l with
  | [d, m] => do some (← dateOf d, ← numW 4 m)
  | _ => none

/-- A day mask: the day's letter, or a dash. -/
def maskForm (l : List Char) : Option (BitVec 7) :=
  if l.length = 7 && (l.zip ['M', 'T', 'W', 'T', 'F', 'S', 'S']).all fun p => p.1 == p.2 || p.1 == '-' then
    some (BitVec.ofNat 7 (((l.map fun c => if c = '-' then 0 else 1).zipIdx.map fun p => p.1 * 2 ^ p.2).sum))
  else none

def yesNo (l : List Char) : Option Bool := if l = ['Y'] then some true else if l = ['N'] then some false else none

/-! ### Names of the lists -/

/-- The value of a name in a list of names; `none`: the name is outside it (RANGE). -/
def nameIn {α : Type} (t : List (String × α)) (l : List Char) : Option α :=
  (t.find? fun p => decide (p.1.toList = l)).map Prod.snd

/-- The name of a transmitter; T01 is T1 (log 39). -/
def txOf : List Char → Option Tx
  | 'T' :: l => (numOf l).bind fun n => if h : 1 ≤ n ∧ n ≤ 12 then some ⟨n - 1, by omega⟩ else none
  | _ => none

/-- The name of an output; A007 is A7 (log 39). -/
def outOf : List Char → Option Out
  | 'A' :: l => (numOf l).bind fun n => if h : 1 ≤ n ∧ n ≤ 24 then some ⟨n - 1, by omega⟩ else none
  | 'L' :: l => (numOf l).bind fun n => if h : 1 ≤ n ∧ n ≤ 4 then some ⟨n + 23, by omega⟩ else none
  | _ => none

def modeNames : List (String × Mode) := [("FULL", .full), ("REDUCED", .reduced), ("DIGITAL", .digital)]
def kindNames : List (String × ChangeKind) := [("ADD", .add), ("WITHDRAW", .withdraw), ("AMEND", .amend)]
def aspectNames : List (String × Aspect) :=
  [("INHIBIT", .inhibit), ("OUTPUT", .output), ("FREQUENCY", .frequency), ("POWER", .power)]
def senseModeNames : List (String × SenseMode) :=
  [("LEVEL-HIGH", .levelHigh), ("LEVEL-LOW", .levelLow), ("EDGE-RISE", .edgeRise), ("EDGE-FALL", .edgeFall)]
def dirNames : List (String × Dir) := [("IN", .inn), ("OUT", .out), ("BOTH", .both)]

/-- R157: ESTOP, PULSE, or a position and a kind. -/
def lineName (l : List Char) : Option SenseLine :=
  if l = "ESTOP".toList then some .estop
  else if l = "PULSE".toList then some .pulse
  else
    match splitAt '-' l with
    | [t, k] =>
        (txOf t).bind fun t => (nameIn [("RFP", SenseLine.rfp t), ("REFL", .refl t), ("ARC", .arc t), ("DOOR", .door t)] k)
    | _ => none

/-- The wire name of each request. -/
def reqNames : List (String × Req) :=
  [("BANK-OPEN", .bankOpen), ("ENTRY-PUT", .entryPut), ("ENTRY-DROP", .entryDrop), ("BANK-COMMIT", .bankCommit),
   ("BANK-UNCOMMIT", .bankUncommit), ("BANK-RELEASE", .bankRelease), ("BANK-RESTAGE", .bankRestage),
   ("BANK-STATUS", .bankStatus), ("ENTRY-GET", .entryGet), ("ENTRY-LIST", .entryList), ("CHANGE-POST", .changePost),
   ("CHANGE-LIST", .changeList), ("TIME-SET", .timeSet), ("TIME-STATUS", .timeStatus), ("ENGINE-SET", .engineSet)] ++
  [("QUIESCE", .quiesce), ("RESUME", .resume), ("ASSIGNMENT-STATUS", .assignmentStatus), ("DEFERRAL-LIST", .deferralList),
   ("EXCLUSION-ADD", .exclusionAdd), ("EXCLUSION-DROP", .exclusionDrop), ("OUTPUT-DEFINE", .outputDefine),
   ("OUTPUT-UNDEFINE", .outputUndefine), ("EXCLUSION-LIST", .exclusionList), ("OUTPUT-GET", .outputGet), ("CHECK", .check),
   ("LICENCE-LOCK", .licenceLock), ("MATRIX-STATUS", .matrixStatus), ("MOTION-LIST", .motionList),
   ("POSITIONER-SET", .positionerSet), ("PRESET-SET", .presetSet), ("POSITIONER-STATUS", .positionerStatus)] ++
  [("TX-DEFINE", .txDefine), ("TX-UNDEFINE", .txUndefine), ("TX-STATUS", .txStatus), ("SENSE-SET", .senseSet),
   ("SENSE-STATUS", .senseStatus), ("RECOVERY-SET", .recoverySet), ("HOLD-SET", .holdSet), ("HOLD-CLEAR", .holdClear),
   ("HOLD-STATUS", .holdStatus), ("PLAN-LOAD", .planLoad), ("PLAN-DROP", .planDrop), ("PLAN-GET", .planGet),
   ("PLAN-SET", .planSet), ("DIRECTIVE-STATUS", .directiveStatus), ("DIRECTIVE-POST", .directivePost),
   ("DIRECTIVE-WITHDRAW", .directiveWithdraw)] ++
  [("FAULT-CLEAR", .faultClear), ("FAULT-LIST", .faultList), ("FAULT-GET", .faultGet),
   ("FAULT-CLEAR-OVERFLOW", .faultClearOverflow), ("HALL-STATUS", .hallStatus), ("IDENTIFY", .identify),
   ("RESYNC", .resync), ("HALL-RESET", .hallReset), ("SECTION-RESET", .sectionReset), ("STORE-ERASE", .storeErase)]

/-! ### Fields -/

/-- The fields of a line, by name. -/
abbrev Fields := List (List Char × List Char)

/-- A field's value. -/
def get (fs : Fields) (n : String) : Option (List Char) := (fs.find? fun p => decide (p.1 = n.toList)).map Prod.snd

/-- A field that the request needs, in its written form. -/
def need {α : Type} (fs : Fields) (n : String) (f : List Char → Option α) : Option α := (get fs n).bind f

/-- A field that may be absent, in its written form when given. -/
def may {α : Type} (fs : Fields) (n : String) (f : List Char → Option α) : Option (Option α) :=
  match get fs n with
  | none => some none
  | some v => (f v).map some

/-- R215: a needed field whose value is a name of a list; the inner `none` is a value that no name of the list spells, which its
block answers RANGE, be it a name or not (log 65). -/
def needName {α : Type} (fs : Fields) (n : String) (f : List Char → Option α) : Option (Option α) := (get fs n).map f

/-- R215: only fields that the request has, none given twice. -/
def only (fs : Fields) (names : List String) : Bool :=
  fs.all (fun p => names.any fun n => decide (n.toList = p.1)) && decide ((fs.map Prod.fst).Nodup)

def entryNames : List String :=
  ["TX", "FREQ", "MODE", "OUT", "PRESET", "POWER", "PROG", "START", "STOP", "DAYS", "PRIO", "FROM", "UNTIL", "LEAD"]

/-- The entry part of a request (13, central record fields). -/
def entryPart (fs : Fields) (id : Nat) : Option EntryForm := do
  some { id := id, tx := ← needName fs "TX" txOf, freq := ← need fs "FREQ" numOf, mode := ← needName fs "MODE" (nameIn modeNames),
         out := ← needName fs "OUT" outOf, preset := ← may fs "PRESET" numOf, power := ← need fs "POWER" numOf,
         prog := ← need fs "PROG" numOf, start := ← need fs "START" (numW 4), stop := ← need fs "STOP" (numW 4),
         days := ← need fs "DAYS" maskForm, prio := ← need fs "PRIO" numOf, valid := ← may fs "FROM" dateOf,
         untilD := ← may fs "UNTIL" dateOf, lead := ← may fs "LEAD" numOf }

/-- The value of a plan step's hold from its aspect's parts; `none` where the parts are not the aspect's (RANGE, R184). -/
def holdForm (a : Aspect) (parts : List (List Char)) : Option HoldForm :=
  match a, parts with
  | .inhibit, [] => some .inhibit
  | .output, [o] => some (.output (outOf o) none)
  | .output, [o, p] => (numOf p).map fun n => .output (outOf o) (some n)
  | .frequency, [f, m] => (numOf f).map fun n => .frequency n (nameIn modeNames m)
  | .power, [p] => (numOf p).map .power
  | _, _ => none

/-- R177 step 1: the value of a HOLD-SET from the fields given: exactly those of the aspect, the preset as given; `none`
(RANGE) where a field of another aspect is given or one of this aspect is missing. -/
def holdFields (a : Aspect) (o : Option (Option Out)) (preset freq : Option Nat) (m : Option (Option Mode))
    (kw : Option Nat) : Option HoldForm :=
  match a, o, preset, freq, m, kw with
  | .inhibit, none, none, none, none, none => some .inhibit
  | .output, some o, p, none, none, none => some (.output o p)
  | .frequency, none, none, some f, some m, none => some (.frequency f m)
  | .power, none, none, none, none, some p => some (.power p)
  | _, _, _, _, _, _ => none

/-- One step of a PLAN-LOAD: SET;Tn;aspect;parts or CLEAR;Tn;aspect. -/
def stepForm (l : List Char) : Option StepForm :=
  match splitAt ';' l with
  | k :: t :: a :: parts =>
      if k = "SET".toList then some (.setHold (txOf t) ((nameIn aspectNames a).bind fun a => holdForm a parts))
      else if k = "CLEAR".toList && parts.isEmpty then some (.clearHold (txOf t) (nameIn aspectNames a))
      else none
  | _ => none

/-- All of a list, or nothing. -/
def allOf {α : Type} (l : List (Option α)) : Option (List α) := if l.all Option.isSome then some (l.filterMap id) else none

/-- R213: the items of a list value; an empty value is the empty list. -/
def listOf (l : List Char) : List (List Char) := if l.isEmpty then [] else splitAt ',' l

/-- R120: an azimuth, or UNDEFINED. -/
def azForm (l : List Char) : Option (Option Nat) := if l = "UNDEFINED".toList then some none else (numOf l).map some

/-! ### Requests -/

/-- Requests on banks and the change queue. -/
def storeRequest (r : Req) (tag : Nat) (fs : Fields) : Option Instr :=
  let bank := need fs "BANK" numOf
  match r with
  | .bankOpen => if only fs ["BANK", "LABEL"] then do some (.bankOpen tag (← bank) (get fs "LABEL")) else none
  | .entryPut =>
      if only fs ("BANK" :: "ID" :: entryNames) then do
        some (.entryPut tag (← bank) (← entryPart fs (← need fs "ID" numOf))) else none
  | .entryDrop => if only fs ["BANK", "ID"] then do some (.entryDrop tag (← bank) (← need fs "ID" numOf)) else none
  | .bankCommit =>
      if only fs ["BANK", "START"] then do
        let i ← need fs "START" instantForm
        some (.bankCommit tag (← bank) i.1 i.2) else none
  | .bankUncommit => if only fs ["BANK"] then do some (.bankUncommit tag (← bank)) else none
  | .bankRelease => if only fs ["BANK"] then do some (.bankRelease tag (← bank)) else none
  | .bankRestage => if only fs ["BANK", "LABEL"] then do some (.bankRestage tag (← bank) (get fs "LABEL")) else none
  | .bankStatus => if only fs ["BANK"] then do some (.bankStatus tag (← bank)) else none
  | .entryGet => if only fs ["BANK", "ID"] then do some (.entryGet tag (← bank) (← need fs "ID" numOf)) else none
  | .entryList => if only fs ["BANK", "FIRST"] then do some (.entryList tag (← bank) (← need fs "FIRST" numOf)) else none
  | .changePost =>
      if only fs ("BANK" :: "KIND" :: "ID" :: entryNames) then do
        let id ← need fs "ID" numOf
        let kind ← needName fs "KIND" (nameIn kindNames)
        let bare := entryNames.all fun n => (get fs n).isNone
        let e ← if bare then some none else (entryPart fs id).map some
        some (.changePost tag (← bank) kind id e) else none
  | .changeList => if only fs [] then some (.changeList tag) else none
  | _ => none

/-- R88: the fields of CHECK. -/
def checkNames : List String := ["FREQUENCY", "MODE", "OUTPUT", "POWER", "TRANSMITTER"]

/-- Requests on time, the engine and the Frequency Check. -/
def engineRequest (r : Req) (tag : Nat) (fs : Fields) : Option Instr :=
  match r with
  | .timeSet =>
      if only fs ["DATE", "TIME"] then do
        let d ← need fs "DATE" dateOf
        let t ← need fs "TIME" timeOf
        some (.timeSet tag d t.1 t.2.1 t.2.2) else none
  | .timeStatus => if only fs [] then some (.timeStatus tag) else none
  | .engineSet =>
      if only fs ["LEAD", "COOL"] then do some (.engineSet tag (← may fs "LEAD" numOf) (← may fs "COOL" numOf)) else none
  | .quiesce => if only fs [] then some (.quiesce tag) else none
  | .resume => if only fs [] then some (.resume tag) else none
  | .assignmentStatus => if only fs ["TX"] then do some (.assignmentStatus tag (← needName fs "TX" txOf)) else none
  | .deferralList => if only fs [] then some (.deferralList tag) else none
  | .exclusionAdd =>
      if only fs ["LOW", "HIGH", "MODES"] then do
        some (.exclusionAdd tag (← need fs "LOW" numOf) (← need fs "HIGH" numOf)
          ((get fs "MODES").map fun l => (listOf l).map (nameIn modeNames))) else none
  | .exclusionDrop => if only fs ["INDEX"] then do some (.exclusionDrop tag (← need fs "INDEX" numOf)) else none
  | .outputDefine =>
      if only fs ["OUT", "LOW", "HIGH", "RATING", "THROW", "SLEW"] then do
        some (.outputDefine tag (← needName fs "OUT" outOf) (← may fs "LOW" numOf) (← may fs "HIGH" numOf)
          (← may fs "RATING" numOf) (← may fs "THROW" numOf) (← may fs "SLEW" yesNo)) else none
  | .outputUndefine => if only fs ["OUT"] then do some (.outputUndefine tag (← needName fs "OUT" outOf)) else none
  | .exclusionList => if only fs [] then some (.exclusionList tag) else none
  | .outputGet => if only fs ["OUT"] then do some (.outputGet tag (← needName fs "OUT" outOf)) else none
  | .check =>
      if only fs checkNames then do
        some (.check tag (← needName fs "FREQUENCY" numOf) (← needName fs "MODE" (nameIn modeNames))
          (← needName fs "OUTPUT" outOf) (← needName fs "POWER" numOf) ((get fs "TRANSMITTER").map txOf)) else none
  | .licenceLock => if only fs [] then some (.licenceLock tag) else none
  | _ => none

/-- Requests on the matrix, positioners, transmitters and sense lines. -/
def plantRequest (r : Req) (tag : Nat) (fs : Fields) : Option Instr :=
  let out := needName fs "OUT" outOf
  let tx := needName fs "TX" txOf
  match r with
  | .matrixStatus =>
      match get fs "OUT", get fs "TX" with
      | some o, none => if only fs ["OUT"] then some (.matrixStatus tag ((outOf o).map .out)) else none
      | none, some t => if only fs ["TX"] then some (.matrixStatus tag ((txOf t).map .tx)) else none
      | _, _ => none
  | .motionList => if only fs [] then some (.motionList tag) else none
  | .positionerSet =>
      if only fs ["OUT", "LINE", "RATE"] then do
        some (.positionerSet tag (← out) (← may fs "LINE" numOf) (← may fs "RATE" numOf)) else none
  | .presetSet =>
      if only fs ["OUT", "PRESET", "AZ"] then do
        some (.presetSet tag (← out) (← need fs "PRESET" numOf) (← need fs "AZ" azForm)) else none
  | .positionerStatus => if only fs ["OUT"] then do some (.positionerStatus tag (← out)) else none
  | .txDefine =>
      if only fs ["TX", "RATING", "WARM", "TUNE", "RAISE", "LOWER"] then do
        some (.txDefine tag (← tx) (← may fs "RATING" numOf) (← may fs "WARM" numOf) (← may fs "TUNE" numOf)
          (← may fs "RAISE" numOf) (← may fs "LOWER" numOf)) else none
  | .txUndefine => if only fs ["TX"] then do some (.txUndefine tag (← tx)) else none
  | .txStatus => if only fs ["TX"] then do some (.txStatus tag (← tx)) else none
  | .senseSet =>
      if only fs ["LINE", "MODE", "MASK", "QUAL"] then do
        some (.senseSet tag (← needName fs "LINE" lineName) ((get fs "MODE").map (nameIn senseModeNames))
          (← may fs "MASK" yesNo) (← may fs "QUAL" numOf)) else none
  | .senseStatus =>
      match get fs "LINE", get fs "TX" with
      | some l, none => if only fs ["LINE"] then some (.senseStatus tag ((lineName l).map .line)) else none
      | none, some t => if only fs ["TX"] then some (.senseStatus tag ((txOf t).map .position)) else none
      | _, _ => none
  | .recoverySet =>
      if only fs ["DELAY", "RETRIES", "WINDOW", "FOLDBACK"] then do
        some (.recoverySet tag (← may fs "DELAY" numOf) (← may fs "RETRIES" numOf) (← may fs "WINDOW" numOf)
          (← may fs "FOLDBACK" numOf)) else none
  | _ => none

/-- Requests on holds, plans, faults and the hall. -/
def hallRequest (r : Req) (tag : Nat) (fs : Fields) : Option Instr :=
  let tx := needName fs "TX" txOf
  let aspect := needName fs "ASPECT" (nameIn aspectNames)
  let plan := need fs "PLAN" numOf
  match r with
  | .holdSet =>
      if only fs ["TX", "ASPECT", "OUT", "PRESET", "FREQ", "MODE", "POWER"] then do
        let a ← aspect
        let p ← may fs "PRESET" numOf
        let f ← may fs "FREQ" numOf
        let w ← may fs "POWER" numOf
        some (.holdSet tag (← tx) (a.bind fun a =>
          holdFields a ((get fs "OUT").map outOf) p f ((get fs "MODE").map (nameIn modeNames)) w)) else none
  | .holdClear => if only fs ["TX", "ASPECT"] then do some (.holdClear tag (← tx) (← aspect)) else none
  | .holdStatus => if only fs ["TX"] then some (.holdStatus tag ((get fs "TX").map txOf)) else none
  | .planLoad =>
      if only fs ["PLAN", "STEPS"] then do
        some (.planLoad tag (← plan) (← need fs "STEPS" fun l => allOf ((listOf l).map stepForm))) else none
  | .planDrop => if only fs ["PLAN"] then do some (.planDrop tag (← plan)) else none
  | .planGet => if only fs ["PLAN"] then do some (.planGet tag (← plan)) else none
  | .planSet => if only fs ["STEP"] then do some (.planSet tag (← may fs "STEP" numOf)) else none
  | .directiveStatus => if only fs [] then some (.directiveStatus tag) else none
  | .directivePost => if only fs ["PLAN"] then do some (.directivePost tag (← plan)) else none
  | .directiveWithdraw => if only fs [] then some (.directiveWithdraw tag) else none
  | .faultClear => if only fs ["SEQ"] then do some (.faultClear tag (← need fs "SEQ" numOf)) else none
  | .faultList => if only fs ["FIRST"] then do some (.faultList tag (← need fs "FIRST" numOf)) else none
  | .faultGet => if only fs ["SEQ"] then do some (.faultGet tag (← need fs "SEQ" numOf)) else none
  | .faultClearOverflow => if only fs [] then some (.faultClearOverflow tag) else none
  | .hallStatus => if only fs [] then some (.hallStatus tag) else none
  | .identify => if only fs [] then some (.identify tag) else none
  | .resync => if only fs ["DIR"] then some (.resync tag ((get fs "DIR").map (nameIn dirNames))) else none
  | .hallReset => if only fs [] then some (.hallReset tag) else none
  | .sectionReset => if only fs ["TX"] then do some (.sectionReset tag (← tx)) else none
  | .storeErase => if only fs [] then some (.storeErase tag) else none
  | _ => none

/-- R215: the command a well-formed request spells. -/
def requestOf (r : Req) (tag : Nat) (fs : Fields) : Option Instr :=
  ((storeRequest r tag fs).or (engineRequest r tag fs)).or ((plantRequest r tag fs).or (hallRequest r tag fs))

/-! ### Lines -/

/-- R213: NAME=value; the name is not empty. A second equals sign is no written form (BAD-FORM); another character that a value may
not hold is left to the request, and a season label with one is RANGE (R5, log 39). -/
def fieldOf (l : List Char) : Option (List Char × List Char) :=
  match splitAt '=' l with
  | [n, v] => if n.isEmpty then none else some (n, v)
  | _ => none

/-- A field written with an empty value is no written form of it (BAD-FORM), but for a season label, which may be empty (R4), and
where the request's own rule answers RANGE for such a value: an empty list of EXCLUSION-ADD or PLAN-LOAD (R78, R184); log 39.
CHECK's fields have their own form. -/
def emptyOk (r : Req) (f : List Char × List Char) : Bool :=
  !f.2.isEmpty || decide (f.1 = "LABEL".toList) ||
  (decide (r = .exclusionAdd) && decide (f.1 = "MODES".toList)) || (decide (r = .planLoad) && decide (f.1 = "STEPS".toList))

/-- The characters before the checksum. -/
def bodyOf (l : List Char) : List Char := l.take (l.length - 5)

/-- R213, R214: a line's pieces. -/
def piecesOf (l : List Char) : List (List Char) := splitAt ' ' (bodyOf l)

/-- R215: the tag of a request, when it is readable. -/
def lineTag (l : List Char) : Option Nat :=
  match piecesOf l with
  | (_ :: t) :: _ => numOf t
  | _ => none

/-- R215: the name a line gives, a request's or another. -/
def lineReq (l : List Char) : Option Req :=
  match piecesOf l with
  | _ :: n :: _ => if n.isEmpty then none else some ((nameIn reqNames n).getD (.other n))
  | _ => none

/-- A piece of a CHECK as written: its name, and all that follows its first `=`. -/
def checkPiece (l : List Char) : List Char × List Char :=
  (l.takeWhile fun c => decide (c ≠ '='), (l.dropWhile fun c => decide (c ≠ '=')).tail)

/-- A piece that is no NAME=value and names no field of CHECK. -/
def strayPiece (l : List Char) : Bool :=
  let n := (checkPiece l).1
  (n.isEmpty || !l.contains '=') && !checkNames.any fun m => decide (m.toList = n)

/-- R88, R213, R215: CHECK from its pieces. One outside the form of a field makes the request RANGE; a field that CHECK does not
have, one given twice and one missing are of the line's form (log 39). -/
def checkForm (tag : Nat) (ps : List (List Char)) : Option Instr :=
  match engineRequest .check tag ((ps.filter fun p => !strayPiece p).map checkPiece) with
  | some (.check t f m o p x) => some (.check t (if ps.any strayPiece then none else f) m o p x)
  | _ => none

/-- R215: the request a line that passed R214 spells, when its form is right. -/
def formOf (l : List Char) : Option Instr :=
  match piecesOf l with
  | ('#' :: t) :: n :: fs => do
      let tag ← numOf t
      let r ← nameIn reqNames n
      if r = .check then if tagOk tag then checkForm tag fs else none
      else
        let fs ← allOf (fs.map fieldOf)
        if tagOk tag && fs.all (emptyOk r) then requestOf r tag fs else none
  | _ => none

/-- R215: the command of a line: its request, or the BAD-FORM of its form. -/
def parseLine (l : List Char) : Instr := (formOf l).getD (.requestBadForm ⟨lineTag l, lineReq l⟩)

/-- R214 step 2: only characters from space to tilde, and a checksum that matches. -/
def checksumOk (l : List Char) : Bool :=
  l.all (fun c => decide (' ' ≤ c) && decide (c ≤ '~')) &&
  match l.drop (l.length - 5) with
  | '*' :: h => decide (6 ≤ l.length) && hexWord h == some (crc (bodyOf l).tail).toNat
  | _ => false

/-- R214: the tag of a LINK-ERROR: one to three digits after the lead; of a longer run of digits the first three (log 64). -/
def errTag (l : List Char) : Option Nat := numOf (l.tail.takeWhile (fun c => (digitOf c).isSome) |>.take 3)

/-- R214 step 3: the line's name is RESYNC. -/
def isResync (l : List Char) : Bool :=
  match piecesOf l with
  | ('#' :: _) :: n :: _ => decide (n = "RESYNC".toList)
  | _ => false

/-- R218: a RESYNC line is acted on at once. -/
def resyncLine (l : List Char) (s : State) : State :=
  match formOf l with
  | some (.resync tag dir) => resyncNow tag dir s
  | _ => s.say (badTag (lineTag l)) (some .resync) .badForm .nothing

/-- R214: a completed line. The first CR LF since power-on ends what was begun before it. -/
def takeLine (l : List Char) (s : State) : State :=
  if l.isEmpty then s
  else if Config.maxLine < l.length then s.note (.linkError .length (errTag l))
  else if !checksumOk l then s.note (.linkError .checksum (errTag l))
  else if isResync l then resyncLine l s
  else s.hold (.text l) (errTag l)

/-- R214. -/
def lineComplete (l : List Char) (s : State) : State :=
  if s.link.synced then takeLine l s else { s with link := { s.link with synced := true } }

def execLineComplete (l : List Char) (s : State) : Result := .next (finish (lineComplete l s))

/-- What the waiting buffer holds, as a command. -/
def heldCommand : Held → Instr
  | .text l => parseLine l
  | .cmd i => i

end Sys2Proof.Machine
end

