-- ==== Sys2Proof/Machine/Ticks.lean ====
section
/-! DEFINITION. One millisecond of the part's own time: the interval timer, the clock, the slew, and the time events that
fall due (R36, R37, R41, R134; log 1, log 2); and the request that waits in the waiting buffer (R214, log 7). -/

namespace Sys2Proof.Machine

/-- R37, R41: the clock units of one millisecond. -/
def advance (slew : Option Int) : Nat :=
  match slew with
  | some d => if 0 < d then 11 else if d < 0 then 9 else 10
  | none => 10

/-- R41: the offset falls toward zero. -/
def workOff (d : Int) : Int := if 0 < d then d - 1 else if d < 0 then d + 1 else 0

def TimeBase.tick (t : TimeBase) : TimeBase :=
  { t with now := t.now + 1, clock := t.clock + advance t.slew, slew := t.slew.map workOff }

/-- All sense lines. -/
def allLines : List SenseLine := (idxs 50).map senseLine

/-- R37: a minute boundary was passed. -/
def dueMinute (before after : ClockTick) : List Instr :=
  if before / ticksPerMin < after / ticksPerMin then [.minuteEvent] else []

def dueSense (e : Env) (h : Hall) : List Instr :=
  (allLines.filter fun l => (dueLevel e h l).isSome).map .qualificationTimerExpiry

/-- R39, R41. -/
def dueClock (t : TimeBase) : List Instr :=
  (if t.slew = some 0 then [.slewWorkedOff] else []) ++ (if reached t.now t.absence then [.pulseAbsenceTimeout] else [])

/-- The timeouts of one transmitter's order. -/
def dueOrder (e : Env) (h : Hall) (t : Tx) : List Instr :=
  match lateOrder e h t fun _ => true with
  | none => []
  | some o =>
    match o.kind with
    | .warm => [.warmTimeout t]
    | .tune _ _ _ => [.tuneTimeout t]
    | .raise _ => [.raiseTimeout t]
    | .lower => [.lowerTimeout t]
    | .cool => [.coolTimeout t]
    | .clearTrip => [.clearTripTimeout t]

/-- R134: a reply not come within its limit, and the line's slot, every 250 ms. -/
def dueExchange (e : Env) (h : Hall) (t : Tx) : List Instr :=
  (if (h.tx[t]).exch.any fun x => decide (x.sentAt + Config.replyMs ≤ e.now) then [.missedReply t] else []) ++
  (if txDefined e.k h t && decide (e.now % Config.slotMs = 0) then [.cabinetSlot t] else [])

/-- R74, R167, R169, R207. -/
def dueTx (e : Env) (h : Hall) (t : Tx) : List Instr :=
  let r := h.tx[t]
  dueOrder e h t ++ dueExchange e h t ++
  (if r.window.any fun w => decide (w.at_ + e.k.rcv.window * 60000 ≤ e.now) then [.tripWindowEntryExpiry t] else []) ++
  (if decide (r.rcv.stage = .waiting) && reached e.now r.rcv.expiry then [.recoveryDelayExpiry t] else []) ++
  (if idleDue e h t then [.idleTimerExpiry t] else []) ++
  (if unjudged h t && !(h.adopt[t]).lapsed && lapseDue e h t then [.adoptionConditionLapse t] else [])

/-- R93, R121, R122, R126. -/
def dueOut (e : Env) (h : Hall) (o : Out) : List Instr :=
  let c := h.path.cols[o]
  (if (ColJob.late c.adopt e.now).isSome || (ColJob.late c.clear e.now).isSome then [.readTimeout o] else []) ++
  (if (dueJob h o fun _ j => reached e.now j.query).isSome then [.queryTimeout o] else []) ++
  (if (dueJob h o fun _ j => reached e.now j.again).isSome then [.queryRepeat o] else []) ++
  (if (dueJob h o fun p j => (j.query.isSome || j.again.isSome) && decide (j.began + fullTravel p ≤ e.now)).isSome then
    [.readFullTravelTimeout o] else []) ++
  (if (slewSlot h o).any fun s => decide (s.start + s.timeout ≤ e.now) then [.slewTimeout o] else [])

/-- R100, R112: throws whose timeout has passed. -/
def dueThrows (e : Env) (h : Hall) : List Instr :=
  (slotList h).filterMap fun s =>
    if s.start + s.timeout ≤ e.now then
      match s.motion.kind with
      | .make t o | .brk t o => some (.throwTimeout t o)
      | .slew _ _ => none
    else none

def duePlan (e : Env) (h : Hall) : List Instr :=
  if h.running.any fun r => decide (r.start + r.timeout ≤ e.now) then [.planStepTimeout] else []

/-- The time events that have fallen due, in the order in which they are taken (log 2). -/
def dueEvents (before : ClockTick) (e : Env) (h : Hall) : List Instr :=
  dueMinute before e.tm.clock ++ dueClock e.tm ++ dueSense e h ++ dueThrows e h ++ allOut.flatMap (dueOut e h) ++
  allTx.flatMap (dueTx e h) ++ duePlan e h

/-- One millisecond: the time events that fall due join the queue. -/
def tick (s : State) : State :=
  let s' := s.setTime TimeBase.tick
  { s' with pending := s'.pending ++ dueEvents s.time.clock s'.env s'.hall }

/-- R214, R215: the request in the waiting buffer is taken, when no request is in hand. -/
def takeWaiting (s : State) : Option (Instr × State) :=
  match s.link.waiting with
  | some w => if s.hall.clear.isSome then none else some (heldCommand w, { s with link := { s.link with waiting := none } })
  | none => none

end Sys2Proof.Machine
end

