-- ==== Sys2Proof/Machine/Dispatch.lean ====
section
/-! DEFINITION. The meaning of every command. -/

namespace Sys2Proof.Machine

def exec (i : Instr) (s : State) : Host.Outcome State Fault Refusal :=
  match i with
  | .powerOn => Sys2Proof.Machine.execPowerOn s
  | .lineComplete chars => Sys2Proof.Machine.execLineComplete chars s
  | .requestBadForm head => Sys2Proof.Machine.execRequestBadForm head s
  | .outboundLineSent => Sys2Proof.Machine.execOutboundLineSent s
  | .bankOpen tag bank label => Sys2Proof.Machine.execBankOpen tag bank label s
  | .entryPut tag bank entry => Sys2Proof.Machine.execEntryPut tag bank entry s
  | .entryDrop tag bank id => Sys2Proof.Machine.execEntryDrop tag bank id s
  | .bankCommit tag bank date hhmm => Sys2Proof.Machine.execBankCommit tag bank date hhmm s
  | .bankUncommit tag bank => Sys2Proof.Machine.execBankUncommit tag bank s
  | .bankRelease tag bank => Sys2Proof.Machine.execBankRelease tag bank s
  | .bankRestage tag bank label => Sys2Proof.Machine.execBankRestage tag bank label s
  | .bankStatus tag bank => Sys2Proof.Machine.execBankStatus tag bank s
  | .entryGet tag bank id => Sys2Proof.Machine.execEntryGet tag bank id s
  | .entryList tag bank first => Sys2Proof.Machine.execEntryList tag bank first s
  | .changePost tag bank kind id entry => Sys2Proof.Machine.execChangePost tag bank kind id entry s
  | .changeList tag => Sys2Proof.Machine.execChangeList tag s
  | .timeSet tag date h m sec => Sys2Proof.Machine.execTimeSet tag date h m sec s
  | .timeStatus tag => Sys2Proof.Machine.execTimeStatus tag s
  | .minuteEvent => Sys2Proof.Machine.execMinuteEvent s
  | .slewWorkedOff => Sys2Proof.Machine.execSlewWorkedOff s
  | .pulseAbsenceTimeout => Sys2Proof.Machine.execPulseAbsenceTimeout s
  | .engineSet tag lead cool => Sys2Proof.Machine.execEngineSet tag lead cool s
  | .quiesce tag => Sys2Proof.Machine.execQuiesce tag s
  | .resume tag => Sys2Proof.Machine.execResume tag s
  | .assignmentStatus tag t => Sys2Proof.Machine.execAssignmentStatus tag t s
  | .deferralList tag => Sys2Proof.Machine.execDeferralList tag s
  | .idleTimerExpiry t => Sys2Proof.Machine.execIdleTimerExpiry t s
  | .exclusionAdd tag low high modes => Sys2Proof.Machine.execExclusionAdd tag low high modes s
  | .exclusionDrop tag index => Sys2Proof.Machine.execExclusionDrop tag index s
  | .outputDefine tag o low high rating throw slew => Sys2Proof.Machine.execOutputDefine tag o low high rating throw slew s
  | .outputUndefine tag o => Sys2Proof.Machine.execOutputUndefine tag o s
  | .exclusionList tag => Sys2Proof.Machine.execExclusionList tag s
  | .outputGet tag o => Sys2Proof.Machine.execOutputGet tag o s
  | .check tag freq mode o power t => Sys2Proof.Machine.execCheck tag freq mode o power t s
  | .licenceLock tag => Sys2Proof.Machine.execLicenceLock tag s
  | .columnReport o rows => Sys2Proof.Machine.execColumnReport o rows s
  | .readTimeout o => Sys2Proof.Machine.execReadTimeout o s
  | .throwTimeout t o => Sys2Proof.Machine.execThrowTimeout t o s
  | .matrixStatus tag subject => Sys2Proof.Machine.execMatrixStatus tag subject s
  | .motionList tag => Sys2Proof.Machine.execMotionList tag s
  | .positionerSet tag o line rate => Sys2Proof.Machine.execPositionerSet tag o line rate s
  | .presetSet tag o preset az => Sys2Proof.Machine.execPresetSet tag o preset az s
  | .positionerStatus tag o => Sys2Proof.Machine.execPositionerStatus tag o s
  | .positionerReport line report => Sys2Proof.Machine.execPositionerReport line report s
  | .queryTimeout o => Sys2Proof.Machine.execQueryTimeout o s
  | .queryRepeat o => Sys2Proof.Machine.execQueryRepeat o s
  | .readFullTravelTimeout o => Sys2Proof.Machine.execReadFullTravelTimeout o s
  | .slewTimeout o => Sys2Proof.Machine.execSlewTimeout o s
  | .txDefine tag t rating warm tune raise lower => Sys2Proof.Machine.execTxDefine tag t rating warm tune raise lower s
  | .txUndefine tag t => Sys2Proof.Machine.execTxUndefine tag t s
  | .txStatus tag t => Sys2Proof.Machine.execTxStatus tag t s
  | .cabinetSlot t => Sys2Proof.Machine.execCabinetSlot t s
  | .cabinetReply t r => Sys2Proof.Machine.execCabinetReply t r s
  | .missedReply t => Sys2Proof.Machine.execMissedReply t s
  | .warmTimeout t => Sys2Proof.Machine.execWarmTimeout t s
  | .tuneTimeout t => Sys2Proof.Machine.execTuneTimeout t s
  | .raiseTimeout t => Sys2Proof.Machine.execRaiseTimeout t s
  | .lowerTimeout t => Sys2Proof.Machine.execLowerTimeout t s
  | .coolTimeout t => Sys2Proof.Machine.execCoolTimeout t s
  | .clearTripTimeout t => Sys2Proof.Machine.execClearTripTimeout t s
  | .senseRawChange l high => Sys2Proof.Machine.execSenseRawChange l high s
  | .qualificationTimerExpiry l => Sys2Proof.Machine.execQualificationTimerExpiry l s
  | .senseSet tag l mode mask qual => Sys2Proof.Machine.execSenseSet tag l mode mask qual s
  | .senseStatus tag subject => Sys2Proof.Machine.execSenseStatus tag subject s
  | .recoverySet tag delay retries window foldback => Sys2Proof.Machine.execRecoverySet tag delay retries window foldback s
  | .tripWindowEntryExpiry t => Sys2Proof.Machine.execTripWindowEntryExpiry t s
  | .recoveryDelayExpiry t => Sys2Proof.Machine.execRecoveryDelayExpiry t s
  | .holdSet tag t v => Sys2Proof.Machine.execHoldSet tag t v s
  | .holdClear tag t a => Sys2Proof.Machine.execHoldClear tag t a s
  | .holdStatus tag t => Sys2Proof.Machine.execHoldStatus tag t s
  | .planLoad tag plan steps => Sys2Proof.Machine.execPlanLoad tag plan steps s
  | .planDrop tag plan => Sys2Proof.Machine.execPlanDrop tag plan s
  | .planGet tag plan => Sys2Proof.Machine.execPlanGet tag plan s
  | .planSet tag step => Sys2Proof.Machine.execPlanSet tag step s
  | .directiveStatus tag => Sys2Proof.Machine.execDirectiveStatus tag s
  | .directivePost tag plan => Sys2Proof.Machine.execDirectivePost tag plan s
  | .directiveWithdraw tag => Sys2Proof.Machine.execDirectiveWithdraw tag s
  | .planStepTimeout => Sys2Proof.Machine.execPlanStepTimeout s
  | .faultClear tag seq => Sys2Proof.Machine.execFaultClear tag seq s
  | .faultList tag first => Sys2Proof.Machine.execFaultList tag first s
  | .faultGet tag seq => Sys2Proof.Machine.execFaultGet tag seq s
  | .faultClearOverflow tag => Sys2Proof.Machine.execFaultClearOverflow tag s
  | .adoptionConditionLapse t => Sys2Proof.Machine.execAdoptionConditionLapse t s
  | .hallStatus tag => Sys2Proof.Machine.execHallStatus tag s
  | .identify tag => Sys2Proof.Machine.execIdentify tag s
  | .resync tag dir => Sys2Proof.Machine.execResync tag dir s
  | .hallReset tag => Sys2Proof.Machine.execHallReset tag s
  | .sectionReset tag t => Sys2Proof.Machine.execSectionReset tag t s
  | .storeErase tag => Sys2Proof.Machine.execStoreErase tag s

end Sys2Proof.Machine
end

