-- ==== Sys2Proof/Machine/Step.lean ====
section
/-! DEFINITION. One step: the command at the front of the queue; on an empty queue the request that waits in the waiting
buffer, or else one millisecond of the part's own time (log 2, log 7). -/

namespace Sys2Proof.Machine

def step (s : State) : Host.Outcome State Fault Refusal :=
  match s.pending with
  | i :: rest => exec i { s with pending := rest }
  | [] =>
    match takeWaiting s with
    | some w => exec w.1 w.2
    | none => .next (tick s)

/-- No row of the command table has bits, so no word spells a command. -/
def State.withFetchWord (s : State) (_nbits _w : Nat) : State := s

end Sys2Proof.Machine
end

