-- ==== Sys2Proof/Machine/Render.lean ====
section
/-! DEFINITION. Outbound lines: the characters of a reply and of a notice (R213, R215, R216). The field names of the three
central records are the manual's (13, central record fields); the others, and the way items of a list are put together,
are presumed in its manner (log 9). -/

namespace Sys2Proof.Machine

/-- R45: a signed difference in clock units as seconds to a tenth. -/
def tenthsText (d : Int) : Text :=
  (if d < 0 then ['-'] else []) ++ dec (d.natAbs / 10) ++ '.' :: dec (d.natAbs % 10)

/-- The first day of a year, counted from 0000-01-01 (log 1). -/
def yearStart (y : Nat) : Day := 365 * y + (y + 3) / 4 - (y + 99) / 100 + (y + 399) / 400
/-- The calendar year of a day. -/
def yearOf (d : Day) : Nat :=
  let y := d * 400 / 146097
  if yearStart (y + 1) ≤ d then y + 1 else if yearStart y ≤ d then y else y - 1
/-- YYYY-MM-DD; the inverse of `dayOf`. -/
def dateText (d : Day) : Text :=
  let y := yearOf d
  let r := d - yearStart y
  let m := ((List.range 12).filter fun i => decide (daysBefore y (i + 1) ≤ r)).length
  decW 4 y ++ '-' :: decW 2 m ++ '-' :: decW 2 (r - daysBefore y m + 1)
/-- HHMM of a minute of the day. -/
def minuteText (m : Nat) : Text := decW 2 (m / 60) ++ decW 2 (m % 60)
/-- YYYY-MM-DD/HHMM. -/
def instantText (m : Minutes) : Text := dateText (m / 1440) ++ '/' :: minuteText (m % 1440)
/-- YYYY-MM-DD/HH:MM:SS. -/
def readingText (x : Seconds) : Text :=
  dateText (x / 86400) ++ '/' :: decW 2 (x % 86400 / 3600) ++ ':' :: decW 2 (x % 3600 / 60) ++ ':' :: decW 2 (x % 60)
/-- Bank/id/date. -/
def occText (o : Occ) : Text := dec (o.bank.val + 1) ++ '/' :: dec o.id ++ '/' :: dateText o.day
/-- Seven letters from Monday, a dash for an absent day. -/
def maskText (m : BitVec 7) : Text :=
  (['M', 'T', 'W', 'T', 'F', 'S', 'S'].zipIdx).map fun p => if m.getLsbD p.2 then p.1 else '-'
def hexText (n : Nat) : Text := ("0123456789ABCDEF".toList.drop (n % 16)).take 1
/-- R213: four upper-case hex digits. -/
def hex4 (n : Nat) : Text := hexText (n / 4096) ++ hexText (n / 256) ++ hexText (n / 16) ++ hexText n

/-! ### Names of things -/

def xptText (t : Tx) (o : Out) : Text := txText t ++ '/' :: outText o
def modeText (m : Mode) : Text := nameFor modeNames m
def aspectText (a : Aspect) : Text := nameFor aspectNames a
def senseText : SenseLine → Text
  | .rfp t => txText t ++ Text.of "-RFP"
  | .refl t => txText t ++ Text.of "-REFL"
  | .arc t => txText t ++ Text.of "-ARC"
  | .door t => txText t ++ Text.of "-DOOR"
  | .estop => Text.of "ESTOP"
  | .pulse => Text.of "PULSE"

/-- The name of a request: one of the manual's, or the name a line gave. -/
def reqText : Req → Text
  | .other n => n
  | r => nameFor reqNames r

def statusNames : List (String × Status) :=
  [("OK", .ok), ("ACCEPTED", .accepted), ("BAD-FORM", .badForm), ("RANGE", .range), ("STATE", .state),
   ("CONFLICT", .conflict), ("FULL", .full), ("NOT-FOUND", .notFound), ("LOCKED", .locked), ("BUSY", .busy),
   ("TOO-LATE", .tooLate), ("EXCLUDED", .excluded)]
def bankStateNames : List (String × BankState) :=
  [("EMPTY", .empty), ("STAGING", .staging), ("COMMITTED", .committed), ("ACTIVE", .active), ("RETIRING", .retiring),
   ("SPENT", .spent)]
def hallModeNames : List (String × HallMode) :=
  [("ADOPTING", .adopting), ("RUNNING", .running), ("QUIESCENT", .quiescent)]
def clockNames : List (String × ClockState) := [("UNSET", .unset), ("LOCKED", .locked), ("FREE", .free)]
def timeOutcomeNames : List (String × TimeOutcome) :=
  [("UNCHANGED", .unchanged), ("SLEWED", .slewed), ("STEPPED", .stepped), ("SET", .set)]
def endNames : List (String × EndOutcome) :=
  [("COMPLETED", .completed), ("MISSED", .missed), ("WITHDRAWN", .withdrawn), ("FAILED", .failed),
   ("PREEMPTED", .preempted), ("CHANGEOVER", .changeover), ("ABORTED", .aborted), ("LOCKED-OUT", .lockedOut)]
def stackReasonNames : List (String × StackReason) :=
  [("PREEMPTED-TX", .preemptedTx), ("PREEMPTED-OUTPUT", .preemptedOutput), ("RESERVED-BY-HOLD", .reservedByHold),
   ("LOCAL", .isLocal)]
def deferReasonNames : List (String × DeferReason) :=
  [("TX-BUSY", .txBusy), ("OUTPUT-BUSY", .outputBusy), ("TX-BLOCKED", .txBlocked), ("OUTPUT-BLOCKED", .outputBlocked)]
def originNames : List (String × Origin) :=
  [("SCAN", .scan), ("STACK", .stack), ("DEFERRAL", .deferral), ("ADOPTION", .adoption)]
def xstateNames : List (String × XState) :=
  [("OPEN", .opened), ("CLOSING", .closing), ("CLOSED", .closed), ("OPENING", .opening), ("UNKNOWN", .unknown)]
def outStateNames : List (String × OutState) :=
  [("FREE", .free), ("PARKED", .parked), ("CLAIMED", .claimed), ("FAULTED", .faulted)]
def xcauseNames : List (String × XCause) :=
  [("THROW", .throw), ("READ", .read), ("REST", .rest), ("TIMEOUT", .timeout), ("HOT", .hot), ("CLEAR", .clear)]
def posCauseNames : List (String × PosCause) :=
  [("SLEW", .slew), ("READ", .read), ("TIMEOUT", .timeout), ("STOPPED", .stopped), ("HOT", .hot), ("CLEAR", .clear)]
def txCauseNames : List (String × TxCause) :=
  [("ORDER", .order), ("TIMEOUT", .timeout), ("CONDITION", .condition), ("LOCAL", .isLocal), ("LOSS", .loss),
   ("CONTACT", .contact), ("DEFINE", .define), ("TRIP", .trip), ("RESET", .reset)]
def seqStageNames : List (String × SeqStage) :=
  [("IDLE", .idle), ("SETTLING", .settling), ("PERMITS", .permits), ("BREAKING", .breaking), ("MAKING", .making),
   ("REDIRECTING", .redirecting), ("CANCELLING", .cancelling)]
def txStateNames : List (String × TxState) :=
  [("ABSENT", .absent), ("UNREACHABLE", .unreachable), ("LOCAL", .isLocal), ("COLD", .cold), ("WARMING", .warming),
   ("STANDBY", .standby), ("TUNING", .tuning), ("READY", .ready), ("RAISING", .raising), ("ON_AIR", .onAir),
   ("LOWERING", .lowering), ("TRIPPED", .tripped), ("LOCKOUT", .lockout)]
def permitNames : List (String × Permit) := [("NONE", .none), ("REQUESTED", .requested), ("GRANTED", .granted)]
def recStageNames : List (String × RecStage) :=
  [("IDLE", .idle), ("STOPPING", .stopping), ("WAITING", .waiting), ("ASKING", .asking), ("CLEARING", .clearing),
   ("RETRYING", .retrying)]
def cabTripNames : List (String × CabTrip) :=
  [("REFLECTED", .reflected), ("ARC", .arc), ("OVERCURRENT", .overcurrent), ("SUPPLY", .supply), ("THERMAL", .thermal)]
def declineNames : List (String × DeclineReason) :=
  [("LOCAL", .isLocal), ("STATE", .state), ("INTERLOCK", .interlock), ("RANGE", .range)]
def matrixWordNames : List (String × MatrixWord) :=
  [("SILENT", .silent), ("READ", .read), ("CONFLICT", .conflict), ("REST", .rest), ("TIMEOUT", .timeout), ("HOT", .hot),
   ("HELD", .held)]
def stallWordNames : List (String × StallWord) :=
  [("READ", .read), ("SILENT", .silent), ("TIMEOUT", .timeout), ("STOPPED", .stopped), ("HOT", .hot), ("HELD", .held)]
def foreignWordNames : List (String × ForeignWord) :=
  [("UNREACHABLE", .unreachable), ("NO-PATH", .noPath), ("NO-MATCH", .noMatch), ("EXCLUDED", .excluded)]
def checkPointNames : List (String × CheckPoint) :=
  [("ADMISSION", .admission), ("TUNE", .tune), ("RAISE", .raise), ("EDIT", .edit)]
def checkDetailNames : List (String × CheckDetail) :=
  [("FREQUENCY", .frequency), ("OUTPUT", .output), ("OUTPUT-RANGE", .outputRange), ("OUTPUT-RATING", .outputRating),
   ("TRANSMITTER", .transmitter), ("TX-RATING", .txRating)]
def fateNames : List (String × Fate) :=
  [("PENDING", .pending), ("ACCEPTED", .accepted), ("WITHDRAWN", .withdrawn), ("CANCELLED", .cancelled)]

def statusText (s : Status) : Text := nameFor statusNames s
def outStateText (s : OutState) : Text := nameFor outStateNames s
def txStateText (s : TxState) : Text := nameFor txStateNames s

/-! ### Fields -/

/-- R213: NAME=value. -/
def fld (n : String) (v : Text) : List Text := [n.toList ++ '=' :: v]
/-- A field that appears only while its value is present. -/
def fldO {α : Type} (n : String) (f : α → Text) (v : Option α) : List Text := v.elim [] fun a => fld n (f a)
/-- A list field, absent when the list is empty. -/
def fldL (n : String) (l : List Text) : List Text := if l.isEmpty then [] else fld n (listText l)

/-- R84: the parts of an answer. -/
def answerParts : CheckAnswer → List Text
  | .permitted => [Text.of "PERMITTED"]
  | .range d => [Text.of "RANGE", nameFor checkDetailNames d]
  | .notFound d => [Text.of "NOT-FOUND", nameFor checkDetailNames d]
  | .excluded i => [Text.of "EXCLUDED", dec i]
def answerFields (a : CheckAnswer) : List Text :=
  fldO "ANSWER" id (answerParts a).head? ++ fldO "DETAIL" id (answerParts a).tail.head?

/-- 13: the entry record. -/
def entryFields (e : Entry) (mark : Option Minutes) : List Text :=
  fld "ID" (dec e.id) ++ fld "TX" (txText e.tx) ++ fld "FREQ" (dec e.freq) ++ fld "MODE" (modeText e.mode) ++
  fld "OUT" (outText e.out) ++ fldO "PRESET" dec e.preset ++ fld "POWER" (dec e.power) ++ fld "PROG" (dec e.prog) ++
  fld "START" (minuteText e.start) ++ fld "STOP" (minuteText e.stop) ++ fld "DAYS" (maskText e.days) ++
  fld "PRIO" (dec e.prio) ++ fldO "FROM" dateText e.valid ++ fldO "UNTIL" dateText e.untilD ++ fldO "LEAD" dec e.lead ++
  fldO "MARK" instantText mark

def phaseText : Phase → Text
  | .preparing => Text.of "PREPARING"
  | .waiting => Text.of "WAITING"
  | .raising => Text.of "RAISING"
  | .onAir => Text.of "ON_AIR"
  | .muted => Text.of "MUTED"
  | .tripped => Text.of "TRIPPED"
  | .reworking => Text.of "REWORKING"
  | .ending _ _ => Text.of "ENDING"
def Phase.outcome : Phase → Option EndOutcome
  | .ending o _ => some o
  | _ => none

/-- R69. -/
def stackItemText (i : StackItem) : Text :=
  itemText [occText i.item.occ, nameFor stackReasonNames i.reason, dec i.item.trips, yn i.item.fold, readingText i.displaced]

/-- 13: the assignment record. -/
def asgFields (v : AsgView) : List Text :=
  let a := v.asg
  fld "SOURCE" (Text.of (if a.sched.isSome then "SCHEDULE" else "FOREIGN")) ++ fldO "OCC" (fun s => occText s.occ) a.sched ++
  fldO "PRIO" (fun s => dec s.prio) a.sched ++ fld "FREQ" (dec a.eff.freq) ++ fld "MODE" (modeText a.eff.mode) ++
  fld "OUT" (outText a.eff.out) ++ fldO "PRESET" dec a.eff.preset ++ fld "POWER" (dec a.eff.power) ++
  fld "PROG" (a.eff.prog.elim (Text.of "UNKNOWN") dec) ++ fldO "MADE" outText v.made ++ fldL "CLAIMS" (v.claims.map outText) ++
  fldO "AWAIT" (fun w => outText w.1 ++ '/' :: txText w.2) a.awaits ++ fld "PHASE" (phaseText a.phase) ++
  fldO "OUTCOME" (nameFor endNames) a.phase.outcome ++ fld "TRIPS" (dec a.trips) ++
  fldL "TRIPTIMES" (a.tripTimes.map readingText) ++ fld "FOLD" (yn a.fold) ++ fld "LATE" (yn a.late) ++
  fldO "STOP" (fun s => instantText s.stop) a.sched

def orderText : OrderKind → List Text
  | .warm => [Text.of "WARM"]
  | .cool => [Text.of "COOL"]
  | .tune f m p => [Text.of "TUNE", dec f, modeText m, dash (p.map dec)]
  | .raise kw => [Text.of "RAISE", dec kw]
  | .lower => [Text.of "LOWER"]
  | .clearTrip => [Text.of "CLEAR-TRIP"]

def tripCauseText : TripCause → Text
  | .cab c => nameFor cabTripNames c
  | .senseRefl => Text.of "SENSE-REFL"
  | .senseArc => Text.of "SENSE-ARC"
  | .raiseTimeout => Text.of "RAISE-TIMEOUT"
  | .clear => Text.of "CLEAR"
  | .door => Text.of "DOOR"

/-- R195. -/
def detailText : Detail → Text
  | .trips n => itemText [Text.of "TRIPS", dec n]
  | .adopted => Text.of "ADOPTED"
  | .rfp => Text.of "RFP"
  | .contact => Text.of "CONTACT"
  | .matrix w x => itemText (nameFor matrixWordNames w :: (x.map fun p => xptText p.1 p.2).toList)
  | .stall w => nameFor stallWordNames w
  | .trip c => tripCauseText c
  | .tripLowering c => itemText [Text.of "LOWERING", nameFor cabTripNames c]
  | .tuneFail a b => itemText [dec a, dec b]
  | .clear => Text.of "CLEAR"
  | .cool => Text.of "COOL"
  | .declined k r s =>
      itemText ((orderText k).take 1 ++ [nameFor declineNames r] ++ (s.map txStateText).toList)
  | .cabinet => Text.of "CABINET"
  | .sense => Text.of "SENSE"
  | .permit => Text.of "PERMIT"
  | .foreign w a => itemText (nameFor foreignWordNames w :: (a.map answerParts).getD [])
  | .excluded p a => itemText (nameFor checkPointNames p :: answerParts a)

/-- 13: the fault record. -/
def faultFields (r : FaultRec) : List Text :=
  fld "SEQ" (dec r.seq) ++ fld "KIND" (nameFor faultNames r.kind) ++ fld "SRC" (sourceText r.src) ++
  fld "BLOCK" (yn r.blocking) ++ fld "COUNT" (dec r.count) ++ fld "FIRST" (readingText r.first) ++
  fld "LAST" (readingText r.last) ++ fldO "OCC" occText r.occ ++ fldO "FREQ" dec r.freq ++ fldO "DETAIL" detailText r.detail

def holdParts : HoldValue → List Text
  | .inhibit => []
  | .output o p => outText o :: (p.map dec).toList
  | .frequency f m => [dec f, modeText m]
  | .power kw => [dec kw]

/-- R183: an aspect's value under the names of HOLD-SET. -/
def holdFieldsOut : HoldValue → List Text
  | .inhibit => []
  | .output o p => fld "OUT" (outText o) ++ fldO "PRESET" dec p
  | .frequency f m => fld "FREQ" (dec f) ++ fld "MODE" (modeText m)
  | .power kw => fld "POWER" (dec kw)

/-- R176: the enabled aspects with their values. -/
def Hold.values (h : Hold) : List HoldValue :=
  (if h.inhibit then [.inhibit] else []) ++ (h.output.map fun v => HoldValue.output v.1 v.2).toList ++
  (h.freq.map fun v => HoldValue.frequency v.1 v.2).toList ++ (h.power.map HoldValue.power).toList

def stepText : PlanStep → Text
  | .setHold t v => itemText ([Text.of "SET", txText t, aspectText v.aspect] ++ holdParts v)
  | .clearHold t a => itemText [Text.of "CLEAR", txText t, aspectText a]

def stepViewText : StepView → Text
  | .step s => stepText s
  | .inhibitAll l => itemText (Text.of "SET" :: l.map txText ++ [Text.of "INHIBIT"])

def motionParts : MotionKind → List Text
  | .make t o => [Text.of "MAKE", xptText t o]
  | .brk t o => [Text.of "BREAK", xptText t o]
  | .slew o n => [Text.of "SLEW", outText o ++ '/' :: dec n]

def slotText : Option SlotView → Text
  | none => Text.of "FREE"
  | some s => itemText (motionParts s.kind ++ [dec s.cls, dash (s.requester.map txText), dec s.elapsed])

def queueText (q : QueueView) : Text :=
  itemText (motionParts q.kind ++ [dec q.cls, dec q.arrival, dash (q.requester.map txText), yn q.eligible])

def targetText (g : Target) : Text := itemText [outText g.out, dash (g.preset.map dec), dec g.cls]

def shown (b : Bool) : Text := Text.of (if b then "SHOWN" else "CLEAR")

def rowText (p : Tx × Xpt) : Text :=
  itemText ([txText p.1, nameFor xstateNames p.2.st] ++ (p.2.ind.map fun c => [shown c.made, shown c.broken]).getD [])

def posFields (st : PosState) : List Text :=
  match st with
  | .parked p => fld "STATE" (Text.of "PARKED") ++ fldO "PRESET" dec p
  | .slewing p => fld "STATE" (Text.of "SLEWING") ++ fld "PRESET" (dec p)
  | .stalled => fld "STATE" (Text.of "STALLED")

def condParts : Cond → List Text
  | .cold => [Text.of "COLD"]
  | .warming => [Text.of "WARMING"]
  | .standby => [Text.of "STANDBY"]
  | .tuning => [Text.of "TUNING"]
  | .tuned f m => [Text.of "TUNED", dec f, modeText m]
  | .raising f m kw => [Text.of "RAISING", dec f, modeText m, dec kw]
  | .on f m kw => [Text.of "ON", dec f, modeText m, dec kw]
  | .lowering f m kw => [Text.of "LOWERING", dec f, modeText m, dec kw]
  | .tripped c => [Text.of "TRIPPED", nameFor cabTripNames c]
  | .cooling => [Text.of "COOLING"]

def answerText : Answer → List Text
  | .taken => [Text.of "TAKEN"]
  | .declined r => [Text.of "DECLINED", nameFor declineNames r]

/-- R153, R135: the last condition and each field present. -/
def replyFields (c : CabReply) : List Text :=
  fld "COND" (itemText (condParts c.cond)) ++ fld "LOCAL" (yn c.loc) ++
  fldO "ANSWER" (fun a => itemText (answerText a)) c.answer ++ fldO "LASTNO" dec c.lastNo

def heldText (h : HeldBy) : Text :=
  listText (((([("OUTSTANDING", h.outstanding), ("PERMIT", h.permit), ("DOOR", h.door), ("ESTOP", h.estop),
    ("FROZEN", h.frozen), ("UNREACHABLE", h.unreachable)] : List (String × Bool)).filter Prod.snd).map Prod.fst).map Text.of)

def tripEntryText (p : TripEntry × Nat) : Text := itemText [dec p.2, readingText p.1.clock, tripCauseText p.1.cause, yn p.1.refl]

/-- R153, R167, R168: the trip window, then the recovery record; the delay's expiry in whole seconds of the interval timer
(log 22). -/
def txFields (t : Tx) (d : TxDef) (r : TxRec) (since : Option Nat) (held : Option HeldBy) (ages : List Nat) : List Text :=
  fld "TX" (txText t) ++ fld "DEFINED" (yn d.defined) ++ fld "RATING" (dec d.rating) ++ fld "WARM" (dec d.warm) ++
  fld "TUNE" (dec d.tune) ++ fld "RAISE" (dec d.raise) ++ fld "LOWER" (dec d.lower) ++ fld "STATE" (txStateText r.st) ++
  fldO "BEFORE" txStateText r.before ++ fld "CONTACT" (yn r.contact) ++ fld "MISSED" (dec r.missed) ++
  (r.cond.map replyFields).getD [] ++
  fldO "ORDER" (fun o => itemText (orderText o.kind ++ [dash (o.no.map dec), dash (since.map dec)])) r.out ++
  fldO "PENDING" (fun o => itemText (orderText o.kind)) r.pend ++ fldO "HELD" heldText held ++
  fld "PERMIT" (nameFor permitNames r.permit) ++ fldL "TRIPS" ((r.window.zip ages).map tripEntryText) ++
  fld "RECOVERY" (nameFor recStageNames r.rcv.stage) ++ fldO "CAUSE" tripCauseText r.rcv.cause ++
  (if r.rcv.stage = .idle then [] else fld "REFL" (yn r.rcv.refl)) ++ fldO "EXPIRY" (fun x => dec (x / 1000)) r.rcv.expiry

def level (b : Bool) : Text := Text.of (if b then "HIGH" else "LOW")

def senseViewText (v : SenseView) : Text :=
  itemText [senseText v.line, nameFor senseModeNames v.cfg.mode, yn v.cfg.mask, dec v.cfg.qual,
    v.qual.elim (Text.of "UNQUALIFIED") level, dash (v.active.map yn), level v.raw]

def exclusionText (p : Exclusion × Nat) : Text :=
  itemText ([dec p.2, dec p.1.low, dec p.1.high] ++ (if p.1.full then [Text.of "FULL"] else []) ++
    (if p.1.reduced then [Text.of "REDUCED"] else []) ++ (if p.1.digital then [Text.of "DIGITAL"] else []))

def lockText (b : Bool) : Text := Text.of (if b then "SET" else "CLEAR")

def rejectFields : RejectReason → List Text
  | .reset => fld "REASON" (Text.of "RESET")
  | .status s other a =>
      fld "REASON" (statusText s) ++ fldO "OTHER" (fun p => itemText (dec p.1 :: (p.2.map dec).toList)) other ++
      (a.map answerFields).getD []

/-! ### Replies -/

/-- R215: the fields of a reply after its status. TIME-SET's difference is written to a tenth of a second, toward zero, and the
start time of a running plan's step in whole seconds of the interval timer (R185, log 22). An ENTRY-LIST reply with no id writes
IDS= with nothing after it (R17, log 39). -/
def bodyFields : ReplyBody → List Text
  | .nothing => []
  | .bank n st label count start =>
      fld "BANK" (dec (n.val + 1)) ++ fld "STATE" (nameFor bankStateNames st) ++ fld "LABEL" label ++ fld "COUNT" (dec count) ++
      fldO "START" instantText start
  | .entry e mark => entryFields e mark
  | .ids l next => fld "IDS" (listText (l.map dec)) ++ fldO "NEXT" dec next
  | .otherBank n => fld "BANK" (dec (n.val + 1))
  | .otherIds a b => fld "IDS" (listText [dec a, dec b])
  | .otherTx t => fld "TX" (txText t)
  | .otherOut o => fld "OUT" (outText o)
  | .atId id a => fld "ID" (dec id) ++ (a.map answerFields).getD []
  | .answer a => answerFields a
  | .changes l => fld "COUNT" (dec l.length) ++ fldL "CHANGES" (l.map fun c =>
      itemText [dec c.tag, dec (c.bank.val + 1), nameFor kindNames c.kind, dec c.id,
        Text.of (if c.draining then "DRAINING" else "QUEUED")])
  | .timeSet o d => fld "OUTCOME" (nameFor timeOutcomeNames o) ++ fld "DIFF" (tenthsText (slewTenths d))
  | .timeStatus r st slew pulse last =>
      fld "CLOCK" (readingText r) ++ fld "STATE" (nameFor clockNames st) ++ fldO "SLEW" tenthsText slew ++
      fldO "PULSE" dec pulse ++ fldO "OLD" (fun p => readingText p.1) last ++ fldO "NEW" (fun p => readingText p.2) last
  | .assignment t a stack =>
      fld "TX" (txText t) ++ (a.map asgFields).getD [] ++ fldL "STACK" (stack.map stackItemText)
  | .deferral l => fld "COUNT" (dec l.length) ++ fldL "ITEMS" (l.map fun i =>
      itemText [occText i.item.occ, nameFor deferReasonNames i.reason, dec i.item.trips, yn i.item.fold])
  | .index i => fld "INDEX" (dec i)
  | .exclusions l lock =>
      fld "COUNT" (dec l.length) ++ fldL "RANGES" (l.zipIdx.map exclusionText) ++ fld "LOCK" (lockText lock)
  | .output o d =>
      fld "OUT" (outText o) ++ fld "KIND" (Text.of (if isLoad o then "LOAD" else "ANTENNA")) ++ fld "DEFINED" (yn d.defined) ++
      fld "LOW" (dec d.low) ++ fld "HIGH" (dec d.high) ++ fld "RATING" (dec d.rating) ++ fld "THROW" (dec d.throw) ++
      fld "SLEW" (yn d.slewable)
  | .matrixOut o st f w r read rows =>
      fld "OUT" (outText o) ++ fld "STATE" (outStateText st) ++ fldO "FEEDER" txText f ++ fldO "OWNER" txText w ++
      fldO "RESERVER" txText r ++ fld "READ" (yn read) ++ fld "ROWS" (listText (((allTx.map fun t => (t, rows[t]))).map rowText))
  | .matrixTx t sts q awaited held waited =>
      fld "TX" (txText t) ++ fld "STATES" (listText (sts.map (nameFor xstateNames))) ++
      fld "STAGE" (nameFor seqStageNames q.stage) ++ fldO "TARGET" targetText q.target ++ fldL "PERMITS" (q.wants.map txText) ++
      fldL "AWAITS" (awaited.map fun m => itemText (motionParts m.kind ++ [dec m.arrival])) ++ fldO "NEXT" targetText q.next ++
      fld "HELD" (yn held) ++ fld "WAITED" (yn waited)
  | .motions slots queue => fld "SLOTS" (listText (slots.map slotText)) ++ fldL "QUEUE" (queue.map queueText)
  | .positioner o p slew =>
      fld "OUT" (outText o) ++ fld "LINE" (dec (p.line.val + 1)) ++ fld "RATE" (dec p.rate) ++
      fld "PRESETS" (listText (p.presets.toList.map fun a => a.elim (Text.of "UNDEFINED") dec)) ++ posFields p.st ++
      fld "READ" (yn p.read) ++ fldO "AZ" dec p.az ++ fldO "ELAPSED" (fun x => dec x.1) slew ++ fldO "TIMEOUT" (fun x => dec x.2) slew
  | .tx t d r since held ages => txFields t d r since held ages
  | .sense l => fld "LINES" (listText (l.map senseViewText))
  | .holds l => fldL "HOLDS" (l.flatMap fun p => p.2.values.map fun v =>
      itemText ([txText p.1, aspectText v.aspect] ++ holdParts v))
  | .plan n steps inhibitAll =>
      fld "PLAN" (dec n) ++ fld "STEPS" (listText (if inhibitAll then [Text.of "SET;ALL;INHIBIT"] else steps.map stepText))
  | .directive slot run last timeout elapsed step =>
      fld "SLOT" (slot.elim (Text.of "EMPTY") fun p => itemText [Text.of "PENDING", dec p.1, dec p.2]) ++
      fld "RUNNING" (run.elim (Text.of "NONE") fun r =>
        itemText [dec r.plan, dec r.tag, dec r.step, dec (r.start / 1000), dec r.failed]) ++
      fldO "LAST" (fun d => itemText [dec d.plan, dec d.tag, nameFor fateNames d.fate]) last ++ fld "TIMEOUT" (dec timeout) ++
      fldO "ELAPSED" dec elapsed ++ fldO "STEP" stepViewText step
  | .stageRunning => fld "STAGE" (Text.of "RUNNING")
  | .stagePending => fld "STAGE" (Text.of "PENDING")
  | .planTag k t => fld "PLAN" (dec k) ++ fld "TAG" (dec t)
  | .faults held overflow seq l more =>
      fld "COUNT" (dec held) ++ fld "OVERFLOW" (yn overflow) ++ fld "SEQ" (dec seq) ++
      fldL "RECORDS" (l.map FaultView.text) ++
      fldO "NEXT" dec more
  | .fault r => faultFields r
  | .hall h =>
      fld "MODE" (nameFor hallModeNames h.mode) ++ fld "LEAD" (dec h.lead) ++ fld "COOL" (dec h.cool) ++
      fld "DELAY" (dec h.rcv.delay) ++ fld "RETRIES" (dec h.rcv.retries) ++ fld "WINDOW" (dec h.rcv.window) ++
      fld "FOLDBACK" (dec h.rcv.foldback) ++ fld "LOCK" (lockText h.lock) ++ fld "CLOCK" (nameFor clockNames h.clock) ++
      fld "OVERFLOW" (yn h.overflow) ++ fld "BLOCKING" (dec h.blocking) ++ fld "NOTICES" (dec h.notices) ++ fld "LOST" (yn h.lost)
  | .identity part rev caps =>
      fld "PART" (Text.of part) ++ fld "REV" [Char.ofNat (65 + rev.val)] ++
      fld "CAPS" (listText (caps.map fun c => c.1.toList ++ ':' :: dec c.2))
  | .dir d => fld "DIR" (nameFor dirNames d)

/-! ### Notices -/

/-- R216: the name of a notice and its fields but TIME. An ADMITTED notice gives its source where that is FOREIGN (R52, R210). -/
def noticeFields : NoticeBody → String × List Text
  | .hall m c =>
      ("HALL", fld "MODE" (nameFor hallModeNames m) ++
        match c with
        | .powerOn => fld "CAUSE" (Text.of "POWER-ON")
        | .reset => fld "CAUSE" (Text.of "RESET")
        | .quiesce => fld "CAUSE" (Text.of "QUIESCE")
        | .resume => fld "CAUSE" (Text.of "RESUME")
        | .adopted s f => fld "CAUSE" (Text.of "ADOPTED") ++ fld "SCHEDULE" (dec s) ++ fld "FOREIGN" (dec f))
  | .bank n st label start =>
      ("BANK", fld "BANK" (dec (n.val + 1)) ++ fld "STATE" (nameFor bankStateNames st) ++ fld "LABEL" label ++
        fldO "START" instantText start)
  | .changeDone tag b k id =>
      ("CHANGE-DONE", fld "TAG" (dec tag) ++ fld "BANK" (dec (b.val + 1)) ++ fld "KIND" (nameFor kindNames k) ++ fld "ID" (dec id))
  | .changeRejected tag b k id r =>
      ("CHANGE-REJECTED", fld "TAG" (dec tag) ++ fld "BANK" (dec (b.val + 1)) ++ fld "KIND" (nameFor kindNames k) ++
        fld "ID" (dec id) ++ rejectFields r)
  | .clock st _ step =>
      ("CLOCK", fld "STATE" (nameFor clockNames st) ++ fldO "OLD" (fun p => readingText p.1) step ++
        fldO "NEW" (fun p => readingText p.2) step)
  | .admitted t occ o g =>
      ("ADMITTED", fld "TX" (txText t) ++ (if occ.isSome then [] else fld "SOURCE" (Text.of "FOREIGN")) ++ fldO "OCC" occText occ ++
        fld "OUT" (outText o) ++ fld "ORIGIN" (nameFor originNames g))
  | .rejected occ a => ("REJECTED", fld "OCC" (occText occ) ++ answerFields a)
  | .deferred occ r => ("DEFERRED", fld "OCC" (occText occ) ++ fld "REASON" (nameFor deferReasonNames r))
  | .skipped occ => ("SKIPPED", fld "OCC" (occText occ))
  | .expired occ => ("EXPIRED", fld "OCC" (occText occ))
  | .withdrawn occ => ("WITHDRAWN", fld "OCC" (occText occ))
  | .changeover occ => ("CHANGEOVER", fld "OCC" (occText occ))
  | .dropped occ => ("DROPPED", fld "OCC" (occText occ))
  | .assignment t occ o late trips fold after =>
      ("ASSIGNMENT", fld "TX" (txText t) ++ fld "SOURCE" (Text.of (if occ.isSome then "SCHEDULE" else "FOREIGN")) ++
        fldO "OCC" occText occ ++ fld "OUTCOME" (nameFor endNames o) ++ fld "LATE" (yn late) ++ fld "TRIPS" (dec trips) ++
        fld "FOLD" (yn fold) ++
        match after with
        | .nothing => []
        | .push r => fld "REASON" (nameFor stackReasonNames r)
        | .defer r => fld "REASON" (nameFor deferReasonNames r))
  | .crosspoint t o st out c =>
      ("CROSSPOINT", fld "XPT" (xptText t o) ++ fld "STATE" (nameFor xstateNames st) ++ fld "OUTSTATE" (outStateText out) ++
        fld "CAUSE" (nameFor xcauseNames c))
  | .positioner o st az out c =>
      ("POSITIONER", fld "OUT" (outText o) ++ posFields st ++ fldO "AZ" dec az ++ fld "OUTSTATE" (outStateText out) ++
        fld "CAUSE" (nameFor posCauseNames c))
  | .tx t new old c =>
      ("TX", fld "TX" (txText t) ++ fld "STATE" (txStateText new) ++ fld "OLD" (txStateText old) ++
        fld "CAUSE" (nameFor txCauseNames c))
  | .sense l active masked =>
      ("SENSE", fld "LINE" (senseText l) ++ fld "STATE" (Text.of (if active then "ACTIVE" else "INACTIVE")) ++
        (if masked then fld "MASK" (Text.of "MASKED") else []))
  | .hold t a v c =>
      ("HOLD", fld "TX" (txText t) ++ fld "ASPECT" (aspectText a) ++ fld "ENABLED" (yn v.isSome) ++ (v.map holdFieldsOut).getD [] ++
        match c with
        | .host => fld "CAUSE" (Text.of "HOST")
        | .plan k n => fld "CAUSE" (Text.of "PLAN") ++ fld "PLAN" (dec k) ++ fld "STEP" (dec n)
        | .reset => fld "CAUSE" (Text.of "RESET"))
  | .holdReset t l =>
      ("HOLD", fld "TX" (txText t) ++ fld "ASPECTS" (listText (l.map aspectText)) ++ fld "ENABLED" (yn false) ++
        fld "CAUSE" (Text.of "RESET"))
  | .planStep k n r =>
      ("PLAN-STEP", fld "PLAN" (dec k) ++ fld "STEP" (dec n) ++
        match r with
        | .inForce => fld "RESULT" (Text.of "IN-FORCE")
        | .timeout => fld "RESULT" (Text.of "TIMEOUT")
        | .refused s => fld "RESULT" (Text.of "REFUSED") ++ fld "STATUS" (statusText s))
  | .planDone k tag n f =>
      ("PLAN-DONE", fld "PLAN" (dec k) ++ fld "TAG" (dec tag) ++ fld "STEPS" (dec n) ++ fld "FAILED" (dec f))
  | .planAbandoned k tag n f c =>
      ("PLAN-ABANDONED", fld "PLAN" (dec k) ++ fld "TAG" (dec tag) ++ fld "STEP" (dec n) ++ fld "FAILED" (dec f) ++
        fld "CAUSE" (Text.of (match c with | .plan0 => "PLAN-0" | .reset => "RESET")))
  | .directiveAccepted k tag => ("DIRECTIVE-ACCEPTED", fld "PLAN" (dec k) ++ fld "TAG" (dec tag))
  | .directiveCancelled k tag c =>
      ("DIRECTIVE-CANCELLED", fld "PLAN" (dec k) ++ fld "TAG" (dec tag) ++
        fld "REASON" (Text.of (match c with | .plan0 => "PLAN-0" | .reset => "RESET")))
  | .fault r e =>
      ("FAULT", faultFields r ++
        match e with
        | .new d => fld "EVENT" (Text.of "NEW") ++ fldO "DISPLACED" dec d
        | .repeated => fld "EVENT" (Text.of "REPEAT")
        | .blocking => fld "EVENT" (Text.of "BLOCKING"))
  | .faultLost k s =>
      ("FAULT", fld "SEQ" (dec 0) ++ fld "KIND" (nameFor faultNames k) ++ fld "SRC" (sourceText s) ++
        fld "EVENT" (Text.of "LOST"))
  | .linkError r tag =>
      ("LINK-ERROR",
        fld "REASON" (Text.of (match r with | .length => "LENGTH" | .checksum => "CHECKSUM" | .overrun => "OVERRUN")) ++
        fldO "TAG" dec tag)

/-! ### Lines -/

/-- A list value without its last item. -/
def dropItem (p : Text) : Text := ((p.reverse.dropWhile fun c => decide (c ≠ ',')).drop 1).reverse

/-- A field whose value is a list of more than one item. -/
def isLong (p : Text) : Bool := p.contains ','

/-- The first list field of a length loses its last item. -/
def shortenFirst (n : Nat) : List Text → List Text
  | [] => []
  | p :: l => if isLong p && decide (p.length = n) then dropItem p :: l else p :: shortenFirst n l

/-- The first of the longest list fields loses its last item. -/
def shortenLongest (ps : List Text) : List Text :=
  shortenFirst ((ps.filter isLong).foldl (fun m p => max m p.length) 0) ps

/-- Fields with their longest lists shortened, item by item, until they have room. -/
def fitFields (room : Nat) : Nat → List Text → List Text
  | 0, ps => ps
  | n + 1, ps => if (joinWith ' ' ps).length ≤ room then ps else fitFields room n (shortenLongest ps)

/-- R213: the characters of a line between its lead and its checksum. -/
def bodyRoom : Nat := Config.maxLine - 6

/-- R213: a line from its lead, its first pieces and its fields, with the checksum over the characters after the lead; of lists
that a line of 480 characters has no room for, the last items are left out, and what is still too long, as a BAD-FORM reply that
gives back a very long name, is cut at its end (log 8). -/
def writeLine (lead : Char) (head fields : List Text) : Text :=
  let room := bodyRoom - (joinWith ' ' head).length - 1
  let items := (fields.map fun p => p.count ',').sum
  let body := (joinWith ' ' (head ++ fitFields room items fields)).take bodyRoom
  lead :: body ++ '*' :: hex4 (crc body).toNat

/-- R215. -/
def Reply.line (r : Reply) : Text :=
  writeLine '=' (dec r.tag :: (r.req.map reqText).toList ++ fld "STATUS" (statusText r.status)) (bodyFields r.body)

/-- R216. -/
def Notice.line (n : Notice) : Text :=
  let f := noticeFields n.body
  writeLine '!' (dec 0 :: Text.of f.1 :: fld "TIME" (readingText n.time)) f.2

def OutLine.line : OutLine → Text
  | .reply r => r.line
  | .notice n => n.line

/-- R213, R215: the characters of the line being sent, CR LF not counted. -/
def State.lineOut (s : State) : Option Text := s.link.sending.map OutLine.line

end Sys2Proof.Machine
end

