-- ==== Sys2Proof/WellFormed.lean ====
section
/-! DEFINITION. Well-formed commands: what a sender can say. A request's operands may break the manual's ranges, for the part
answers those (RANGE, BAD-FORM); a report of the plant carries what its line can carry, and a table edit names each field
once by its type. The meanings are total and ask none of this. -/

namespace Sys2Proof.WellFormed

open Sys2Proof

/-- R215: a tag as written has at most three digits; the part answers a tag outside 1 to 255 with BAD-FORM. -/
def tag (n : Nat) : Bool := decide (n ≤ 999)

/-- R213: the characters of a line before its CR LF: none of them is CR or LF, and each is one 8-bit character. -/
def lineChars (l : List Char) : Bool := l.all fun c => c ≠ '\r' && c ≠ '\n' && decide (c.toNat < 256)

/-- Conventions: an azimuth is 0 to 359. -/
def azimuth (a : Nat) : Bool := decide (a ≤ 359)

/-- R121: a drive unit's report. -/
def driveReport : DriveReport → Bool
  | .atRest a | .moving a | .atTarget a => azimuth a

/-- R135: a tuned frequency is within the tuning range. -/
def tuned (f : Nat) : Bool := decide (Config.freqLow ≤ f) && decide (f ≤ Config.freqHigh)

/-- R135: the output of a cabinet is 0 to 1100 kW. -/
def output (kw : Nat) : Bool := decide (kw ≤ 1100)

/-- R135: a condition with its fields. -/
def cond : Cond → Bool
  | .tuned f _ => tuned f
  | .raising f _ kw | .on f _ kw | .lowering f _ kw => tuned f && output kw
  | _ => true

/-- R135: a last answered number is 1 to 255. -/
def orderNo (n : Nat) : Bool := decide (1 ≤ n) && decide (n ≤ 255)

/-- R135: a valid reply. -/
def cabReply (r : CabReply) : Bool := cond r.cond && r.lastNo.all orderNo

/-- R1: a date as written has four, two and two digits. -/
def date (d : DateForm) : Bool := decide (d.year ≤ 9999) && decide (d.month ≤ 99) && decide (d.day ≤ 99)

/-- R1: an entry as written: minutes and dates have their digits. -/
def entry (e : EntryForm) : Bool :=
  decide (e.start ≤ 9999) && decide (e.stop ≤ 9999) && e.valid.all date && e.untilD.all date

/-- R121: only an antenna has a drive unit. -/
def antenna (o : Out) : Bool := !isLoad o

/-- R213: a name is written without a space. -/
def reqName : Req → Bool
  | .other n => !n.isEmpty && lineChars n && !n.contains ' '
  | _ => true

/-- R213: a line of 480 characters holds at most 96 steps of five characters and their commas. -/
def steps (l : List StepForm) : Bool := decide (l.length ≤ 96)

end Sys2Proof.WellFormed

namespace Sys2Proof

open WellFormed in
/-- A command its sender can send. -/
def Instr.wf : Instr → Bool
  | .powerOn | .outboundLineSent | .minuteEvent | .slewWorkedOff | .pulseAbsenceTimeout | .planStepTimeout => true
  | .lineComplete l => lineChars l
  | .requestBadForm h => h.tag.all tag && h.name.all reqName
  | .bankOpen t _ l | .bankRestage t _ l => tag t && l.all lineChars
  | .entryPut t _ e => tag t && entry e
  | .bankCommit t _ d _ => tag t && date d
  | .changePost t _ _ _ e => tag t && e.all entry
  | .timeSet t d h m s => tag t && date d && decide (h ≤ 99) && decide (m ≤ 99) && decide (s ≤ 99)
  | .planLoad t _ l => tag t && steps l
  | .positionerReport _ r => driveReport r
  | .queryTimeout o | .queryRepeat o | .readFullTravelTimeout o | .slewTimeout o => antenna o
  | .cabinetReply _ r => cabReply r
  | .entryDrop t _ _ | .bankUncommit t _ | .bankRelease t _ | .bankStatus t _ | .entryGet t _ _ | .entryList t _ _
  | .changeList t | .timeStatus t | .engineSet t _ _ | .quiesce t | .resume t | .assignmentStatus t _ | .deferralList t
  | .exclusionAdd t _ _ _ | .exclusionDrop t _ | .outputDefine t _ _ _ _ _ _ | .outputUndefine t _ | .exclusionList t
  | .outputGet t _ | .check t _ _ _ _ _ | .licenceLock t | .matrixStatus t _ | .motionList t | .positionerSet t _ _ _
  | .presetSet t _ _ _ | .positionerStatus t _ | .txDefine t _ _ _ _ _ _ | .txUndefine t _ | .txStatus t _
  | .senseSet t _ _ _ _ | .senseStatus t _ | .recoverySet t _ _ _ _ | .holdSet t _ _ | .holdClear t _ _ | .holdStatus t _
  | .planDrop t _ | .planGet t _ | .planSet t _ | .directiveStatus t | .directivePost t _ | .directiveWithdraw t
  | .faultClear t _ | .faultList t _ | .faultGet t _ | .faultClearOverflow t | .hallStatus t | .identify t | .resync t _
  | .hallReset t | .sectionReset t _ | .storeErase t => tag t
  | .idleTimerExpiry _ | .columnReport _ _ | .readTimeout _ | .throwTimeout _ _ | .cabinetSlot _ | .missedReply _
  | .warmTimeout _ | .tuneTimeout _ | .raiseTimeout _ | .lowerTimeout _ | .coolTimeout _ | .clearTripTimeout _
  | .senseRawChange _ _ | .qualificationTimerExpiry _ | .tripWindowEntryExpiry _ | .recoveryDelayExpiry _
  | .adoptionConditionLapse _ => true

end Sys2Proof
end

