-- ==== Sys2Proof/Safety.lean ====
section
/-! DEFINITION. What the statements speak of: a free link, the replies on their way out, a command that completes, and the
invariants of the retained tables, of the sizes the manual bounds and of the hall. -/

namespace Sys2Proof.Machine

/-! ### A command that completes -/

/-- R214: no request is taken or waiting to be taken, so a request given now is taken now. -/
abbrev State.free (s : State) : Prop := s.busy = false

/-- A request given now is taken: the link is free and its tag is one of R215. -/
abbrev State.takes (s : State) (tag : Nat) : Prop := s.free ∧ tagOk tag = true

/-- R215: the replies on their way out, in the order they go: the one being sent, if the line being sent is a reply, and
those made. -/
def Link.out (l : Link) : List Reply := (match l.sending with | some (.reply r) => [r] | _ => []) ++ l.replies

/-- Nothing of the hall is due of itself: no rule has anything to do. -/
abbrev State.settled (s : State) : Prop := (nextRule s.env s.hall).isNone = true

/-- The state at the end of an event in which nothing settles: replies and notices go to the link, and nothing else
happens. -/
def State.closed (m : State) : State :=
  { m with hall := { m.hall with said := [], emit := [] }
           link := (m.link.deliver m.hall.said m.env.sec (eventNotices m.hall)).moveUp m.hall.clear.isSome }

/-- Command `c` completes from `s` with the direct effect `m`: `exec` answers the state at the end of the event whose direct
effect is `m`. Obligations.EndOfEvent says what the end of an event adds to `m`. -/
def Completes (c : Instr) (s m : State) : Prop := exec c s = .next (finish m)

/-- A request answered with a status and fields, and nothing else changed: a read, or a refusal. -/
def Answers (c : Instr) (s : State) (tag : Nat) (r : Req) (st : Status) (b : ReplyBody) : Prop :=
  Completes c s (s.say tag (some r) st b)

/-- A request that completes OK with the direct effect `m`. -/
def TakenOk (c : Instr) (s m : State) (tag : Nat) (r : Req) : Prop := Completes c s (m.say tag (some r) .ok .nothing)

/-- R215: the requests, by their tag and their name in replies. RESYNC is not among them: it does not wait (R218). -/
def requestOfCommand : Instr → Option (Nat × Req)
  | .bankOpen t _ _ => some (t, .bankOpen)
  | .entryPut t _ _ => some (t, .entryPut)
  | .entryDrop t _ _ => some (t, .entryDrop)
  | .bankCommit t _ _ _ => some (t, .bankCommit)
  | .bankUncommit t _ => some (t, .bankUncommit)
  | .bankRelease t _ => some (t, .bankRelease)
  | .bankRestage t _ _ => some (t, .bankRestage)
  | .bankStatus t _ => some (t, .bankStatus)
  | .entryGet t _ _ => some (t, .entryGet)
  | .entryList t _ _ => some (t, .entryList)
  | .changePost t _ _ _ _ => some (t, .changePost)
  | .changeList t => some (t, .changeList)
  | .timeSet t _ _ _ _ => some (t, .timeSet)
  | .timeStatus t => some (t, .timeStatus)
  | .engineSet t _ _ => some (t, .engineSet)
  | .quiesce t => some (t, .quiesce)
  | .resume t => some (t, .resume)
  | .assignmentStatus t _ => some (t, .assignmentStatus)
  | .deferralList t => some (t, .deferralList)
  | .exclusionAdd t _ _ _ => some (t, .exclusionAdd)
  | .exclusionDrop t _ => some (t, .exclusionDrop)
  | .outputDefine t _ _ _ _ _ _ => some (t, .outputDefine)
  | .outputUndefine t _ => some (t, .outputUndefine)
  | .exclusionList t => some (t, .exclusionList)
  | .outputGet t _ => some (t, .outputGet)
  | .check t _ _ _ _ _ => some (t, .check)
  | .licenceLock t => some (t, .licenceLock)
  | .matrixStatus t _ => some (t, .matrixStatus)
  | .motionList t => some (t, .motionList)
  | .positionerSet t _ _ _ => some (t, .positionerSet)
  | .presetSet t _ _ _ => some (t, .presetSet)
  | .positionerStatus t _ => some (t, .positionerStatus)
  | .txDefine t _ _ _ _ _ _ => some (t, .txDefine)
  | .txUndefine t _ => some (t, .txUndefine)
  | .txStatus t _ => some (t, .txStatus)
  | .senseSet t _ _ _ _ => some (t, .senseSet)
  | .senseStatus t _ => some (t, .senseStatus)
  | .recoverySet t _ _ _ _ => some (t, .recoverySet)
  | .holdSet t _ _ => some (t, .holdSet)
  | .holdClear t _ _ => some (t, .holdClear)
  | .holdStatus t _ => some (t, .holdStatus)
  | .planLoad t _ _ => some (t, .planLoad)
  | .planDrop t _ => some (t, .planDrop)
  | .planGet t _ => some (t, .planGet)
  | .planSet t _ => some (t, .planSet)
  | .directiveStatus t => some (t, .directiveStatus)
  | .directivePost t _ => some (t, .directivePost)
  | .directiveWithdraw t => some (t, .directiveWithdraw)
  | .faultClear t _ => some (t, .faultClear)
  | .faultList t _ => some (t, .faultList)
  | .faultGet t _ => some (t, .faultGet)
  | .faultClearOverflow t => some (t, .faultClearOverflow)
  | .hallStatus t => some (t, .hallStatus)
  | .identify t => some (t, .identify)
  | .hallReset t => some (t, .hallReset)
  | .sectionReset t _ => some (t, .sectionReset)
  | .storeErase t => some (t, .storeErase)
  | _ => none

/-- The commands that may change the retained tables: the requests that edit them, and power-on. -/
def editsTables : Instr → Bool
  | .powerOn | .engineSet _ _ _ | .exclusionAdd _ _ _ _ | .exclusionDrop _ _ | .outputDefine _ _ _ _ _ _ _
  | .outputUndefine _ _ | .licenceLock _ | .txDefine _ _ _ _ _ _ _ | .txUndefine _ _ | .senseSet _ _ _ _ _
  | .recoverySet _ _ _ _ _ | .planLoad _ _ _ | .planDrop _ _ | .planSet _ _ | .storeErase _ => true
  | _ => false

/-! ### The retained tables -/

/-- R77: a range of the exclusion table. -/
abbrev Exclusion.ok (x : Exclusion) : Prop :=
  Config.freqLow ≤ x.low ∧ x.low ≤ x.high ∧ x.high ≤ Config.freqHigh ∧ (x.full || x.reduced || x.digital) = true

/-- R80: an output's definition. -/
abbrev OutDef.ok (o : Out) (d : OutDef) : Prop :=
  Config.freqLow ≤ d.low ∧ d.low ≤ d.high ∧ d.high ≤ Config.freqHigh ∧ 1 ≤ d.rating ∧ d.rating ≤ 1000 ∧ 1 ≤ d.throw ∧
    d.throw ≤ 30 ∧ (isLoad o = true → d.low = Config.freqLow ∧ d.high = Config.freqHigh ∧ d.slewable = false)

/-- R131: a transmitter's definition. -/
abbrev TxDef.ok (d : TxDef) : Prop :=
  1 ≤ d.rating ∧ d.rating ≤ 1000 ∧ 10 ≤ d.warm ∧ d.warm ≤ 1800 ∧ 10 ≤ d.tune ∧ d.tune ≤ 300 ∧ 5 ≤ d.raise ∧
    d.raise ≤ 120 ∧ 2 ≤ d.lower ∧ d.lower ≤ 60

/-- R164. -/
abbrev RecoverySettings.ok (r : RecoverySettings) : Prop :=
  2 ≤ r.delay ∧ r.delay ≤ 120 ∧ r.retries ≤ 7 ∧ 1 ≤ r.window ∧ r.window ≤ 60 ∧ 50 ≤ r.foldback ∧ r.foldback ≤ 100

/-- R157: a line's retained fields; PULSE is fixed. -/
abbrev SenseCfg.ok (l : SenseLine) (c : SenseCfg) : Prop :=
  match l with
  | .pulse => c = senseDefault .pulse
  | .rfp _ | .estop => modeAllowed l c.mode = true ∧ c.mask = false ∧ 1 ≤ c.qual ∧ c.qual ≤ 250
  | _ => modeAllowed l c.mode = true ∧ 1 ≤ c.qual ∧ c.qual ≤ 250

/-- R47, R77, R80, R131, R157, R164, R184: every retained table within its ranges. -/
structure Tables.ok (k : Tables) : Prop where
  excl : k.excl.length ≤ Config.maxExclusions ∧ ∀ x ∈ k.excl, x.ok
  outs : ∀ o : Out, (k.outs[o]).ok o
  slewable : slewableCount k ≤ Config.maxSlewable
  txs : ∀ t : Tx, (k.txs[t]).ok
  rcv : k.rcv.ok
  engine : 60 ≤ k.lead ∧ k.lead ≤ 1800 ∧ k.cool ≤ 240
  plans : ∀ n : Fin 32, ∀ l, k.plans[n] = some l → 1 ≤ l.length ∧ l.length ≤ 8
  stepTo : 10 ≤ k.stepTo ∧ k.stepTo ≤ 600
  sense : ∀ l : SenseLine, (k.sense[senseIx l]).ok l

/-! ### Sizes -/

/-- R20: the entry of a change has the change's id as its id. -/
abbrev Change.idOk (c : Change) : Prop := ∀ en, c.entry = some en → en.id = c.id

/-- R194: the records the table holds, each under a number of its own. -/
abbrev FaultTable.ok (f : FaultTable) : Prop := f.recs.length ≤ Config.maxFaults ∧ (f.recs.map FaultRec.seq).Nodup

/-- R4, R20, R67, R69, R167, R194: the sizes the manual bounds, the ids of queued changes and the numbers of fault records. -/
structure Hall.sizesOk (h : Hall) : Prop where
  banks : ∀ n : BankNo, (h.banks[n]).recs.length ≤ Config.maxEntries
  changes : h.changes.length ≤ Config.maxChanges
  changeIds : ∀ c ∈ h.changes, c.idOk
  deferral : h.deferral.length ≤ Config.maxDeferral
  stack : ∀ t : Tx, (h.stack[t]).length ≤ Config.maxStack
  windows : ∀ t : Tx, (h.tx[t]).window.length ≤ Config.maxWindow
  faults : h.faults.ok

/-- R4, R20, R67, R69, R167, R194, R216: every list the manual bounds is within its bound, and fault records have numbers of
their own. -/
structure State.sizesOk (s : State) : Prop where
  hall : s.hall.sizesOk
  notices : s.link.notices.length ≤ Config.maxNotices

/-! ### The hall -/

/-- R4: at most one bank is ACTIVE, and at most one RETIRING. -/
structure Hall.banksOk (h : Hall) : Prop where
  active : ∀ m n : BankNo, (h.banks[m]).st = .active → (h.banks[n]).st = .active → m = n
  retiring : ∀ m n : BankNo, (h.banks[m]).st = .retiring → (h.banks[n]).st = .retiring → m = n

/-- R119: no two positioner records hold one line. -/
abbrev Hall.linesOk (h : Hall) : Prop :=
  ∀ (o p : Out) (q r : Pos), h.path.pos[o] = some q → h.path.pos[p] = some r → q.line = r.line → o = p

/-- R197: at most one record blocks a resource; a transmitter is in LOCKOUT exactly when one blocks it (that an output is
FAULTED exactly so is `outState`). With it: the table's bounds, what a blocking record is, and that the record a FAULT-CLEAR
waits to remove is still there. -/
structure Hall.faultsOk (h : Hall) : Prop where
  table : h.faults.ok
  kinds : ∀ r ∈ h.faults.recs, r.blocking = true →
    r.kind.canBlock = true ∧ ((∃ t, r.src = .tx t) ∨ ∃ o, r.src = .out o)
  one : ∀ r ∈ h.faults.recs, ∀ q ∈ h.faults.recs, r.blocking = true → q.blocking = true → r.src = q.src → r = q
  lockout : ∀ t : Tx, (h.tx[t]).st = .lockout ↔ ∃ r ∈ h.faults.recs, r.blocking = true ∧ r.src = .tx t
  clear : ∀ c, h.clear = some c → ∃ r ∈ h.faults.recs, r.seq = c.seq ∧ r.blocking = true ∧ r.src = .out c.out

/-- R91: at most one crosspoint of a row, and of a column, is other than OPEN. With it: a throw in a slot moves a crosspoint
other than OPEN, but after a hot switch; no two slots move one crosspoint or one positioner; a queued BREAK is of a crosspoint
other than OPEN. -/
structure Hall.matrixOk (h : Hall) : Prop where
  row : ∀ (t : Tx) (o p : Out), xst h t o ≠ .opened → xst h t p ≠ .opened → o = p
  column : ∀ (o : Out) (t u : Tx), xst h t o ≠ .opened → xst h u o ≠ .opened → t = u
  throws : ∀ (i : Fin 4) (x : Slot) (t : Tx) (o : Out), h.path.slots[i] = some x → x.hot = false →
    x.motion.kind = .make t o ∨ x.motion.kind = .brk t o → xst h t o ≠ .opened
  apart : ∀ (i j : Fin 4) (x y : Slot), i ≠ j → h.path.slots[i] = some x → h.path.slots[j] = some y →
    sameTarget x.motion.kind y.motion.kind = false
  breaks : ∀ m ∈ h.path.queue, ∀ (t : Tx) (o : Out), m.kind = .brk t o → xst h t o ≠ .opened

/-- R101, R150: no transmitter radiates under a GRANTED permit, and a row whose throw holds a slot has its permit GRANTED: so no
throw is in motion in the row of a transmitter that radiates. -/
structure Hall.permitsOk (h : Hall) : Prop where
  quiet : ∀ t : Tx, (h.tx[t]).permit = .granted → isRad (h.tx[t]).st = false
  held : ∀ (i : Fin 4) (x : Slot) (t : Tx) (o : Out), h.path.slots[i] = some x →
    x.motion.kind = .make t o ∨ x.motion.kind = .brk t o → (h.tx[t]).permit = .granted

end Sys2Proof.Machine
end

