-- ==== Sys2Proof/Certificates/Slice0/Obligations.lean ====
section
/-! DEFINITION. The statements for the provers. `Completes`, `Answers`, `TakenOk` and the invariants are in
Sys2Proof/Safety.lean. A statement that a request completes takes the state to have a free link and the tag to be 1 to 255;
what happens otherwise is Obligations.RequestWaitsOrIsBadForm. -/

open Sys2Proof Sys2Proof.Machine

/-! ### The queue, the end of an event, power-on, reset -/

/-- A step of a state whose queue has command `c` at its front is the meaning of `c` on the state with the queue's rest. -/
def Obligations.StepRunsFrontCommand : Prop :=
  ∀ (c : Instr) (s : State) (rest : List Instr), s.pending = c :: rest → step s = exec c { s with pending := rest }

/-- On an empty queue a step takes the request that waits in the waiting buffer, when no request is in hand; otherwise it is one
millisecond: the interval timer rises by 1, the clock by 1 ms (1.1 ms or 0.9 ms while a slew remains, R41), the time events that
fall due join the queue, and nothing else changes. That a step on an empty queue is a millisecond is the model's choice (log 1,
log 2, log 7). -/
def Obligations.StepOnEmptyQueue : Prop :=
  ∀ s : State, s.pending = [] →
    (∀ w, s.link.waiting = some w → s.hall.clear = none →
      step s = exec (heldCommand w) { s with link := { s.link with waiting := none } }) ∧
    (s.link.waiting = none ∨ s.hall.clear ≠ none →
      ∃ t, step s = .next t ∧ t.tables = s.tables ∧ t.hall = s.hall ∧ t.link = s.link ∧
        t.pending = dueEvents s.time.clock t.env t.hall ∧ t.time.now = s.time.now + 1 ∧
        (s.time.slew = none → t.time.clock = s.time.clock + 10 ∧ t.time.slew = none) ∧
        (∀ d : Int, s.time.slew = some d → 0 < d → t.time.clock = s.time.clock + 11 ∧ t.time.slew = some (d - 1)) ∧
        (∀ d : Int, s.time.slew = some d → d < 0 → t.time.clock = s.time.clock + 9 ∧ t.time.slew = some (d + 1)) ∧
        t.time.cstate = s.time.cstate ∧ t.time.lastPulse = s.time.lastPulse ∧ t.time.absence = s.time.absence ∧
        t.time.lastStep = s.time.lastStep)

/-- Every command, in every state, answers a next state, and the commands that wait stay as they were. -/
def Obligations.EveryCommandAnswersNext : Prop :=
  ∀ (c : Instr) (s : State), ∃ t, exec c s = .next t ∧ t.pending = s.pending

/-- What the end of an event adds to a direct effect `m` (`Completes`): it leaves the tables, the Time Base, the queue, the
sense lines and the FAULT-CLEAR in hand as they are in `m`; its replies go out after those made before, in order; the receiving
buffer moves up when the waiting buffer is empty and no request is in hand; its notices go in the order they were made, but that
the TX notices of a transmitter go before the FAULT notices of its records (R153, R195, log 20), and each FAULT notice carries
its record as it stands after the event (R199), the record as noticed only where it stands no longer (log 55); and where nothing
of the hall is due of itself, it does nothing but hand the replies and notices of `m` to the link. -/
def Obligations.EndOfEvent : Prop :=
  ∀ m : State, (finish m).tables = m.tables ∧ (finish m).time = m.time ∧ (finish m).pending = m.pending ∧
    (finish m).hall.sense = m.hall.sense ∧ (finish m).hall.clear = m.hall.clear ∧
    (finish m).link.out = m.link.out ++ m.hall.said ∧ (finish m).hall.said = [] ∧ (finish m).hall.emit = [] ∧
    (m.link.waiting = none → m.hall.clear = none →
      (finish m).link.waiting = m.link.receiving ∧ (finish m).link.receiving = none) ∧
    (m.link.waiting ≠ none ∨ m.hall.clear ≠ none →
      (finish m).link.waiting = m.link.waiting ∧ (finish m).link.receiving = m.link.receiving) ∧
    (∃ made : List NoticeBody,
      (finish m).link = (m.link.deliver m.hall.said m.env.sec
        ((txFirst made).map (NoticeBody.standing (finish m).hall.faults.recs))).moveUp m.hall.clear.isSome ∧
      (txFirst made).Perm made ∧ (∀ t, (txFirst made).filter (NoticeBody.isTxOf t) = made.filter (NoticeBody.isTxOf t)) ∧
      (∀ p : NoticeBody → Bool, (∀ t n, n.isTxOf t = true → p n = false) → (txFirst made).filter p = made.filter p) ∧
      (txFirst made).Pairwise fun a b => ∀ t, a.faultTx = some t → b.isTxOf t = false) ∧
    (∀ (recs : List FaultRec) (r : FaultRec) (v : FaultEvent),
      let same (f : FaultRec) : Prop := f.seq = r.seq ∧ f.kind = r.kind ∧ f.src = r.src
      ((NoticeBody.fault r v).standing recs = .fault r v ∨ ∃ f ∈ recs, same f ∧ (NoticeBody.fault r v).standing recs = .fault f v) ∧
      (∀ f ∈ recs, same f → (∀ g ∈ recs, same g → g = f) → (NoticeBody.fault r v).standing recs = .fault f v)) ∧
    (∀ (recs : List FaultRec) (n : NoticeBody), (∀ r v, n ≠ .fault r v) → n.standing recs = n) ∧
    (m.settled → finish m = m.closed)

/-- The state after reset is the state that power-on makes of it (log 3: the retained store at its defaults), with an empty
queue, and every invariant stated below holds of it. -/
def Obligations.ResetState : Prop :=
  exec .powerOn State.reset = .next State.reset ∧ State.reset.tables = Tables.default ∧ State.reset.pending = [] ∧
    State.reset.tables.ok ∧ State.reset.sizesOk ∧ State.reset.hall.banksOk ∧ State.reset.hall.linesOk ∧
    State.reset.hall.faultsOk ∧ State.reset.hall.matrixOk ∧ State.reset.hall.permitsOk

/-- Power-on: every field. The Time Base at its power-on values (R36); the retained tables, the banks and the positioners'
lines, rates and presets kept (R18, R77, R80, R119, R131, R164, R184), the masks of RFP and ESTOP clear (R157), the licence
lock CLEAR (R89); the hall ADOPTING with no change, assignment, stack, deferral, hold, directive, plan or fault record,
nothing adopted and no allocation owed (R20, R56, R67, R69, R176, R185, R194, R206); every crosspoint OPEN, every output
unclaimed and unread with its READ sent, no motion, the arrival counter at 1 and every sequence IDLE (R91, R93, R96, R101,
R103, R117); every positioner unread with its QUERY sent (R119, R122); every transmitter UNREACHABLE or ABSENT (R131); every
sense line unqualified with its timer on the raw level, which power-on keeps (R157, log 4); the buffers empty and one HALL
notice (R214, R216). The model's: the notice's sending has begun (log 6), the READs and QUERYs went out at time 0 (log 3), and
the commands that wait in the model's queue stay (log 28). -/
def Obligations.PowerOn : Prop :=
  ∀ s : State, ∃ t, exec .powerOn s = .next t ∧ t.pending = s.pending ∧
    t.time = { now := 0, clock := day2000 * ticksPerDay, cstate := .unset, slew := none, lastPulse := none,
               absence := none, lastStep := none } ∧
    (t.tables.lock = false ∧ t.tables.excl = s.tables.excl ∧ t.tables.outs = s.tables.outs ∧ t.tables.txs = s.tables.txs ∧
      t.tables.rcv = s.tables.rcv ∧ t.tables.lead = s.tables.lead ∧ t.tables.cool = s.tables.cool ∧
      t.tables.plans = s.tables.plans ∧ t.tables.stepTo = s.tables.stepTo) ∧
    (∀ l : SenseLine, t.tables.sense[senseIx l] =
      { s.tables.sense[senseIx l] with
        mask := match l with
          | .rfp _ | .estop => false
          | _ => (s.tables.sense[senseIx l]).mask }) ∧
    t.hall.banks = s.hall.banks ∧
    (∀ (o : Out) (p : Pos), s.hall.path.pos[o] = some p → p.gone = false → t.hall.path.pos[o] = some
      { line := p.line, rate := p.rate, presets := p.presets, st := .parked none, az := none, read := false,
        job := some ⟨0, 0, some 2000, none, false⟩, gone := false }) ∧
    (∀ o : Out, (∀ p, s.hall.path.pos[o] = some p → p.gone = true) → t.hall.path.pos[o] = none) ∧
    (∀ l : Fin 8, ((∃ (o : Out) (p : Pos), s.hall.path.pos[o] = some p ∧ p.gone = false ∧ p.line = l) →
        t.hall.path.drvCmd[l] = some .query) ∧
      ((∀ (o : Out) (p : Pos), s.hall.path.pos[o] = some p → p.gone = false → p.line ≠ l) →
        t.hall.path.drvCmd[l] = none)) ∧
    (t.hall.mode = .adopting ∧ t.hall.changes = [] ∧ t.hall.deferral = [] ∧ t.hall.dslot = none ∧ t.hall.running = none ∧
      t.hall.dlast = none ∧ t.hall.faults = ⟨[], 1, false⟩ ∧ t.hall.clear = none ∧ t.hall.adoptedS = 0 ∧ t.hall.adoptedF = 0 ∧
      t.hall.alloc = false ∧ t.hall.said = [] ∧ t.hall.emit = []) ∧
    (∀ u : Tx, t.hall.asg[u] = none ∧ t.hall.stack[u] = [] ∧ t.hall.idle[u] = .stopped ∧ t.hall.holds[u] = Hold.off ∧
      t.hall.path.seqs[u] = PathSeq.idle ∧ t.hall.adopt[u] = ⟨!(s.tables.txs[u]).defined, none, false, false⟩ ∧
      (t.hall.tx[u]).st = (if (s.tables.txs[u]).defined then .unreachable else .absent) ∧
      t.hall.tx[u] = TxRec.powerOn (s.tables.txs[u]).defined) ∧
    (∀ o : Out, (∀ u : Tx, (t.hall.path.xpt[o])[u] = ⟨.opened, none⟩) ∧ t.hall.path.owner[o] = none ∧
      t.hall.path.cols[o] = ⟨false, some ⟨0, some 2000⟩, none⟩ ∧ t.hall.path.colCmd[o] = some .read) ∧
    t.hall.path.queue = [] ∧ t.hall.path.arrival = 1 ∧ (∀ i : Fin 4, t.hall.path.slots[i] = none) ∧
    (∀ l : SenseLine, (t.hall.line l).raw = (s.hall.line l).raw ∧ (t.hall.line l).qual = none ∧
      (t.hall.line l).timer = some ((s.hall.line l).raw, (s.tables.sense[senseIx l]).qual)) ∧
    t.link = { synced := false, receiving := none, waiting := none, replies := [], notices := [], lost := false,
               sending := some (.notice ⟨day2000 * 86400, .hall .adopting .powerOn⟩) }

/-! ### The link -/

/-- A request given while another is in hand enters the receiving buffer, or is lost with a LINK-ERROR OVERRUN notice when that
holds a line; one whose tag is outside 1 to 255 is answered BAD-FORM with tag 0; and one whose form is refused is answered
BAD-FORM, with its tag when that is 1 to 255 and 0 otherwise, and with the name its line gave (log 9). How a request given as a
command meets the buffers is the model's (log 6). -/
def Obligations.RequestWaitsOrIsBadForm : Prop :=
  (∀ (c : Instr) (s : State) (tag : Nat) (r : Req), requestOfCommand c = some (tag, r) →
    (s.busy = true → s.link.receiving = none →
      Completes c s { s with link := { s.link with receiving := some (.cmd c) } }) ∧
    (s.busy = true → s.link.receiving ≠ none → Completes c s (s.note (.linkError .overrun (some tag)))) ∧
    (s.free → ¬ (1 ≤ tag ∧ tag ≤ 255) → Completes c s (s.say 0 (some r) .badForm .nothing))) ∧
  ∀ (tag : Option Nat) (name : Option Req) (s : State),
    let c : Instr := .requestBadForm ⟨tag, name⟩
    (s.free → ∀ n, tag = some n → 1 ≤ n → n ≤ 255 → Completes c s (s.say n name .badForm .nothing)) ∧
    (s.free → (∀ n, tag = some n → ¬ (1 ≤ n ∧ n ≤ 255)) → Completes c s (s.say 0 name .badForm .nothing)) ∧
    (s.busy = true → s.link.receiving = none →
      Completes c s { s with link := { s.link with receiving := some (.cmd c) } }) ∧
    (s.busy = true → s.link.receiving ≠ none → Completes c s (s.note (.linkError .overrun tag)))

/-- A completed line: what was begun before the first CR LF is dropped; an empty line is ignored; a line over 480 characters
and one whose checksum fails are discarded with a LINK-ERROR, whose tag is the one to three digits after the lead, if any (of
a longer run the first three, the model's: log 64); a RESYNC line is acted on at once; any other is lost with
OVERRUN when the receiving buffer holds a line, and enters it otherwise. RESYNC, whatever request is in hand: BAD-FORM without
DIR, RANGE for another value; otherwise IN empties the receiving and waiting buffers, OUT the notice queue, BOTH both; the
reply is OK and carries DIR. -/
def Obligations.LineFraming : Prop :=
  (∀ (lead : Char) (rest : List Char), (∀ c, rest.head? = some c → digitOf c = none) → errTag (lead :: rest) = none ∧
    ∀ ds : List (Fin 10), 1 ≤ ds.length → ds.length ≤ 3 →
      errTag (lead :: ((ds.map fun d => Nat.digitChar d.val) ++ rest)) = some (ds.foldl (fun n d => n * 10 + d.val) 0)) ∧
  (∀ (l : List Char) (s : State),
    (s.link.synced = false → Completes (.lineComplete l) s { s with link := { s.link with synced := true } }) ∧
    (s.link.synced = true → l = [] → Completes (.lineComplete l) s s) ∧
    (s.link.synced = true → 480 < l.length → Completes (.lineComplete l) s (s.note (.linkError .length (errTag l)))) ∧
    (s.link.synced = true → l ≠ [] → l.length ≤ 480 → checksumOk l = false →
      Completes (.lineComplete l) s (s.note (.linkError .checksum (errTag l)))) ∧
    (s.link.synced = true → l ≠ [] → l.length ≤ 480 → checksumOk l = true → isResync l = true →
      Completes (.lineComplete l) s (resyncLine l s)) ∧
    (s.link.synced = true → l ≠ [] → l.length ≤ 480 → checksumOk l = true → isResync l = false →
      s.link.receiving ≠ none → Completes (.lineComplete l) s (s.note (.linkError .overrun (errTag l)))) ∧
    (s.link.synced = true → l ≠ [] → l.length ≤ 480 → checksumOk l = true → isResync l = false →
      s.link.receiving = none →
      Completes (.lineComplete l) s { s with link := { s.link with receiving := some (.text l) } })) ∧
  ∀ (tag : Nat) (s : State), 1 ≤ tag → tag ≤ 255 →
    Completes (.resync tag none) s (s.say tag (some .resync) .badForm .nothing) ∧
    Completes (.resync tag (some none)) s (s.say tag (some .resync) .range .nothing) ∧
    Completes (.resync tag (some (some .inn))) s
      ({ s with link := { s.link with receiving := none, waiting := none } }.say tag (some .resync) .ok (.dir .inn)) ∧
    Completes (.resync tag (some (some .out))) s
      ({ s with link := { s.link with notices := [] } }.say tag (some .resync) .ok (.dir .out)) ∧
    Completes (.resync tag (some (some .both))) s
      ({ s with link := { s.link with receiving := none, waiting := none, notices := [] } }.say tag (some .resync) .ok
        (.dir .both))

/-- At a line boundary a reply that is ready goes before any notice; with none, the head of the notice queue goes; with
neither, the line falls idle. A notice made while a line is being sent enters the queue at its end; with 32 lines held it is
discarded and the notices-lost flag is set. A reply's line is `=`, the tag, the request's name where it has one, STATUS, and
the fields of its body; a notice's `!`, tag 0, its name, TIME (its place is log 9's), and its fields; each then `*` and the
four hex digits of the checksum of the characters between. No line is longer than 480 characters; one that has room holds
every field whole (what one without room leaves out is log 8's). The fields' names are not stated here: some are the model's
(log 9). HALL-STATUS answers the hall's summary and clears the notices-lost flag. -/
def Obligations.OutboundLines : Prop :=
  ((∀ s : State,
    (∀ r rs, s.link.replies = r :: rs → Completes .outboundLineSent s
      { s with link := { s.link with sending := some (.reply r), replies := rs } }) ∧
    (s.link.replies = [] → ∀ n ns, s.link.notices = n :: ns → Completes .outboundLineSent s
      { s with link := { s.link with sending := some (.notice n), notices := ns } }) ∧
    (s.link.replies = [] → s.link.notices = [] → Completes .outboundLineSent s
      { s with link := { s.link with sending := none } })) ∧
  (∀ (l : Link) (n : Notice), l.sending ≠ none →
    (l.notices.length < 32 → l.pushNotice n = { l with notices := l.notices ++ [n] }) ∧
    (32 ≤ l.notices.length → l.pushNotice n = { l with lost := true })) ∧
  (∀ r : Reply, ∃ rest : List Char,
    let head := Nat.toDigits 10 r.tag ++ (r.req.elim [] fun q => ' ' :: reqText q) ++ " STATUS=".toList ++ statusText r.status
    let whole := head ++ (bodyFields r.body).flatMap fun f => ' ' :: f
    let body := (head ++ rest).take 474
    r.line = ['='] ++ body ++ ['*'] ++ hex4 (crc body).toNat ∧ r.line.length ≤ 480 ∧
      (whole.length ≤ 474 → body = whole)) ∧
  ∀ n : Notice, ∃ rest : List Char,
    let head := "0 ".toList ++ (noticeFields n.body).1.toList ++ " TIME=".toList ++ readingText n.time
    let whole := head ++ (noticeFields n.body).2.flatMap fun f => ' ' :: f
    let body := (head ++ rest).take 474
    n.line = ['!'] ++ body ++ ['*'] ++ hex4 (crc body).toNat ∧ n.line.length ≤ 480 ∧
      (whole.length ≤ 474 → body = whole)) ∧
  ∀ (tag : Nat) (s : State), s.takes tag → Completes (.hallStatus tag) s
    ({ s with link := { s.link with lost := false } }.say tag (some .hallStatus) .ok
      (.hall { mode := s.hall.mode, lead := s.tables.lead, cool := s.tables.cool, rcv := s.tables.rcv, lock := s.tables.lock,
               clock := s.time.cstate, overflow := s.hall.faults.overflow,
               blocking := (s.hall.faults.recs.filter FaultRec.blocking).length, notices := s.link.notices.length,
               lost := s.link.lost }))

/-- R217: IDENTIFY changes nothing and answers the part, its revision letter and the list of its capacities. -/
def Obligations.Identify : Prop :=
  ∀ (tag : Nat) (s : State), s.takes tag → Answers (.identify tag) s tag .identify .ok
    (.identity "HC-1228" Config.revision
      [("TX", 12), ("OUT", 28), ("SLEW", 8), ("BANKS", 4), ("ENTRIES", 400), ("CHANGES", 16), ("DEFER", 24), ("STACK", 4),
       ("PLANS", 32), ("STEPS", 8), ("SLOTS", 4), ("EXCL", 16), ("FAULTS", 48), ("NOTICES", 32), ("LINE", 480)])

/-- A name outside its list is RANGE. A bank number outside 1 to 4 is RANGE whatever else the request gives; for CHANGE-POST,
once its form is right: an entry with ADD and AMEND, none with WITHDRAW. -/
def Obligations.NamesOutsideTheirLists : Prop :=
  ∀ (tag : Nat) (s : State), s.takes tag →
    (∀ bank : Nat, ¬ (1 ≤ bank ∧ bank ≤ 4) →
      (∀ l, Answers (.bankOpen tag bank l) s tag .bankOpen .range .nothing) ∧
      (∀ f, Answers (.entryPut tag bank f) s tag .entryPut .range .nothing) ∧
      (∀ id, Answers (.entryDrop tag bank id) s tag .entryDrop .range .nothing) ∧
      (∀ d m, Answers (.bankCommit tag bank d m) s tag .bankCommit .range .nothing) ∧
      Answers (.bankUncommit tag bank) s tag .bankUncommit .range .nothing ∧
      Answers (.bankRelease tag bank) s tag .bankRelease .range .nothing ∧
      (∀ l, Answers (.bankRestage tag bank l) s tag .bankRestage .range .nothing) ∧
      Answers (.bankStatus tag bank) s tag .bankStatus .range .nothing ∧
      (∀ id, Answers (.entryGet tag bank id) s tag .entryGet .range .nothing) ∧
      (∀ id, Answers (.entryList tag bank id) s tag .entryList .range .nothing) ∧
      (∀ k id, Answers (.changePost tag bank (some .withdraw) id none) s tag .changePost .range .nothing ∧
        ∀ f, k = .add ∨ k = .amend →
          Answers (.changePost tag bank (some k) id (some f)) s tag .changePost .range .nothing)) ∧
    Answers (.assignmentStatus tag none) s tag .assignmentStatus .range .nothing ∧
    (∀ a b c d e, Answers (.outputDefine tag none a b c d e) s tag .outputDefine .range .nothing) ∧
    Answers (.outputUndefine tag none) s tag .outputUndefine .range .nothing ∧
    Answers (.outputGet tag none) s tag .outputGet .range .nothing ∧
    Answers (.matrixStatus tag none) s tag .matrixStatus .range .nothing ∧
    (∀ a b, Answers (.positionerSet tag none a b) s tag .positionerSet .range .nothing) ∧
    (∀ a b, Answers (.presetSet tag none a b) s tag .presetSet .range .nothing) ∧
    Answers (.positionerStatus tag none) s tag .positionerStatus .range .nothing ∧
    (∀ a b c d e, Answers (.txDefine tag none a b c d e) s tag .txDefine .range .nothing) ∧
    Answers (.txUndefine tag none) s tag .txUndefine .range .nothing ∧
    Answers (.txStatus tag none) s tag .txStatus .range .nothing ∧
    (∀ a b c, Answers (.senseSet tag none a b c) s tag .senseSet .range .nothing) ∧
    Answers (.senseStatus tag none) s tag .senseStatus .range .nothing ∧
    (∀ v, Answers (.holdSet tag none v) s tag .holdSet .range .nothing) ∧
    (∀ t, Answers (.holdSet tag t none) s tag .holdSet .range .nothing) ∧
    (∀ a, Answers (.holdClear tag none a) s tag .holdClear .range .nothing) ∧
    (∀ t, Answers (.holdClear tag t none) s tag .holdClear .range .nothing) ∧
    Answers (.holdStatus tag (some none)) s tag .holdStatus .range .nothing ∧
    Answers (.sectionReset tag none) s tag .sectionReset .range .nothing

/-! ### Banks and the change queue -/

/-- ENTRY-PUT on a STAGING bank: the checks in their order, each with its status; an entry that passes is inserted without a
mark, behind the entries of lower id and, in a bank in id order (R6), before those of higher, or replaces the one with its id
where it stands and keeps its mark, and every other entry stays. -/
def Obligations.EntryPut : Prop :=
  ∀ (tag : Nat) (n : BankNo) (f : EntryForm) (s : State), s.takes tag →
    let c : Instr := .entryPut tag (n.val + 1) f
    let b := s.hall.banks[n]
    let inOrder (en : Entry) (l l' : List EntryRec) := ∃ before after, l = before ++ after ∧
      l' = before ++ ⟨en, none⟩ :: after ∧ (∀ x ∈ before, x.entry.id < en.id) ∧
      ((l.map fun r => r.entry.id).Pairwise (· < ·) → ∀ x ∈ after, en.id < x.entry.id)
    (b.st ≠ .staging → Answers c s tag .entryPut .state .nothing) ∧
    (b.st = .staging → entryOf f = none → Answers c s tag .entryPut .range .nothing) ∧
    (∀ en, b.st = .staging → entryOf f = some en →
      let defined := txDefined s.tables s.hall en.tx = true ∧ (s.tables.outs[en.out]).defined = true
      let preset := en.preset.isSome = (s.tables.outs[en.out]).slewable
      let power := en.power ≤ (s.tables.txs[en.tx]).rating
      let answer := check s.tables s.hall ⟨some en.freq, some en.mode, some en.out, some en.power, none⟩
      (¬ defined → Answers c s tag .entryPut .notFound .nothing) ∧
      (defined → ¬ preset → Answers c s tag .entryPut .range .nothing) ∧
      (defined → preset → ¬ power → Answers c s tag .entryPut .range .nothing) ∧
      (defined → preset → power → answer ≠ .permitted →
        Answers c s tag .entryPut answer.status (.answer answer)) ∧
      (defined → preset → power → answer = .permitted → b.find en.id = none → 400 ≤ b.recs.length →
        Answers c s tag .entryPut .full .nothing) ∧
      (defined → preset → power → answer = .permitted → b.find en.id = none → b.recs.length < 400 →
        ∃ b', TakenOk c s (s.setBank n fun _ => b') tag .entryPut ∧ b'.find en.id = some ⟨en, none⟩ ∧
          (∀ id, id ≠ en.id → b'.find id = b.find id) ∧ inOrder en b.recs b'.recs ∧ b'.recs.length = b.recs.length + 1 ∧
          b'.st = b.st ∧ b'.label = b.label ∧ b'.start = b.start) ∧
      (∀ old, defined → preset → power → answer = .permitted → b.find en.id = some old →
        ∃ b', TakenOk c s (s.setBank n fun _ => b') tag .entryPut ∧ b'.find en.id = some ⟨en, old.mark⟩ ∧
          (∀ id, id ≠ en.id → b'.find id = b.find id) ∧
          b'.recs = (b.recs.map fun r => if r.entry.id = en.id then { r with entry := en } else r) ∧ b'.st = b.st ∧
          b'.label = b.label ∧ b'.start = b.start))

/-- R7: ENTRY-DROP on a STAGING bank removes the entry with its mark and the count falls by one (each id stands once); an id
that is not there is NOT-FOUND; on any other bank it is STATE. -/
def Obligations.EntryDrop : Prop :=
  ∀ (tag id : Nat) (n : BankNo) (s : State), s.takes tag →
    let c : Instr := .entryDrop tag (n.val + 1) id
    let b := s.hall.banks[n]
    let kept := b.recs.filter fun r => r.entry.id ≠ id
    (b.st = .staging → (∃ r ∈ b.recs, r.entry.id = id) →
      TakenOk c s (s.setBank n fun b => { b with recs := kept }) tag .entryDrop ∧
      ((b.recs.map fun r => r.entry.id).Nodup → kept.length + 1 = b.recs.length)) ∧
    (b.st = .staging → (∀ r ∈ b.recs, r.entry.id ≠ id) → Answers c s tag .entryDrop .notFound .nothing) ∧
    (b.st ≠ .staging → Answers c s tag .entryDrop .state .nothing)

/-- BANK-COMMIT: RANGE for a start instant outside its range, then STATE outside STAGING, then the first failure of R8: a
COMMITTED bank with that start, the lowest number; then the first entry, in the bank's order, that R8's tests fail, in their
order, with its id; then the first pair that clashes, with both ids. A bank that passes takes the start instant and is
COMMITTED: OK while the clock is UNSET or before the start, and ACCEPTED with the changeover when the start is at or before the
clock. What a changeover does: with the clock set and the hall not ADOPTING, the COMMITTED bank whose start instant came first
(the lower number among equals: R8 allows none) becomes ACTIVE, with its BANK notice; then the next, and after the last the
scan. The bank that was RETIRING is SPENT: its assignments not yet ENDING end CHANGEOVER, no bank's reference, and its stack
items leave. Of the bank that was ACTIVE, assignments not yet ENDING that start at or after the new bank's start end CHANGEOVER,
earlier ones run on, its deferral items leave, and it is RETIRING while an assignment or a stack item refers to it and SPENT
otherwise. -/
def Obligations.BankCommit : Prop :=
  (∀ (e : Env) (h : Hall),
    let due (n : BankNo) := (h.banks[n]).st = .committed ∧ ∃ x, (h.banks[n]).start = some x ∧ x ≤ e.min
    let from_ (n : BankNo) : Minutes := (h.banks[n]).start.getD 0
    (e.tm.cstate = .unset ∨ h.mode = .adopting ∨ (∀ n, ¬ due n) → changeoverIfDue e h = h ∧ changeoverScan e h = scan e h) ∧
    ∀ n, e.tm.cstate ≠ .unset → h.mode ≠ .adopting → due n →
      (∀ m, due m → from_ n < from_ m ∨ (from_ n = from_ m ∧ n ≤ m)) →
      let g := changeover e n h
      let refers (o : BankNo) := ∃ t : Tx, (∃ a x, g.asg[t] = some a ∧ a.counts = true ∧ a.sched = some x ∧ x.occ.bank = o) ∨
        ∃ i ∈ g.stack[t], i.item.occ.bank = o
      changeoverIfDue e h = changeoverScan e h ∧ changeoverScan e h = scan e (changeovers e 3 g) ∧
      g.banks[n] = { h.banks[n] with st := .active } ∧ .bank n .active (h.banks[n]).label (h.banks[n]).start ∈ g.emit ∧
      (∀ m : BankNo, (g.banks[m]).recs = (h.banks[m]).recs) ∧
      (∀ r, retiringBank h = some r → (g.banks[r]).st = .spent ∧
        (∀ t : Tx, g.stack[t] = (h.stack[t]).filter fun i => decide (i.item.occ.bank ≠ r)) ∧
        ∀ (t : Tx) a x, h.asg[t] = some a → a.sched = some x → x.occ.bank = r → g.asg[t] = none ∨
          ∃ b, g.asg[t] = some b ∧ b.counts = false ∧
            b.phase = if a.phase.isEnding = true then a.phase else .ending .changeover .nothing) ∧
      (retiringBank h = none → g.stack = h.stack) ∧
      (∀ o, activeBank h = some o → (refers o → (g.banks[o]).st = .retiring) ∧ (¬ refers o → (g.banks[o]).st = .spent) ∧
        g.deferral = (h.deferral.filter fun i => decide (i.item.occ.bank ≠ o)) ∧
        ∀ (t : Tx) a x, h.asg[t] = some a → a.sched = some x → x.occ.bank = o →
          (from_ n ≤ x.start → a.phase.isEnding = false → g.asg[t] = none ∨
            ∃ b, g.asg[t] = some b ∧ b.phase = .ending .changeover .nothing) ∧
          (x.start < from_ n → ∃ b, g.asg[t] = some b ∧ b.phase = a.phase ∧ b.sched = a.sched ∧ b.eff = a.eff)) ∧
      (activeBank h = none → g.deferral = h.deferral)) ∧
  ∀ (tag hhmm : Nat) (n : BankNo) (d : DateForm) (s : State), s.takes tag →
    let c : Instr := .bankCommit tag (n.val + 1) d hhmm
    let b := s.hall.banks[n]
    let fault (en : Entry) : Option (Status × Option CheckAnswer) :=
      let answer := check s.tables s.hall ⟨some en.freq, some en.mode, some en.out, some en.power, none⟩
      if txDefined s.tables s.hall en.tx = false ∨ (s.tables.outs[en.out]).defined = false then some (.notFound, none)
      else if en.preset.isSome ≠ (s.tables.outs[en.out]).slewable ∨ (s.tables.txs[en.tx]).rating < en.power then some (.range, none)
      else if answer ≠ .permitted then some (answer.status, some answer)
      else none
    (commitStart d hhmm = none → Answers c s tag .bankCommit .range .nothing) ∧
    (∀ start, commitStart d hhmm = some start → b.st ≠ .staging → Answers c s tag .bankCommit .state .nothing) ∧
    (∀ start, commitStart d hhmm = some start → b.st = .staging →
      let done : State := s.setBank n fun b => { b with st := .committed, start := some start }
      (∀ m : BankNo, (s.hall.banks[m]).st = .committed → (s.hall.banks[m]).start = some start →
        (∀ k : BankNo, k < m → ¬ ((s.hall.banks[k]).st = .committed ∧ (s.hall.banks[k]).start = some start)) →
        Answers c s tag .bankCommit .conflict (.otherBank m)) ∧
      (∀ st body, commitFault s b start = some (st, body) → Answers c s tag .bankCommit st body) ∧
      ((∀ m : BankNo, ¬ ((s.hall.banks[m]).st = .committed ∧ (s.hall.banks[m]).start = some start)) →
        (∀ before r after st a, b.recs = before ++ r :: after → (∀ x ∈ before, fault x.entry = none) →
          fault r.entry = some (st, a) → Answers c s tag .bankCommit st (.atId r.entry.id a)) ∧
        ∀ before r mid x after, (∀ y ∈ b.recs, fault y.entry = none) → b.recs = before ++ r :: (mid ++ x :: after) →
          (∀ front y back, b.recs = front ++ y :: back → front.length < before.length →
            ∀ z ∈ back, clash start y.entry z.entry = false) →
          (∀ y ∈ mid, clash start r.entry y.entry = false) → clash start r.entry x.entry = true →
          Answers c s tag .bankCommit .conflict (.otherIds r.entry.id x.entry.id)) ∧
      (commitFault s b start = none → ¬ (s.time.cstate ≠ .unset ∧ start ≤ s.time.clock / ticksPerMin) →
        TakenOk c s done tag .bankCommit) ∧
      (commitFault s b start = none → s.time.cstate ≠ .unset ∧ start ≤ s.time.clock / ticksPerMin →
        Completes c s ((done.onHall changeoverIfDue).say tag (some .bankCommit) .accepted .nothing)) ∧
      (commitFault s b start = none ↔
        (∀ m : BankNo, ¬ ((s.hall.banks[m]).st = .committed ∧ (s.hall.banks[m]).start = some start)) ∧
        (∀ r ∈ b.recs, entryFault s.tables s.hall r.entry = none) ∧
        b.recs.Pairwise fun x y => clash start x.entry y.entry = false))

/-- BANK-OPEN on an EMPTY bank makes it STAGING with the label given or none, and no entry; RANGE for a label that R4 does not
allow; on any other bank STATE. BANK-UNCOMMIT on a COMMITTED bank, BANK-RELEASE on a STAGING or SPENT one, BANK-RESTAGE on a
SPENT one, with its label replaced when one is given; STATE otherwise. The model's choices here (log 26): BANK-RESTAGE of a
SPENT bank with a label that R4 does not allow is RANGE, a refusal R12 does not give; and STATE stands before RANGE in BANK-OPEN
and BANK-RESTAGE, so that a bad label on another bank is STATE. -/
def Obligations.BankStates : Prop :=
  ∀ (tag : Nat) (n : BankNo) (label : Option (List Char)) (s : State), s.takes tag →
    let b := s.hall.banks[n]
    let opn : Instr := .bankOpen tag (n.val + 1) label
    let uncommit : Instr := .bankUncommit tag (n.val + 1)
    let release : Instr := .bankRelease tag (n.val + 1)
    let restage : Instr := .bankRestage tag (n.val + 1) label
    (b.st = .empty → label.all labelOk = true →
      TakenOk opn s (s.setBank n fun _ => { st := .staging, label := label.getD [], start := none, recs := [] }) tag
        .bankOpen) ∧
    (b.st = .empty → label.all labelOk = false → Answers opn s tag .bankOpen .range .nothing) ∧
    (b.st ≠ .empty → Answers opn s tag .bankOpen .state .nothing) ∧
    (b.st = .committed → TakenOk uncommit s (s.setBank n fun b => { b with st := .staging, start := none }) tag
      .bankUncommit) ∧
    (b.st ≠ .committed → Answers uncommit s tag .bankUncommit .state .nothing) ∧
    (b.st = .staging ∨ b.st = .spent →
      TakenOk release s (s.setBank n fun _ => { st := .empty, label := [], start := none, recs := [] }) tag .bankRelease) ∧
    (b.st ≠ .staging → b.st ≠ .spent → Answers release s tag .bankRelease .state .nothing) ∧
    (b.st = .spent → label.all labelOk = true →
      TakenOk restage s (s.setBank n fun b => { b with st := .staging, start := none, label := label.getD b.label }) tag
        .bankRestage) ∧
    (b.st = .spent → label.all labelOk = false → Answers restage s tag .bankRestage .range .nothing) ∧
    (b.st ≠ .spent → Answers restage s tag .bankRestage .state .nothing)

/-- R17: the three requests that read the banks change nothing; an EMPTY bank, which has no entries, no label and no start,
answers them with state EMPTY and count 0, with NOT-FOUND and with an empty list. -/
def Obligations.BankReads : Prop :=
  ∀ (tag id : Nat) (n : BankNo) (s : State), s.takes tag →
    let b := s.hall.banks[n]
    let ids := (b.recs.map fun r => r.entry.id).filter fun i => id ≤ i
    Answers (.bankStatus tag (n.val + 1)) s tag .bankStatus .ok (.bank n b.st b.label b.recs.length b.start) ∧
    (∀ r, b.find id = some r → Answers (.entryGet tag (n.val + 1) id) s tag .entryGet .ok (.entry r.entry r.mark)) ∧
    (b.find id = none → Answers (.entryGet tag (n.val + 1) id) s tag .entryGet .notFound .nothing) ∧
    Answers (.entryList tag (n.val + 1) id) s tag .entryList .ok (.ids (ids.take 40) (ids.drop 40).head?) ∧
    (b = Bank.blank →
      Answers (.bankStatus tag (n.val + 1)) s tag .bankStatus .ok (.bank n .empty [] 0 none) ∧
      Answers (.entryGet tag (n.val + 1) id) s tag .entryGet .notFound .nothing ∧
      Answers (.entryList tag (n.val + 1) id) s tag .entryList .ok (.ids [] none))

/-- CHANGE-POST: BAD-FORM, whatever its bank, for an entry with WITHDRAW or none with ADD or AMEND; then RANGE for a bank
outside 1 to 4, a kind outside its list, an id outside 1 to 65535, an entry outside R1, or a preset on a dummy load; FULL with
16 changes; otherwise the change joins the queue's end as QUEUED, and the reply is ACCEPTED. -/
def Obligations.ChangePost : Prop :=
  ∀ (tag id : Nat) (n : BankNo) (k : ChangeKind) (f : Option EntryForm) (s : State), s.takes tag →
    let c : Instr := .changePost tag (n.val + 1) (some k) id f
    let entry : Option Entry := f.bind fun f => entryOf { f with id := id }
    let form := (k = .withdraw ↔ f = none)
    let range := 1 ≤ id ∧ id ≤ 65535 ∧ (k ≠ .withdraw → ∃ en, entry = some en ∧ (isLoad en.out = true → en.preset = none))
    (¬ form → ∀ bank, Answers (.changePost tag bank (some k) id f) s tag .changePost .badForm .nothing) ∧
    (form → ∀ bank, ¬ (1 ≤ bank ∧ bank ≤ 4) →
      Answers (.changePost tag bank (some k) id f) s tag .changePost .range .nothing) ∧
    Answers (.changePost tag (n.val + 1) none id f) s tag .changePost .range .nothing ∧
    (form → ¬ range → Answers c s tag .changePost .range .nothing) ∧
    (form → range → 16 ≤ s.hall.changes.length → Answers c s tag .changePost .full .nothing) ∧
    (form → range → s.hall.changes.length < 16 →
      Completes c s ({ s with hall := { s.hall with changes := s.hall.changes ++
        [({ tag := tag, bank := n, kind := k, id := id, entry := entry, draining := false, frozen := [], awaited := [],
            recheck := false } : Change)] } }.say tag (some .changePost) .accepted .nothing))

/-- CHANGE-LIST changes nothing and lists, head first, each change's tag, bank, kind, id and stage. The head is not examined in
ADOPTING; a QUEUED head is examined at once, before all that is due but permits taken back and ends that complete (log 5), and a
DRAINING one again when an awaited item has left flight, when an assignment it froze no longer carries its entry, or when a
reset asks for it, and otherwise waits. An examination rejects a kind that its bank's state does not take with STATE, then a
WITHDRAW or AMEND of an id not held with NOT-FOUND, an ADD of one held with CONFLICT and into a bank of 400 with FULL, then an
entry by the tests of R24 in their order, then a clash with CONFLICT, the first in the bank's order, lower id first. A WITHDRAW
or AMEND in an ACTIVE or RETIRING bank, with work in flight for an assignment of its entry, is DRAINING: it stays at the head
with those assignments frozen and their work awaited. Otherwise it is applied, leaves with CHANGE-DONE, and allocation is owed
unless the bank is COMMITTED. ADD puts the entry into the bank in id order, without a mark, and nothing else. WITHDRAW removes
the entry with its mark, takes its items off every stack and the deferral list and ends its assignments WITHDRAWN. AMEND
replaces the entry, its mark kept, then takes the assignments, the stacks and the deferral list. It ends an assignment WITHDRAWN
when the replacement does not cover its date or names another transmitter (one already ENDING keeps its outcome and what it
held: log 51); otherwise it takes the replacement's priority, instants and parameters. It is then taken off PREEMPTED, to be
deferred, where its effective output is claimed or reserved by another or FAULTED, and recomputed where not or ENDING. An item
whose date it does not cover leaves WITHDRAWN; another takes the replacement's values and stays in its stack, moves to the
deferral list as TX-BUSY when it names another transmitter, or takes its new place in the deferral list. -/
def Obligations.ChangeList : Prop :=
  (∀ (tag : Nat) (s : State), s.takes tag → Answers (.changeList tag) s tag .changeList .ok
    (.changes (s.hall.changes.map fun c =>
      ({ tag := c.tag, bank := c.bank, kind := c.kind, id := c.id, draining := c.draining } : ChangeView)))) ∧
  ∀ (e : Env) (h : Hall) (c : Change) (rest : List Change), h.changes = c :: rest →
    let b := h.banks[c.bank]
    let held := ∃ r ∈ b.recs, r.entry.id = c.id
    let of_ (o : Occ) : Prop := o.bank = c.bank ∧ o.id = c.id
    let carries (t : Tx) : Prop := ∃ a x, h.asg[t] = some a ∧ a.sched = some x ∧ of_ x.occ
    let flies (t : Tx) (w : Work) : Prop :=
      (∃ o at_, (h.tx[t]).out = some o ∧ o.sentAt = some at_ ∧ w = .order t (o.no.getD 0)) ∨
      ∃ (i : Fin 4) (x : Slot), h.path.slots[i] = some x ∧ t ∈ x.motion.waiters ∧ w = .motion x.motion.kind x.motion.arrival
    let rejected (r : RejectReason) : Hall :=
      { h with changes := rest, emit := h.emit ++ [.changeRejected c.tag c.bank c.kind c.id r] }
    let taken := b.st = .committed ∨ b.st = .active ∨ (b.st = .retiring ∧ c.kind = .withdraw)
    let fault (en : Entry) : Option (Status × Option CheckAnswer) :=
      let answer := check e.k h ⟨some en.freq, some en.mode, some en.out, some en.power, none⟩
      if txDefined e.k h en.tx = false ∨ (e.k.outs[en.out]).defined = false then some (.notFound, none)
      else if en.preset.isSome ≠ (e.k.outs[en.out]).slewable ∨ (e.k.txs[en.tx]).rating < en.power then some (.range, none)
      else if answer ≠ .permitted then some (answer.status, some answer)
      else none
    let clashes (en : Entry) (r : EntryRec) : Prop := clash (b.start.getD 0) en r.entry = true
    let tested (en : Entry) := c.entry = some en ∧
      ((c.kind = .add ∧ ¬ held ∧ b.recs.length < 400) ∨ (c.kind = .amend ∧ held))
    let passes := (c.kind = .withdraw ∧ held) ∨ ∃ en, tested en ∧ fault en = none ∧ ∀ r ∈ b.recs, ¬ clashes en r
    let engaged := (b.st = .active ∨ b.st = .retiring) ∧ c.kind ≠ .add ∧ ∃ t w, carries t ∧ flies t w
    let g := applyChange e c h
    (h.mode = .adopting → changeStep e h = none) ∧
    (∀ k, (∀ t, takeBackStep e t h = none ∧ endStep e t h = none) → changeStep e h = some k → nextRule e h = some k) ∧
    (h.mode ≠ .adopting → c.draining = false → changeStep e h = some (examine e c h)) ∧
    (h.mode ≠ .adopting → c.draining = true →
      (c.recheck = true ∨ (∃ w ∈ c.awaited, ∀ t ∈ c.frozen, ¬ flies t w) ∨ (∃ t ∈ c.frozen, ¬ carries t) →
        changeStep e h = some (examine e c h)) ∧
      (c.recheck = false → (∀ w ∈ c.awaited, ∃ t ∈ c.frozen, flies t w) → (∀ t ∈ c.frozen, carries t) →
        changeStep e h = none)) ∧
    (¬ taken → examine e c h = rejected (.status .state none none)) ∧
    (taken → ¬ held → c.kind = .withdraw ∨ (c.kind = .amend ∧ c.entry ≠ none) →
      examine e c h = rejected (.status .notFound none none)) ∧
    (taken → held → c.kind = .add → c.entry ≠ none → examine e c h = rejected (.status .conflict (some (c.id, none)) none)) ∧
    (taken → ¬ held → c.kind = .add → c.entry ≠ none → 400 ≤ b.recs.length →
      examine e c h = rejected (.status .full none none)) ∧
    (∀ en st a, taken → tested en → fault en = some (st, a) → examine e c h = rejected (.status st none a)) ∧
    (∀ en r before after, taken → tested en → fault en = none → b.recs = before ++ r :: after →
      (∀ x ∈ before, ¬ clashes en x) → clashes en r →
      examine e c h = rejected (.status .conflict (some (min en.id r.entry.id, some (max en.id r.entry.id))) none)) ∧
    (taken → passes → engaged → ∃ l ws, examine e c h =
        { h with changes := { c with draining := true, frozen := l, awaited := ws, recheck := false } :: rest } ∧
      (∀ t, t ∈ l ↔ carries t ∧ ∃ w, flies t w) ∧ ∀ w, w ∈ ws ↔ ∃ t ∈ l, flies t w) ∧
    (taken → passes → ¬ engaged → examine e c h =
      { g with changes := g.changes.tail, emit := g.emit ++ [.changeDone c.tag c.bank c.kind c.id]
               alloc := g.alloc || decide (b.st ≠ .committed) }) ∧
    (∀ en, c.kind = .add → c.entry = some en → (∀ r ∈ b.recs, r.entry.id ≠ en.id) → ∃ b' : Bank,
      g = h.setBank c.bank (fun _ => b') ∧ b'.find en.id = some ⟨en, none⟩ ∧ (∀ id, id ≠ en.id → b'.find id = b.find id) ∧
      (∃ before after, b.recs = before ++ after ∧ b'.recs = before ++ ⟨en, none⟩ :: after ∧
        (∀ x ∈ before, x.entry.id < en.id) ∧
        ((b.recs.map fun r => r.entry.id).Pairwise (· < ·) → ∀ x ∈ after, en.id < x.entry.id)) ∧
      b'.recs.length = b.recs.length + 1 ∧ b'.st = b.st ∧ b'.label = b.label ∧ b'.start = b.start) ∧
    (c.kind = .withdraw →
      (∀ (t : Tx), g.stack[t] = (h.stack[t]).filter fun i => decide ¬ (i.item.occ.bank = c.bank ∧ i.item.occ.id = c.id)) ∧
      (g.deferral = h.deferral.filter fun i => decide ¬ (i.item.occ.bank = c.bank ∧ i.item.occ.id = c.id)) ∧
      ∀ (t : Tx) (a : Asg) (x : Sched), h.asg[t] = some a → a.sched = some x → of_ x.occ → a.phase.isEnding = false →
        g.asg[t] = none ∨ ∃ a', g.asg[t] = some a' ∧ a'.phase = .ending .withdrawn .nothing) ∧
    (c.kind = .withdraw → (g.banks[c.bank]).recs = b.recs.filter fun r => decide (r.entry.id ≠ c.id)) ∧
    (∀ m, m ≠ c.bank → (g.banks[m]).recs = (h.banks[m]).recs) ∧
    ∀ en : Entry,
      let covers (d : Day) : Bool := b.start.any (fun x => hasOcc en x d) && admitted e en d && decide (e.min < occStop en d)
      let mine (i : Item) : Bool := decide (i.occ.bank = c.bank ∧ i.occ.id = c.id)
      let amended (i : Item) : Item :=
        { i with tx := en.tx, prio := en.prio, start := occStart en i.occ.day, stop := occStop en i.occ.day }
      (c.kind = .amend → c.entry = some en →
        g = amendDeferral e c en (((h.setBank c.bank fun b => b.put en).each allTx (amendAsg e c en)).each allTx
          (amendStack e c en)) ∧
        ((∃ r ∈ b.recs, r.entry.id = en.id) → (g.banks[c.bank]).recs =
          b.recs.map fun r => if r.entry.id = en.id then { r with entry := en } else r)) ∧
      (∀ (t : Tx) (a : Asg) (x : Sched), h.asg[t] = some a → a.sched = some x →
        (¬ of_ x.occ → amendAsg e c en t h = h) ∧
        (of_ x.occ → ¬ (covers x.occ.day = true ∧ en.tx = t) → amendAsg e c en t h = endAsg e t .withdrawn .nothing h) ∧
        (of_ x.occ → covers x.occ.day = true → en.tx = t →
          let new := effective e.k (h.holds[t]) (entryParams en) a.fold
          let taken : Asg := { a with
            base := entryParams en
            sched := some { x with prio := en.prio, start := occStart en x.occ.day, stop := occStop en x.occ.day } }
          let away := (∃ u, u ≠ t ∧ h.path.owner[new.out] = some u) ∨ reservedByOther h new.out t = true ∨
            blocked h (.out new.out) = true
          (a.phase.isEnding = true ∨ ¬ away → amendAsg e c en t h = recompute e t false false (h.setAsg t (some taken))) ∧
          (a.phase.isEnding = false → away → amendAsg e c en t h = endAsg e t .preempted
            (.defer (if blocked h (.out new.out) = true then .outputBlocked else .outputBusy))
            (h.setAsg t (some { taken with eff := new }))))) ∧
      (∀ t : Tx, h.asg[t] = none ∨ (∃ a, h.asg[t] = some a ∧ a.sched = none) → amendAsg e c en t h = h) ∧
      (∀ t : Tx,
        let k := amendStack e c en t h
        (∀ i ∈ h.stack[t], mine i.item = true → covers i.item.occ.day = false → .withdrawn i.item.occ ∈ k.emit) ∧
        (en.tx = t → k.deferral = h.deferral ∧
          k.stack[t] = ((h.stack[t]).filter fun i => !mine i.item || covers i.item.occ.day).map fun i =>
            if mine i.item = true then { i with item := amended i.item } else i) ∧
        (en.tx ≠ t → k.stack[t] = ((h.stack[t]).filter fun i => !mine i.item) ∧
          ∀ i ∈ h.stack[t], mine i.item = true → covers i.item.occ.day = true →
            h.deferral.length + (h.stack[t]).length ≤ 24 → ⟨amended i.item, .txBusy⟩ ∈ k.deferral)) ∧
      let l := (amendDeferral e c en h).deferral
      (∀ i ∈ h.deferral, mine i.item = true → covers i.item.occ.day = false →
        .withdrawn i.item.occ ∈ (amendDeferral e c en h).emit) ∧
      (∀ i, i ∈ l ↔ (i ∈ h.deferral ∧ mine i.item = false) ∨
        ∃ j ∈ h.deferral, mine j.item = true ∧ covers j.item.occ.day = true ∧ i = { j with item := amended j.item }) ∧
      (h.deferral.Pairwise (fun i j => itemBefore j.item i.item = false) →
        l.Pairwise fun i j => itemBefore j.item i.item = false)

/-! ### Station time -/

/-- TIME-SET. The difference is the value less the reading's whole second in LOCKED, and less the full reading in FREE, a slew
still remaining counted as part of that reading (log 22). A value outside R40 is RANGE. Under 2 s it becomes the slew
remaining; from 2 s on the clock steps: the new reading (in LOCKED with the fraction kept), no slew, the last step recorded,
the state kept, a CLOCK notice, the engine's step event and the minute event of a reading on a minute (in this order: log 41).
The first TIME-SET sets the clock: LOCKED with the fraction kept while the pulse-absence timer runs, FREE with a CLOCK-FREE
report otherwise. A difference of zero in LOCKED changes nothing; in FREE it is SLEWED, and no slew remains. The model's (log
22): a remaining slew of zero is none, and a first set on a minute boundary hands on that minute's event too. The difference
is answered in clock units. -/
def Obligations.TimeSet : Prop :=
  ∀ (tag h m sec : Nat) (d : DateForm) (s : State), s.takes tag →
    let c : Instr := .timeSet tag d h m sec
    let frac := s.time.clock % ticksPerSec
    let reading : Int := s.time.clock + s.time.slew.getD 0
    let whole : Int := reading - reading % ticksPerSec
    (timeValue d h m sec = none → Answers c s tag .timeSet .range .nothing) ∧
    (∀ v, timeValue d h m sec = some v →
      let moved (diff : Int) (new : ClockTick) (st : ClockState) (o : TimeOutcome) :=
        ∃ x : State, Completes c s (x.say tag (some .timeSet) .ok (.timeSet o diff)) ∧
          x = (let t := { s with
                 time := { s.time with clock := new, slew := none, lastStep := some (s.time.clock, new), cstate := st } }
               let t := t.note (.clock st (new / ticksPerSec) (some (s.time.clock / ticksPerSec, new / ticksPerSec)))
               let t := if s.time.cstate = .unset ∧ st = .free then
                   t.onHall fun e g => report e ⟨.clockFree, .timebase, none, none, none⟩ g else t
               let t := t.onHall engineStep
               if new % ticksPerMin = 0 then t.onHall engineMinute else t)
      (s.time.cstate = .locked → (v : Int) = whole → Answers c s tag .timeSet .ok (.timeSet .unchanged 0)) ∧
      (s.time.cstate = .locked → (v : Int) ≠ whole → ((v : Int) - whole).natAbs < 2 * ticksPerSec →
        Completes c s ({ s with time := { s.time with slew := some ((v : Int) - whole) } }.say tag (some .timeSet) .ok
          (.timeSet .slewed ((v : Int) - whole)))) ∧
      (s.time.cstate = .locked → 2 * ticksPerSec ≤ ((v : Int) - whole).natAbs →
        moved ((v : Int) - whole) (v + frac) .locked .stepped) ∧
      (s.time.cstate = .free → (v : Int) = reading →
        Completes c s ({ s with time := { s.time with slew := none } }.say tag (some .timeSet) .ok
          (.timeSet .slewed 0))) ∧
      (s.time.cstate = .free → (v : Int) ≠ reading → ((v : Int) - reading).natAbs < 2 * ticksPerSec →
        Completes c s ({ s with time := { s.time with slew := some ((v : Int) - reading) } }.say tag (some .timeSet) .ok
          (.timeSet .slewed ((v : Int) - reading)))) ∧
      (s.time.cstate = .free → 2 * ticksPerSec ≤ ((v : Int) - reading).natAbs →
        moved ((v : Int) - reading) v .free .stepped) ∧
      (s.time.cstate = .unset → s.time.absence ≠ none → moved ((v : Int) - whole) (v + frac) .locked .set) ∧
      (s.time.cstate = .unset → s.time.absence = none → moved ((v : Int) - reading) v .free .set))

/-- A minute event does nothing while the clock is UNSET or the hall ADOPTING; in RUNNING it ends what has stopped, expires
items, starts waiting assignments, and takes a due changeover and the scan; in QUIESCENT it takes a due changeover alone. The
slew remaining becomes absent when it is worked off. The pulse-absence timer's expiry takes LOCKED to FREE with a CLOCK notice
and a CLOCK-FREE report, and only stops the timer in another state. Events that are not due do nothing (log 2); the order within
a minute event is the model's (log 16). What those parts do: an assignment whose stop instant has come ends MISSED in PREPARING
and COMPLETED otherwise, or goes to ENDING with that outcome; stack and deferral items whose stop instant has come leave with an
EXPIRED notice, and the others stay in order; a WAITING assignment whose start instant has come goes to RAISING with its RAISE
wanted, and at a step a PREPARING one takes the late flag. An end without push or deferral: where the transmitter radiates (or
was lost radiating), the assignment is ENDING with that outcome and nothing awaited or wanted; otherwise its record is empty,
its claims are given up, its ASSIGNMENT notice is sent, stacks and deferral list stay, and allocation is owed. An end with a
push or a deferral before the stop instant puts the occurrence, with its trip count and fold-back flag, on top of the stack, or
into the deferral list. A second cause changes nothing. -/
def Obligations.ClockEvents : Prop :=
  (∀ (e : Env) (t : Tx) (h : Hall),
    let ended := endStopped e h
    let left := expireItems e h
    (∀ (a : Asg) (x : Sched), h.asg[t] = some a → a.sched = some x → a.phase.isEnding = false → x.stop ≤ e.min →
      let o : EndOutcome := if a.phase = .preparing then .missed else .completed
      ended.asg[t] = none ∨ ∃ b, ended.asg[t] = some b ∧ b.phase = .ending o .nothing ∧ b.sched = some x) ∧
    (∀ a : Asg, h.asg[t] = some a → (∀ x, a.sched = some x → e.min < x.stop) →
      ∃ b, ended.asg[t] = some b ∧ b.phase = a.phase ∧ b.sched = a.sched ∧ b.eff = a.eff) ∧
    left.stack[t] = (h.stack[t]).filter (fun i => decide (e.min < i.item.stop)) ∧
    left.deferral = h.deferral.filter (fun i => decide (e.min < i.item.stop)) ∧ left.asg = h.asg ∧
    (∀ i ∈ h.stack[t], i.item.stop ≤ e.min → .expired i.item.occ ∈ left.emit) ∧
    (∀ i ∈ h.deferral, i.item.stop ≤ e.min → .expired i.item.occ ∈ left.emit) ∧
    ∀ step : Bool, (startWaiting e step h).asg[t] = (h.asg[t]).map fun a =>
      if (a.sched.map Sched.start).any fun x => decide (x ≤ e.min) then
        match a.phase with
        | .waiting => { a with phase := .raising, raise := .wanted }
        | .preparing => { a with late := a.late || step }
        | _ => a
      else a) ∧
  (∀ (e : Env) (t : Tx) (h : Hall) (a : Asg) (o : EndOutcome), h.asg[t] = some a →
    let radiates := isRad (h.tx[t]).st = true ∨ ((h.tx[t]).st = .unreachable ∧ ∃ x, (h.tx[t]).before = some x ∧ isRad x = true)
    let left (after : After) := endAsg e t o after h
    (a.phase.isEnding = true → ∀ after, left after = h) ∧
    (a.phase.isEnding = false → radiates → ∀ after, (left after).asg[t] = some { a with
      phase := .ending o after, awaits := none, tune := .done, path := .done, raise := .done, power := false,
      lowerOver := false }) ∧
    (a.phase.isEnding = false → ¬ radiates →
      (∀ after, (left after).asg[t] = none ∧ (left after).alloc = true ∧ (∀ p : Out, (left after).path.owner[p] ≠ some t) ∧
        .assignment t (a.sched.map Sched.occ) o a.late a.trips a.fold after ∈ (left after).emit) ∧
      (left .nothing).stack = h.stack ∧ (left .nothing).deferral = h.deferral ∧
      ∀ x, a.sched = some x → e.min < x.stop →
        let item : Item := ⟨x.occ, t, x.prio, x.start, x.stop, a.trips, a.fold⟩
        (∀ r, ((left (.push r)).stack[t]).head? = some ⟨item, e.sec, r⟩ ∧ (left (.push r)).deferral = h.deferral) ∧
        ∀ r, h.deferral.length < 24 → (left (.defer r)).deferral = insertItem ⟨item, r⟩ h.deferral ∧
          (left (.defer r)).stack = h.stack)) ∧
  ∀ s : State,
    (s.time.cstate = .unset ∨ s.hall.mode = .adopting → Completes .minuteEvent s s) ∧
    (s.time.cstate ≠ .unset → s.hall.mode = .running → Completes .minuteEvent s
      (s.onHall fun e h => changeoverScan e (startWaiting e false (expireItems e (endStopped e h))))) ∧
    (s.time.cstate ≠ .unset → s.hall.mode = .quiescent → Completes .minuteEvent s (s.onHall changeoverIfDue)) ∧
    (s.time.slew = some 0 → Completes .slewWorkedOff s { s with time := { s.time with slew := none } }) ∧
    (s.time.slew ≠ some 0 → Completes .slewWorkedOff s s) ∧
    (∀ x, s.time.absence = some x → x ≤ s.time.now → s.time.cstate = .locked →
      Completes .pulseAbsenceTimeout s
        ({ s with time := { s.time with absence := none, cstate := .free }
                  hall := s.hall.note (.clock .free (s.time.clock / ticksPerSec) none) }.onHall fun e h =>
          report e ⟨.clockFree, .timebase, none, none, none⟩ h)) ∧
    (∀ x, s.time.absence = some x → x ≤ s.time.now → s.time.cstate ≠ .locked →
      Completes .pulseAbsenceTimeout s { s with time := { s.time with absence := none } }) ∧
    ((∀ x, s.time.absence = some x → s.time.now < x) → Completes .pulseAbsenceTimeout s s)

/-- A qualified rising edge of PULSE. Within half a second of the last accepted pulse it changes nothing of the Time Base.
Otherwise it is accepted: the last pulse is now, the absence timer runs 3 s, FREE becomes LOCKED with a CLOCK notice (of the
reading after the alignment, and before a minute event: the model's choice, log 41), and unless a slew remains the fraction is
set to zero, back when under half a second and forward otherwise; a second reached forward on a minute boundary hands that
minute event. -/
def Obligations.PulseAligns : Prop :=
  ∀ (s : State) (x : Ms), (s.hall.line .pulse).qual = some false → (s.hall.line .pulse).timer = some (true, x) →
    x ≤ s.time.now → (s.tables.sense[senseIx .pulse]).mode = .edgeRise →
    let seen : State := { s with hall := s.hall.setSense .pulse fun v => { v with qual := some true, timer := none } }
    let frac := s.time.clock % ticksPerSec
    let reading := if s.time.slew ≠ none then s.time.clock
      else if frac < 5000 then s.time.clock - frac else s.time.clock + (ticksPerSec - frac)
    let accepted : State := { seen with
      time := { s.time with lastPulse := some s.time.now, absence := some (s.time.now + 3000), clock := reading,
                            cstate := if s.time.cstate = .free then .locked else s.time.cstate } }
    let told : State := if s.time.cstate = .free then accepted.note (.clock .locked (reading / ticksPerSec) none) else accepted
    (∀ p, s.time.lastPulse = some p → s.time.now < p + 500 → Completes (.qualificationTimerExpiry .pulse) s seen) ∧
    ((∀ p, s.time.lastPulse = some p → p + 500 ≤ s.time.now) →
      ¬ (s.time.clock < reading ∧ reading % ticksPerMin = 0) → Completes (.qualificationTimerExpiry .pulse) s told) ∧
    ((∀ p, s.time.lastPulse = some p → p + 500 ≤ s.time.now) →
      s.time.clock < reading ∧ reading % ticksPerMin = 0 →
      Completes (.qualificationTimerExpiry .pulse) s (told.onHall engineMinute))

/-- Only power-on, TIME-SET, the slew's end, the absence timer's expiry and a qualification change the Time Base: every other
command, the resets among them, leaves each item of it as it was. -/
def Obligations.OtherCommandsLeaveTimeBase : Prop :=
  ∀ (c : Instr) (s t : State), exec c s = .next t → c ≠ .powerOn → (∀ tag d h m x, c ≠ .timeSet tag d h m x) →
    c ≠ .slewWorkedOff → c ≠ .pulseAbsenceTimeout → c ≠ .qualificationTimerExpiry .pulse → t.time = s.time

/-! ### Running the schedule -/

/-- ENGINE-SET replaces the settings given; a value outside its range is RANGE and neither changes. The engine's admission: the
scan runs in RUNNING with the clock set and a bank ACTIVE, and takes the occurrences due, on yesterday's, today's and tomorrow's
date (log 18), in the order of R51, each while it is still due; an admission sets the mark, then allocates. Allocation: an
occurrence the Frequency Check refuses at its effective parameters is recorded EXCLUDED-AT-ADMISSION and REJECTED; the tests of
R53 in their order give a deferral with its reason, the tried preemption, or the assignment in PREPARING that claims its output,
with ADMITTED. A preemption is allowed when the assignment on T and the one of another transmitter that claims the output, if
any, are SCHEDULE, not ENDING and of lower priority, and the second's transmitter is not UNREACHABLE; otherwise the newcomer is
deferred TX-BUSY or OUTPUT-BUSY. Allowed: T's victim goes onto T's stack, PREEMPTED-TX, unless its stop instant has passed, with
its ASSIGNMENT notice, and the newcomer takes its record, its made output and the claim on it, while a claim not made is
released; the output victim goes to ENDING, to be pushed PREEMPTED-OUTPUT, and keeps its claim, which the newcomer awaits; where
it does not radiate the claim passes at once. T's idle timer stops at the creation of an assignment and while there is one, in
LOCAL, UNREACHABLE, LOCKOUT and ABSENT, and in COLD with no COOL in hand; stopped, it starts for a full cool delay in STANDBY or
READY without an assignment, in adoption once T is judged; a spent one does not start before another stop (log 62). Its expiry:
it starts again for a full cool delay while a stack or deferral item names T; otherwise COOL is handed, and for a transmitter in
STANDBY or READY with no order in hand it is the order to be sent. With a cool delay of 0 no timer starts. A timer that is not
due does nothing (log 2). -/
def Obligations.EngineSet : Prop :=
  ((∀ (h : Hall) (t : Tx) (o : Out),
    let x := (h.tx[t]).st
    let barred := x = .lockout ∨ x = .isLocal ∨ x = .unreachable ∨ x = .absent
    let faulted := outState h o = .faulted
    let reserved := ∃ u, reserver h o = some u ∧ u ≠ t
    let occupied := h.asg[t] ≠ none ∨ ∃ u, h.path.owner[o] = some u ∧ u ≠ t
    let available := x = .cold ∨ x = .warming ∨ x = .standby ∨ x = .ready
    allocCase h t o = if barred then .deferred .txBlocked else if faulted then .deferred .outputBlocked
      else if reserved then .deferred .outputBusy else if occupied then .preempt
      else if available then .create else .busy) ∧
  (∀ (e : Env) (h : Hall) (n : BankNo) (r : EntryRec) (d : Day),
    let held (o : Occ) := (∃ (t : Tx) (a : Asg) (x : Sched), h.asg[t] = some a ∧ a.sched = some x ∧ x.occ = o) ∨
      (∃ t : Tx, ∃ i ∈ h.stack[t], i.item.occ = o) ∨ ∃ i ∈ h.deferral, i.item.occ = o
    (due e h n r d = true ↔ (∃ start, (h.banks[n]).start = some start ∧ hasOcc r.entry start d = true) ∧
      occStart r.entry d * 60 ≤ e.sec + r.entry.lead.getD e.k.lead ∧ e.min < occStop r.entry d ∧
      (∀ m, r.mark = some m → m < occStart r.entry d) ∧ ¬ held ⟨n, r.entry.id, d⟩) ∧
    (h.mode ≠ .running ∨ e.tm.cstate = .unset ∨ activeBank h = none → scan e h = h) ∧
    (h.mode = .running → e.tm.cstate ≠ .unset → activeBank h = some n → ∃ l : List Cand,
      scan e h = h.each l (admitCand e n) ∧
      (∀ c : Cand, c ∈ l ↔ c.r ∈ (h.banks[n]).recs ∧
        (c.day = e.min / 1440 - 1 ∨ c.day = e.min / 1440 ∨ c.day = e.min / 1440 + 1) ∧ due e h n c.r c.day = true) ∧
      l.Pairwise fun a b => candBefore b a = false) ∧
    ∀ c : Cand, (h.banks[n]).find c.r.entry.id = some r →
      (due e h n r c.day = false → admitCand e n c h = h) ∧
      (due e h n r c.day = true → admitCand e n c h = allocateNew e
        ⟨⟨n, r.entry.id, c.day⟩, r.entry.tx, r.entry.prio, occStart r.entry c.day, occStop r.entry c.day, 0, false⟩ r.entry
        (h.setBank n fun b => b.mark r.entry.id (occStart r.entry c.day)))) ∧
  (∀ (e : Env) (it : Item) (en : Entry) (h : Hall),
    let t := it.tx
    let base := entryParams en
    let eff := effective e.k (h.holds[t]) base it.fold
    let o := eff.out
    let ans := checkParams e.k h t eff
    let g := allocateNew e it en h
    let new (awaits : Option (Out × Tx)) : Asg :=
      { sched := some ⟨it.occ, it.prio, it.start, it.stop⟩, base := base, eff := eff, awaits := awaits, phase := .preparing,
        trips := it.trips, tripTimes := [], fold := it.fold, late := false, tune := .wanted, path := .wanted, raise := .done,
        power := false, hold := false, lowerOver := false, counts := true }
    let falls (a : Asg) := a.phase.isEnding = false ∧ ∃ x, a.sched = some x ∧ x.prio < it.prio
    let txFalls := ∀ v, h.asg[t] = some v → falls v
    let outFalls := ∀ u : Tx, h.path.owner[o] = some u → u ≠ t →
      (h.tx[u]).st ≠ .unreachable ∧ ∃ v, h.asg[u] = some v ∧ falls v
    (ans ≠ .permitted → g = (report e ⟨.excludedAtAdmission, .schedule, some it.occ, some eff.freq,
      some (.excluded .admission ans)⟩ h).note (.rejected it.occ ans)) ∧
    (ans = .permitted →
      (∀ r, allocCase h t o = .deferred r → g = deferItem e it r h) ∧
      (allocCase h t o = .busy → g = deferItem e it .txBusy h) ∧
      (allocCase h t o = .create → g = (((h.setAsg t (some (new none))).setIdle t .stopped).setOwner o (some t)).note
        (.admitted t (some it.occ) o .scan)) ∧
      (allocCase h t o = .preempt →
        (¬ txFalls → g = deferItem e it .txBusy h) ∧
        (txFalls → ¬ outFalls → g = deferItem e it .outputBusy h) ∧
        (txFalls → outFalls →
          .admitted t (some it.occ) o .scan ∈ g.emit ∧ g.idle[t] = .stopped ∧
          (∀ v x, h.asg[t] = some v → v.sched = some x →
            .assignment t (some x.occ) .preempted v.late v.trips v.fold (.push .preemptedTx) ∈ g.emit ∧
            (e.min < x.stop → ((g.stack[t]).head? =
              some ⟨⟨x.occ, t, x.prio, x.start, x.stop, v.trips, v.fold⟩, e.sec, .preemptedTx⟩)) ∧
            ∀ p : Out, p ≠ o → h.path.owner[p] = some t →
              g.path.owner[p] = if madeOut h t = some p then some t else none) ∧
          ((∀ u, h.path.owner[o] = some u → u = t) → g.asg[t] = some (new none) ∧ g.path.owner[o] = some t) ∧
          ∀ u, h.path.owner[o] = some u → u ≠ t →
            ((h.tx[u]).needsLower = true → g.asg[t] = some (new (some (o, u))) ∧ g.path.owner[o] = some u ∧
              ∃ b, g.asg[u] = some b ∧ b.phase = .ending .preempted (.push .preemptedOutput)) ∧
            ((h.tx[u]).needsLower = false →
              (∀ (w : Tx) (b : Asg), w ≠ t → h.asg[w] = some b → b.awaits ≠ some (o, u)) →
              g.asg[t] = some (new none) ∧ g.path.owner[o] = some t ∧ g.asg[u] = none))))) ∧
  ∀ (tag : Nat) (lead cool : Option Nat) (s : State), s.takes tag →
    let good := (∀ x, lead = some x → 60 ≤ x ∧ x ≤ 1800) ∧ ∀ x, cool = some x → x ≤ 240
    (good → TakenOk (.engineSet tag lead cool) s
      { s with tables := { s.tables with lead := lead.getD s.tables.lead, cool := cool.getD s.tables.cool } } tag
      .engineSet) ∧
    (¬ good → Answers (.engineSet tag lead cool) s tag .engineSet .range .nothing)) ∧
  (∀ (e : Env) (t : Tx) (h : Hall),
    let r := h.tx[t]
    let cooling := (∃ o, r.out = some o ∧ o.kind = .cool) ∨ ∃ o, r.pend = some o ∧ o.kind = .cool
    let stops := h.asg[t] ≠ none ∨ r.st = .isLocal ∨ r.st = .unreachable ∨ r.st = .lockout ∨ r.st = .absent ∨
      (r.st = .cold ∧ ¬ cooling)
    let starts := h.idle[t] = .stopped ∧ (r.st = .standby ∨ r.st = .ready) ∧
      (h.mode = .adopting → (h.adopt[t]).judged = true)
    (stops → idleStep e t h = if h.idle[t] = .stopped then none else some (h.setIdle t .stopped)) ∧
    (¬ stops → starts → idleStep e t h =
      some (h.setIdle t (if e.k.cool = 0 then .spent else .running (e.now + e.k.cool * 60000)))) ∧
    (¬ stops → ¬ starts → idleStep e t h = none) ∧
    (nextRule e h = none → idleStep e t h = none)) ∧
  ∀ (t : Tx) (s : State),
    (idleDue s.env s.hall t = false → Completes (.idleTimerExpiry t) s s) ∧
    (idleDue s.env s.hall t = true → itemNames s.hall t = true → s.tables.cool ≠ 0 →
      Completes (.idleTimerExpiry t) s
        { s with hall := s.hall.setIdle t (.running (s.time.now + s.tables.cool * 60000)) }) ∧
    (idleDue s.env s.hall t = true → itemNames s.hall t = true → s.tables.cool = 0 →
      Completes (.idleTimerExpiry t) s { s with hall := s.hall.setIdle t .spent }) ∧
    (idleDue s.env s.hall t = true → itemNames s.hall t = false →
      Completes (.idleTimerExpiry t) s (s.onHall fun e h => handOrder e t .cool (h.setIdle t .spent))) ∧
    (idleDue s.env s.hall t = true → itemNames s.hall t = false →
      (s.hall.tx[t]).st = .standby ∨ (s.hall.tx[t]).st = .ready → (s.hall.tx[t]).out = none →
      Completes (.idleTimerExpiry t) s
        { s with hall := (s.hall.setIdle t .spent).setTx t fun r => { r with out := some (Order.mk0 .cool true false) } })

/-- QUIESCE in RUNNING is ACCEPTED: the hall is QUIESCENT with its HALL notice, every assignment left is ENDING with outcome
ABORTED and nothing to follow, one of a transmitter that does not radiate gone with its notice, LOWER in hand for one that does;
the stacks and the deferral list are empty, each item with its EXPIRED notice, and holds, directive slot and running plan are as
they were. RESUME in QUIESCENT is OK: the hall is RUNNING with its HALL notice, and the admission scan runs. Each is STATE in
another mode. What the engine asks of an assignment: in PREPARING, REWORKING and MUTED it claims an available effective output;
lowers a RAISING or ON_AIR transmitter; asks the path, of class 4 after a hold change and of its priority otherwise; in
PREPARING orders WARM of a COLD transmitter; and, the carrier down, TUNE of a STANDBY or READY one, the Frequency Check
permitting, else the assignment is refused. PREPARING and REWORKING done, and MUTED left with nothing to do: WAITING before the
start instant, else RAISING, late after PREPARING; MUTED while INHIBIT or ESTOP holds; MUTED left with work to do: REWORKING. In
RAISING, and for a power changed in ON_AIR, it orders RAISE at the effective power, after the check. An end completes once the
transmitter needs no LOWER or a LOWER-TIMEOUT has ended the wait; until then LOWER is handed where none is in hand. A mute takes
every phase but PREPARING and ENDING to MUTED, its unsent RAISE withdrawn, and ends a FOREIGN assignment ABORTED. No WARM, TUNE
or RAISE while frozen or recovering. New effective parameters: a change of frequency, mode, output or preset takes WAITING,
RAISING, ON_AIR and TRIPPED to REWORKING, TUNE wanted for the first two and the path for the others; PREPARING wants TUNE for
either or a programme, which elsewhere is only recorded (log 42); a power alone in ON_AIR, or after the RAISE in RAISING, is
sent anew. -/
def Obligations.QuiesceResume : Prop :=
  (∀ (e : Env) (t : Tx) (h : Hall) (a : Asg), h.asg[t] = some a →
    let r := h.tx[t]
    let o := a.eff.out
    let owns := h.path.owner[o] = some t
    let mute := (h.holds[t]).inhibit = true ∨ estopActive e h = true
    let early := ∃ x, a.sched = some x ∧ e.min < x.start
    let down := a.lowerOver = true ∨ (r.needsLower = false ∧ r.lowerInHand = false)
    let orders := frozen h t = false ∧ r.rcv.stage = .idle
    let still := r.st = .raising ∨ r.st = .onAir → r.lowerInHand = true
    let goes (b : Asg) : Prop := driveStep e t h = some (h.setAsg t (some b))
    let sends (k : OrderKind) (b : Asg) : Prop := driveStep e t h = some ((h.setAsg t (some b)).setTx t fun r =>
      { r with out := some (Order.mk0 k true false) })
    let onAir (late : Bool) : Asg := if early then { a with phase := .waiting }
      else { a with phase := .raising, raise := .wanted, late := a.late || late }
    let works := a.phase = .preparing ∨ a.phase = .reworking ∨ a.phase = .muted
    let muted := a.phase = .muted → mute
    let tuning := a.tune = .wanted ∧ r.st = .standby ∨ a.tune = .wanted ∧ r.st = .ready
    let raise : OrderKind := .raise a.eff.power
    (a.phase.isEnding = true →
      (a.lowerOver = true ∨ r.needsLower = false → endStep e t h = some (completeEnd e t h)) ∧
      (a.lowerOver = false → r.needsLower = true → endStep e t h = none ∧
        (r.lowerInHand = false → r.st ≠ .lowering → txDefined e.k h t = true →
          driveStep e t h = some (handLower e t false h)) ∧
        (r.lowerInHand = true → driveStep e t h = none))) ∧
    (a.phase.isEnding = false → endStep e t h = none) ∧
    (works → a.path = .wanted → a.awaits = none → ¬ owns → outAvail h t o = true →
      driveStep e t h = some (h.setOwner o (some t))) ∧
    (a.phase = .waiting ∨ a.phase = .raising ∨ a.phase = .onAir ∨ a.phase = .tripped ∨
        (a.phase = .reworking ∧ (a.path ≠ .wanted ∨ owns)) → mute →
      (a.sched = none → driveStep e t h = some (endAsg e t .aborted .nothing h)) ∧
      (a.sched ≠ none → driveStep e t h = some ((withdrawRaise t h).setAsg t (some
        { a with phase := .muted, raise := .done, power := false, lowerOver := false })))) ∧
    (a.phase = .muted → ¬ mute → a.path ≠ .wanted ∨ owns →
      (a.tune = .done → a.path = .done → goes (onAir false)) ∧
      (a.tune ≠ .done ∨ a.path ≠ .done → goes { a with phase := .reworking })) ∧
    (works → muted → (a.phase = .reworking → ¬ mute) → a.path ≠ .wanted ∨ owns → r.st = .raising ∨ r.st = .onAir →
      r.lowerInHand = false → txDefined e.k h t = true → a.lowerOver = false →
      driveStep e t h = some (handLower e t false h)) ∧
    (works → muted → (a.phase = .reworking → ¬ mute) → still → a.path = .wanted → owns → frozen h t = false →
      a.phase = .preparing ∨ down →
      driveStep e t h = some (pathRequest e t ⟨o, a.eff.preset, if a.hold = true then 4 else (a.sched.map Sched.prio).getD 0⟩
        (h.setAsg t (some { a with path := .asked })))) ∧
    (a.phase = .preparing → a.path ≠ .wanted → r.st = .cold → orders → r.out = none → r.pend = none → sends .warm a) ∧
    (works → muted → (a.phase = .reworking → ¬ mute) → a.path ≠ .wanted → tuning → down → orders → r.out = none →
      r.pend = none →
      (checkParams e.k h t a.eff = .permitted →
        sends (.tune a.eff.freq a.eff.mode a.eff.prog) { a with tune := .asked }) ∧
      (checkParams e.k h t a.eff ≠ .permitted →
        driveStep e t h = some (refuseAsg e t .tune (checkParams e.k h t a.eff) h))) ∧
    (a.phase = .preparing → a.tune = .done → a.path = .done → r.st = .ready → down → frozen h t = false →
      (mute → goes { a with phase := .muted }) ∧ (¬ mute → goes (onAir true))) ∧
    (a.phase = .reworking → ¬ mute → still → a.tune = .done → a.path = .done → down → frozen h t = false → goes (onAir false)) ∧
    ((a.phase = .raising ∧ a.raise = .wanted ∧ r.st = .ready ∧ down) ∨ (a.phase = .onAir ∧ a.power = true ∧ r.st = .onAir) →
      ¬ mute → orders → r.out = none → r.pend = none →
      (checkParams e.k h t a.eff = .permitted → raiseHeld e h t = false →
        sends raise { a with raise := .asked, power := false, lowerOver := false }) ∧
      (checkParams e.k h t a.eff = .permitted → raiseHeld e h t = true →
        driveStep e t h = some ((h.setAsg t (some { a with raise := .asked, power := false, lowerOver := false })).setTx t
          fun r => { r with pend := some (Order.mk0 raise true false) })) ∧
      (checkParams e.k h t a.eff ≠ .permitted →
        driveStep e t h = some (refuseAsg e t .raise (checkParams e.k h t a.eff) h)))) ∧
  (∀ (viaHold : Bool) (new : Params) (a : Asg),
    let b := rework viaHold new a
    let first := a.eff.freq ≠ new.freq ∨ a.eff.mode ≠ new.mode
    let second := a.eff.out ≠ new.out ∨ a.eff.preset ≠ new.preset
    b.eff = new ∧ b.sched = a.sched ∧ b.trips = a.trips ∧ b.tripTimes = a.tripTimes ∧ b.fold = a.fold ∧ b.late = a.late ∧
    (a.phase = .waiting ∨ a.phase = .raising ∨ a.phase = .onAir ∨ a.phase = .tripped →
      (first ∨ second → b.phase = .reworking ∧ b.raise = .done ∧ b.power = false ∧
        b.tune = (if first then .wanted else a.tune) ∧ b.path = if second then .wanted else a.path) ∧
      (¬ first → ¬ second → b.phase = a.phase ∧ b.tune = a.tune ∧ b.path = a.path ∧ b.raise = a.raise ∧
        (b.power = true ↔ a.power = true ∨ (a.eff.power ≠ new.power ∧
          (a.phase = .onAir ∨ (a.phase = .raising ∧ a.raise ≠ .wanted)))))) ∧
    (a.phase = .preparing ∨ a.phase = .muted ∨ a.phase = .reworking → b.phase = a.phase ∧
      b.path = (if second then .wanted else a.path) ∧
      b.tune = if first ∨ (a.phase = .preparing ∧ (second ∨ a.eff.prog ≠ new.prog)) then .wanted else a.tune)) ∧
  ∀ (tag : Nat) (s : State), s.takes tag →
    (s.hall.mode = .running → ∃ h : Hall, Completes (.quiesce tag) s
        ({ s with hall := h }.say tag (some .quiesce) .accepted .nothing) ∧
      h.mode = .quiescent ∧ (∀ t : Tx, h.stack[t] = []) ∧ h.deferral = [] ∧ h.holds = s.hall.holds ∧
      h.dslot = s.hall.dslot ∧ h.running = s.hall.running ∧
      (∀ (t : Tx) (a : Asg), h.asg[t] = some a → a.phase = .ending .aborted .nothing) ∧
      .hall .quiescent .quiesce ∈ h.emit ∧ (∀ t : Tx, ∀ i ∈ s.hall.stack[t], .expired i.item.occ ∈ h.emit) ∧
      (∀ i ∈ s.hall.deferral, .expired i.item.occ ∈ h.emit) ∧
      ∀ t : Tx,
        let r := s.hall.tx[t]
        let radiates := isRad r.st = true ∨ (r.st = .unreachable ∧ ∃ x, r.before = some x ∧ isRad x = true)
        (h.tx[t]).st = r.st ∧ ∀ a : Asg, s.hall.asg[t] = some a → a.phase.isEnding = false →
          (radiates → r.st ≠ .lowering → txDefined s.tables s.hall t = true → (h.tx[t]).lowerInHand = true) ∧
          (¬ radiates → h.asg[t] = none ∧
            .assignment t (a.sched.map Sched.occ) .aborted a.late a.trips a.fold .nothing ∈ h.emit)) ∧
    (s.hall.mode ≠ .running → Answers (.quiesce tag) s tag .quiesce .state .nothing) ∧
    (s.hall.mode = .quiescent → TakenOk (.resume tag) s
      (s.onHall fun e h => scan e ({ h with mode := .running }.note (.hall .running .resume))) tag .resume) ∧
    (s.hall.mode ≠ .quiescent → Answers (.resume tag) s tag .resume .state .nothing)

/-- TIME-STATUS answers the reading to the second, the clock state, the slew remaining to a tenth of a second, the seconds since
the last accepted pulse and the last step's readings (both roundings are toward zero: log 22); ASSIGNMENT-STATUS the assignment
with its made output and claims, and the stack; DEFERRAL-LIST the deferral list in order; none changes anything. The stack and
the list: a push goes on top, and on a stack of four first drops the bottom with DROPPED; a deferred occurrence goes, with
DEFERRED, behind the items of the list that it does not precede (priority descending, start ascending, transmitter number) and
before the first that it does, and with 24 held it is SKIPPED with a SCHEDULE-SKIP record. A transmitter without assignment that
becomes COLD, WARMING, STANDBY or READY owes an allocation run; a plain push owes none. The run that is owed: outside RUNNING it
lapses; in RUNNING every reason of the list is worked again, and of the candidates, every stack's top and every item of the list
in the order of R71, the first whose transmitter has no assignment and is COLD, WARMING, STANDBY or READY, and whose effective
output is FREE or PARKED and not reserved by another, leaves its place: the Frequency Check permitting, it is the assignment in
PREPARING that claims its output, with ADMITTED, and otherwise it is recorded and REJECTED; allocation stays owed. With no such
candidate the run is over. The model's: a walk is a step of its own (log 17), and a candidate whose entry is gone is passed over
and keeps its place and reason (log 48). -/
def Obligations.TimeAndEngineReads : Prop :=
  (∀ (e : Env) (t : Tx) (it : Item) (h : Hall),
    (∀ r, (h.stack[t]).length < 4 → (pushStack e t it r h).stack[t] = ⟨it, e.sec, r⟩ :: h.stack[t] ∧
      (pushStack e t it r h).alloc = h.alloc) ∧
    (∀ x c, (setTxState t x c h).alloc =
      (h.alloc || (isAvail x && !isAvail (h.tx[t]).st && decide (h.asg[t] = none)))) ∧
    (∀ r i1 i2 i3 i4, h.stack[t] = [i1, i2, i3, i4] →
      (pushStack e t it r h).stack[t] = [⟨it, e.sec, r⟩, i1, i2, i3] ∧
      .dropped i4.item.occ ∈ (pushStack e t it r h).emit) ∧
    (∀ r, h.deferral.length < 24 → deferItem e it r h =
      { h with deferral := insertItem ⟨it, r⟩ h.deferral, emit := h.emit ++ [.deferred it.occ r] }) ∧
    ∀ r, 24 ≤ h.deferral.length → deferItem e it r h =
      (report e ⟨.scheduleSkip, .schedule, some it.occ, none, none⟩ h).note (.skipped it.occ)) ∧
  (∀ (d : DeferItem) (l : List DeferItem),
    let precedes (a b : Item) := b.prio < a.prio ∨ (a.prio = b.prio ∧ (a.start < b.start ∨ (a.start = b.start ∧ a.tx < b.tx)))
    ∃ before after, l = before ++ after ∧ insertItem d l = before ++ d :: after ∧
      (∀ x ∈ before, ¬ precedes d.item x.item) ∧ ∀ x, after.head? = some x → precedes d.item x.item) ∧
  (∀ (e : Env) (h : Hall),
    let params (i : Item) (r : EntryRec) := effective e.k (h.holds[i.tx]) (entryParams r.entry) i.fold
    let entry (i : Item) := (h.banks[i.occ.bank]).find i.occ.id
    let reason (i : DeferItem) (r : EntryRec) : DeferReason := match allocCase h i.item.tx (params i.item r).out with
      | .deferred x => x
      | .preempt => if (h.asg[i.item.tx]).isSome then .txBusy else .outputBusy
      | .busy => .txBusy
      | .create => i.reason
    let worked : Hall := { h with deferral := h.deferral.map fun i => match entry i.item with
      | some r => { i with reason := reason i r }
      | none => i }
    let fits (i : Item) (r : EntryRec) := h.asg[i.tx] = none ∧ isAvail (h.tx[i.tx]).st = true ∧
      (outState h (params i r).out = .free ∨ outState h (params i r).out = .parked) ∧
      ∀ u, reserver h (params i r).out = some u → u = i.tx
    let l := runCands worked
    (h.alloc = false → runStep e h = none) ∧
    (h.alloc = true → h.mode ≠ .running → runStep e h = some { h with alloc := false }) ∧
    (∀ c : RunCand, c ∈ l ↔ (c.stacked = true ∧ ∃ (t : Tx) (i : StackItem), (h.stack[t]).head? = some i ∧ c.item = i.item) ∨
      (c.stacked = false ∧ ∃ i ∈ h.deferral, c.item = i.item)) ∧
    (l.Pairwise fun a b => runBefore b a = false) ∧
    (h.alloc = true → h.mode = .running →
      ((∀ c ∈ l, ∀ r, entry c.item = some r → ¬ fits c.item r) → runStep e h = some { worked with alloc := false }) ∧
      ∀ before c after r, l = before ++ c :: after →
        (∀ x ∈ before, ∀ y, entry x.item = some y → ¬ fits x.item y) → entry c.item = some r → fits c.item r →
        let t := c.item.tx
        let eff := params c.item r
        let ans := checkParams e.k h t eff
        let left : Hall := if c.stacked = true then worked.setStack t (h.stack[t]).tail
          else { worked with deferral := worked.deferral.filter fun i => decide (i.item.occ ≠ c.item.occ) }
        (ans = .permitted → runStep e h = some ((((left.setAsg t (some
          { sched := some ⟨c.item.occ, c.item.prio, c.item.start, c.item.stop⟩, base := entryParams r.entry, eff := eff,
            awaits := none, phase := .preparing, trips := c.item.trips, tripTimes := [], fold := c.item.fold, late := false,
            tune := .wanted, path := .wanted, raise := .done, power := false, hold := false, lowerOver := false,
            counts := true })).setIdle t .stopped).setOwner eff.out (some t)).note
            (.admitted t (some c.item.occ) eff.out (if c.stacked = true then .stack else .deferral)))) ∧
        (ans ≠ .permitted → runStep e h = some (retireCheck c.item.occ.bank ((report e ⟨.excludedAtAdmission, .schedule,
          some c.item.occ, some eff.freq, some (.excluded .admission ans)⟩ left).note (.rejected c.item.occ ans)))))) ∧
  ∀ (tag : Nat) (t : Tx) (s : State), s.takes tag →
    Answers (.timeStatus tag) s tag .timeStatus .ok
      (.timeStatus (s.time.clock / ticksPerSec) s.time.cstate
        (s.time.slew.map fun d => d.tdiv 1000)
        (s.time.lastPulse.map fun p => (s.time.now - p) / 1000)
        (s.time.lastStep.map fun p => (p.1 / ticksPerSec, p.2 / ticksPerSec))) ∧
    Answers (.assignmentStatus tag (some t)) s tag .assignmentStatus .ok
      (.assignment t ((s.hall.asg[t]).map fun a => { asg := a, made := madeOut s.hall t, claims := claims s.hall t })
        s.hall.stack[t]) ∧
    Answers (.deferralList tag) s tag .deferralList .ok (.deferral s.hall.deferral)

/-! ### Frequency Check and licence lock -/

/-- EXCLUSION-ADD: RANGE, then LOCKED, then FULL with 16 ranges; otherwise the range is appended, with all three modes when none
are given, the reply carries its index, and the sweep runs. EXCLUSION-DROP: RANGE, then LOCKED, then NOT-FOUND; otherwise the
range is removed, later ones move down, and the sweep runs. The sweep: of the assignments not ENDING whose effective parameters
the Frequency Check refuses, SCHEDULE ones in ascending transmitter order, then FOREIGN ones, each is recorded,
EXCLUDED-AT-ADMISSION with EDIT or FOREIGN-CARRIER with EXCLUDED, and then each ends, FAILED or ABORTED; every other one stays.
-/
def Obligations.ExclusionEdits : Prop :=
  (∀ (e : Env) (h : Hall),
    let answer (t : Tx) (a : Asg) := checkParams e.k h t a.eff
    let refused (t : Tx) := ∃ a, h.asg[t] = some a ∧ a.phase.isEnding = false ∧ answer t a ≠ .permitted
    let foreign (t : Tx) : Bool := (h.asg[t]).any fun a => a.sched.isNone
    let told (t : Tx) (g : Hall) : Hall := match h.asg[t] with
      | some a => report e (match a.sched with
          | some x => ⟨.excludedAtAdmission, .schedule, some x.occ, some a.eff.freq, some (.excluded .edit (answer t a))⟩
          | none => ⟨.foreignCarrier, .tx t, none, some a.eff.freq, some (.foreign .excluded (some (answer t a)))⟩) g
      | none => g
    let outcome (t : Tx) : EndOutcome := if foreign t = true then .aborted else .failed
    let g := sweep e h
    (∃ l : List Tx, (∀ t, t ∈ l ↔ refused t) ∧
      (l.Pairwise fun t u => (foreign t = false ∧ foreign u = true) ∨ (foreign t = foreign u ∧ t < u)) ∧
      g = (h.each l told).each l fun t g => endAsg e t (outcome t) .nothing g) ∧
    ∀ (t : Tx) (a : Asg), h.asg[t] = some a →
      (refused t → g.asg[t] = none ∨ ∃ b, g.asg[t] = some b ∧ b.phase = .ending (outcome t) .nothing) ∧
      (¬ refused t → ∃ b, g.asg[t] = some b ∧ b.phase = a.phase ∧ b.sched = a.sched ∧ b.eff = a.eff)) ∧
  ∀ (tag low high index : Nat) (modes : Option (List (Option Mode))) (s : State), s.takes tag →
    let add : Instr := .exclusionAdd tag low high modes
    let drop : Instr := .exclusionDrop tag index
    let good := 2300 ≤ low ∧ low ≤ high ∧ high ≤ 26100 ∧
      ∀ l, modes = some l → l ≠ [] ∧ l.Nodup ∧ none ∉ l
    let names (m : Mode) : Bool := match modes with
      | none => true
      | some l => l.contains (some m)
    (¬ good → Answers add s tag .exclusionAdd .range .nothing) ∧
    (good → s.tables.lock = true → Answers add s tag .exclusionAdd .locked .nothing) ∧
    (good → s.tables.lock = false → 16 ≤ s.tables.excl.length → Answers add s tag .exclusionAdd .full .nothing) ∧
    (good → s.tables.lock = false → s.tables.excl.length < 16 →
      Completes add s
        (({ s with tables := { s.tables with excl := s.tables.excl ++
              [(⟨low, high, names .full, names .reduced, names .digital⟩ : Exclusion)] } }.onHall sweep).say tag (some .exclusionAdd) .ok
          (.index s.tables.excl.length))) ∧
    (15 < index → Answers drop s tag .exclusionDrop .range .nothing) ∧
    (index ≤ 15 → s.tables.lock = true → Answers drop s tag .exclusionDrop .locked .nothing) ∧
    (index ≤ 15 → s.tables.lock = false → s.tables.excl.length ≤ index →
      Answers drop s tag .exclusionDrop .notFound .nothing) ∧
    (index ≤ 15 → s.tables.lock = false → index < s.tables.excl.length →
      TakenOk drop s
        ({ s with tables := { s.tables with excl := s.tables.excl.take index ++ s.tables.excl.drop (index + 1) } }.onHall
          sweep) tag .exclusionDrop)

/-- OUTPUT-DEFINE: RANGE, then LOCKED for another usable range under the lock, then STATE and FULL for a change of the slewable
flag; otherwise the record takes the values given, a change of the flag creates the positioner's record with its read or removes
it, and the sweep runs. That a record STORE-ERASE left to its slew also refuses with STATE, and that a new record is FULL when
no line is free for it, is the model's (log 26). OUTPUT-UNDEFINE: OK without effect on an undefined output, STATE on one in use,
otherwise the output is undefined. -/
def Obligations.OutputEdits : Prop :=
  ∀ (tag : Nat) (o : Out) (low high rating throw : Option Nat) (slew : Option Bool) (s : State), s.takes tag →
    let define : Instr := .outputDefine tag (some o) low high rating throw slew
    let undefine : Instr := .outputUndefine tag (some o)
    let d := s.tables.outs[o]
    let r : OutDef := { defined := true, low := low.getD d.low, high := high.getD d.high, rating := rating.getD d.rating,
                        throw := throw.getD d.throw, slewable := slew.getD d.slewable }
    let good := (∀ x, low = some x → 2300 ≤ x ∧ x ≤ 26100) ∧ (∀ x, high = some x → 2300 ≤ x ∧ x ≤ 26100) ∧
      (∀ x, rating = some x → 1 ≤ x ∧ x ≤ 1000) ∧ (∀ x, throw = some x → 1 ≤ x ∧ x ≤ 30) ∧ r.low ≤ r.high ∧
      (isLoad o = true → low = none ∧ high = none ∧ slew = none) ∧ (d.defined = false → rating ≠ none)
    let locked := s.tables.lock = true ∧ (r.low ≠ d.low ∨ r.high ≠ d.high)
    let waits := outInUse s.hall o = true ∨ (slewSlot s.hall o).isSome = true ∨
      ∃ p, s.hall.path.pos[o] = some p ∧ p.gone = true
    let edited : State := { s with tables := { s.tables with outs := upd s.tables.outs o fun _ => r } }
    (¬ good → Answers define s tag .outputDefine .range .nothing) ∧
    (good → locked → Answers define s tag .outputDefine .locked .nothing) ∧
    (good → ¬ locked → r.slewable ≠ d.slewable → waits → Answers define s tag .outputDefine .state .nothing) ∧
    (good → ¬ locked → r.slewable ≠ d.slewable → ¬ waits → r.slewable = true → 8 ≤ slewableCount s.tables →
      Answers define s tag .outputDefine .full .nothing) ∧
    (good → ¬ locked → d.slewable = false → r.slewable = true → ¬ waits →
      (∀ l : Fin 8, ∃ (u : Out) (p : Pos), s.hall.path.pos[u] = some p ∧ p.line = l) →
      Answers define s tag .outputDefine .full .nothing) ∧
    (good → ¬ locked → r.slewable = d.slewable → TakenOk define s (edited.onHall sweep) tag .outputDefine) ∧
    (∀ l : Fin 8, good → ¬ locked → d.slewable = false → r.slewable = true → ¬ waits → slewableCount s.tables < 8 →
      (∀ (u : Out) (p : Pos), s.hall.path.pos[u] = some p → p.line ≠ l) →
      (∀ k : Fin 8, k < l → ∃ (u : Out) (p : Pos), s.hall.path.pos[u] = some p ∧ p.line = k) →
      TakenOk define s
        ({ edited with hall := s.hall.setPos o (some
            { line := l, rate := 3, presets := tab 16 none, st := .parked none, az := none, read := false,
              job := some ⟨s.time.now, 0, none, none, false⟩, gone := false }) }.onHall sweep) tag .outputDefine) ∧
    (good → ¬ locked → d.slewable = true → r.slewable = false → ¬ waits →
      TakenOk define s ({ edited with hall := s.hall.setPos o none }.onHall sweep) tag .outputDefine) ∧
    (d.defined = false → TakenOk undefine s s tag .outputUndefine) ∧
    (d.defined = true → outInUse s.hall o = true → Answers undefine s tag .outputUndefine .state .nothing) ∧
    (d.defined = true → outInUse s.hall o = false →
      TakenOk undefine s
        { s with tables := { s.tables with outs := upd s.tables.outs o fun d => { d with defined := false } } } tag
        .outputUndefine)

/-- R83: EXCLUSION-LIST answers the ranges in index order with the lock; OUTPUT-GET the output (its name fixes its kind) with
every field of its definition, defined or not; neither changes anything. -/
def Obligations.FrequencyReads : Prop :=
  ∀ (tag : Nat) (o : Out) (s : State), s.takes tag →
    Answers (.exclusionList tag) s tag .exclusionList .ok (.exclusions s.tables.excl s.tables.lock) ∧
    Answers (.outputGet tag (some o)) s tag .outputGet .ok (.output o s.tables.outs[o])

/-- The Frequency Check's answer to a whole question: the first test of R84 that fails, in its order, with its detail;
EXCLUDED with the lowest index of a covering range; PERMITTED when every test passes. The host's CHECK: RANGE for a value
outside the conventions or not a number, or a name outside its list; otherwise OK with the check's answer, and nothing
changes. The conventions give a power no range: 1 to 1000 kW is the model's (log 37). -/
def Obligations.CheckAnswers : Prop :=
  (∀ (k : Tables) (h : Hall) (f p : Nat) (m : Mode) (o : Out) (t : Option Tx),
    let a := check k h ⟨some f, some m, some o, some p, t⟩
    let d := k.outs[o]
    let bars (x : Exclusion) : Prop := x.low ≤ f ∧ f ≤ x.high ∧
      match m with | .full => x.full = true | .reduced => x.reduced = true | .digital => x.digital = true
    let tuning := 2300 ≤ f ∧ f ≤ 26100
    let known := d.defined = true
    let usable := d.low ≤ f ∧ f ≤ d.high
    let txKnown := ∀ u, t = some u → txDefined k h u = true
    let txPower := ∀ u, t = some u → p ≤ (k.txs[u]).rating
    (¬ tuning → a = .range .frequency) ∧
    (tuning → ¬ known → a = .notFound .output) ∧
    (tuning → known → ¬ usable → a = .range .outputRange) ∧
    (tuning → known → usable → d.rating < p → a = .range .outputRating) ∧
    (tuning → known → usable → p ≤ d.rating → ¬ txKnown → a = .notFound .transmitter) ∧
    (tuning → known → usable → p ≤ d.rating → txKnown → ¬ txPower → a = .range .txRating) ∧
    (tuning → known → usable → p ≤ d.rating → txKnown → txPower → ∀ i x, k.excl[i]? = some x → bars x →
      (∀ j y, j < i → k.excl[j]? = some y → ¬ bars y) → a = .excluded i) ∧
    (tuning → known → usable → p ≤ d.rating → txKnown → txPower → (∀ x ∈ k.excl, ¬ bars x) → a = .permitted)) ∧
  ∀ (tag : Nat) (freq power : Option Nat) (mode : Option Mode) (o : Option Out) (t : Option (Option Tx)) (s : State),
    s.takes tag →
    let c : Instr := .check tag freq mode o power t
    ((∀ f, freq = some f → ¬ (2300 ≤ f ∧ f ≤ 26100)) ∨ (∀ p, power = some p → ¬ (1 ≤ p ∧ p ≤ 1000)) ∨ mode = none ∨
        o = none ∨ t = some none →
      Answers c s tag .check .range .nothing) ∧
    (∀ f kw m p, 2300 ≤ f → f ≤ 26100 → 1 ≤ kw → kw ≤ 1000 → freq = some f → power = some kw → mode = some m →
      o = some p → t ≠ some none →
      Answers c s tag .check .ok (.answer (check s.tables s.hall ⟨some f, some m, some p, some kw, t.bind id⟩)))

/-- R89: the licence lock flag. LICENCE-LOCK sets it and replies OK; power-on leaves it CLEAR; no other command changes it;
EXCLUSION-LIST and HALL-STATUS report it. -/
def Obligations.LicenceLockFlag : Prop :=
  (∀ (tag : Nat) (s : State), s.takes tag →
    TakenOk (.licenceLock tag) s { s with tables := { s.tables with lock := true } } tag .licenceLock ∧
    Answers (.exclusionList tag) s tag .exclusionList .ok (.exclusions s.tables.excl s.tables.lock) ∧
    ∃ v : HallView, v.lock = s.tables.lock ∧
      ∃ m : State, Completes (.hallStatus tag) s (m.say tag (some .hallStatus) .ok (.hall v)) ∧ m.hall = s.hall) ∧
  (∀ s t : State, exec .powerOn s = .next t → t.tables.lock = false) ∧
  (∀ (c : Instr) (s t : State), exec c s = .next t → c ≠ .powerOn → (∀ tag, c ≠ .licenceLock tag) →
    t.tables.lock = s.tables.lock)

/-- The retained tables change only by the requests that edit them, and at power-on: every other command leaves them. While the
licence lock is SET, no command but power-on changes the lock, the exclusion table or a usable range, and STORE-ERASE is
answered LOCKED. -/
def Obligations.TablesOnlyEdited : Prop :=
  (∀ (c : Instr) (s t : State), exec c s = .next t → editsTables c = false → t.tables = s.tables) ∧
  ∀ s : State, s.tables.lock = true →
    (∀ (c : Instr) (t : State), exec c s = .next t → c ≠ .powerOn → t.tables.lock = true ∧
      t.tables.excl = s.tables.excl ∧
      ∀ o : Out, (t.tables.outs[o]).low = (s.tables.outs[o]).low ∧ (t.tables.outs[o]).high = (s.tables.outs[o]).high) ∧
    (∀ tag, s.takes tag → Answers (.storeErase tag) s tag .storeErase .locked .nothing)

/-! ### Antenna matrix -/

/-- Every column report stores its pairs as the last indications of the column's crosspoints. One that answers a READ of
adoption marks the column read; one that answers a fault clear's READ ends that READ. In a column where no throw holds a slot,
the rows are taken in ascending order: as a read result with a READ of adoption outstanding, at rest with no READ outstanding.
A row of a read result: an UNKNOWN crosspoint stays; cleanly broken is OPEN; one that would be CLOSED or UNKNOWN beside
another crosspoint of its column or row other than OPEN is OPEN, with a MATRIX-UNKNOWN record, detail CONFLICT (that a CLOSED
crosspoint of a later row that the report reads too does not count is log 29); cleanly made is CLOSED; disagreeing is UNKNOWN,
with detail READ. A row at rest: one that agrees, and an UNKNOWN one, stays; one recorded OPEN beside another crosspoint other
than OPEN stays, with detail CONFLICT; any other is UNKNOWN, with detail REST, one report for each such row, then, in this
order (both log 20), the assignment whose made output it was fails, a contact lost under RF is a hot switch, and the sequences
whose row or target column holds it fail. -/
def Obligations.ColumnReportStores : Prop :=
  (∀ (o : Out) (rows : Vector Contacts 12) (s : State), ∃ h : Hall,
    Completes (.columnReport o rows) s { s with hall := h } ∧
    (∀ t : Tx, ((h.path.xpt[o])[t]).ind = some rows[t]) ∧
    (∀ j, (s.hall.path.cols[o]).adopt = some j → j.deadline ≠ none →
      (h.path.cols[o]).read = true ∧ (h.path.cols[o]).adopt = none) ∧
    (∀ j, (s.hall.path.cols[o]).adopt = none → (s.hall.path.cols[o]).clear = some j → j.deadline ≠ none →
      (h.path.cols[o]).clear = none)) ∧
  (∀ (o : Out) (rows : Vector Contacts 12) (s : State), (∀ t : Tx, throwOf s.hall t o = none) →
    (∀ j, (s.hall.path.cols[o]).adopt = some j → j.deadline ≠ none →
      Completes (.columnReport o rows) s (s.onHall fun e h =>
        ((storeReport o rows h).each allTx (readRow e allTx o rows)).setCol o fun c => { c with read := true, adopt := none })) ∧
    ((s.hall.path.cols[o]).adopt = none → (s.hall.path.cols[o]).clear = none →
      Completes (.columnReport o rows) s (s.onHall fun e h => (storeReport o rows h).each allTx (restRow e o rows)))) ∧
  ∀ (e : Env) (read : List Tx) (o : Out) (rows : Vector Contacts 12) (t : Tx) (h : Hall),
    let st := xst h t o
    let pair := readPair rows[t]
    let marked (d : MatrixWord) (g : Hall) := report e ⟨.matrixUnknown, .out o, none, none, some (.matrix d (some (t, o)))⟩ g
    let elsewhere := ∃ p, p ≠ o ∧ xst h t p ≠ .opened
    let beside := elsewhere ∨ ∃ u, u ≠ t ∧ xst h u o ≠ .opened ∧ (xst h u o = .closed → u < t ∨ u ∉ read)
    let agrees := (st = .closed ∧ pair = .made) ∨ (st = .opened ∧ pair = .broken) ∨ (st ≠ .closed ∧ st ≠ .opened)
    let other := elsewhere ∨ ∃ u, u ≠ t ∧ xst h u o ≠ .opened
    let lost := marked .rest (xptChange t o .unknown .rest true h)
    let failed := if madeOut h t = some o ∧ (lost.asg[t]).isSome then failSeq e t lost else lost
    let switched := if isRad (failed.tx[t]).st = true ∨ rfpActive e failed t = true then hotSwitch e t true failed else failed
    (st ≠ .opened → st ≠ .closed → readRow e read o rows t h = h) ∧
    (st = .opened ∨ st = .closed →
      (pair = .broken → readRow e read o rows t h = xptChange t o .opened .read false h) ∧
      (pair ≠ .broken → beside → readRow e read o rows t h = marked .conflict (xptChange t o .opened .read true h)) ∧
      (pair = .made → ¬ beside → readRow e read o rows t h = xptChange t o .closed .read false h) ∧
      (pair = .disagreeing → ¬ beside → readRow e read o rows t h = marked .read (xptChange t o .unknown .read true h))) ∧
    (agrees → restRow e o rows t h = h) ∧
    (¬ agrees → st = .opened → other → restRow e o rows t h = marked .conflict h) ∧
    (¬ agrees → ¬ (st = .opened ∧ other) → restRow e o rows t h = switched.each allTx fun u g =>
      if (g.path.seqs[u]).target.any (fun x => decide (u = t ∨ x.out = o)) = true then failSeq e u g else g)

/-- A report with no READ outstanding, that agrees with the record of every other row and shows the crosspoint of a throw
cleanly made (MAKE) or cleanly broken (BREAK): the throw completes: the crosspoint is CLOSED or OPEN with its CROSSPOINT notice
and row change, and its slot is released. -/
def Obligations.ThrowCompletes : Prop :=
  ∀ (t : Tx) (o : Out) (rows : Vector Contacts 12) (x : Slot) (s : State),
    (s.hall.path.cols[o]).adopt = none → (s.hall.path.cols[o]).clear = none →
    throwOf s.hall t o = some x →
    (∀ u : Tx, u ≠ t → throwOf s.hall u o = none ∧ xst s.hall u o = .opened ∧ readPair rows[u] = .broken) →
    (x.motion.kind = .make t o → readPair rows[t] = .made →
      Completes (.columnReport o rows) s (s.onHall fun _ h =>
        xptChange t o .closed .throw false (freeMotion (isThrow t o) (storeReport o rows h)))) ∧
    (x.motion.kind = .brk t o → readPair rows[t] = .broken →
      Completes (.columnReport o rows) s (s.onHall fun _ h =>
        xptChange t o .opened .throw false (freeMotion (isThrow t o) (storeReport o rows h)))) ∧
    ((x.motion.kind = .make t o ∧ readPair rows[t] ≠ .made) ∨ (x.motion.kind = .brk t o ∧ readPair rows[t] ≠ .broken) →
      Completes (.columnReport o rows) s (s.onHall fun _ h => storeReport o rows h))

/-- A READ of adoption unanswered within its limit is sent again; the third time the column is silent: its output gets a
MATRIX-UNKNOWN record, detail SILENT, and it is marked read. A fault clear's READ: the third time the clear is answered STATE. A
READ whose limit has not passed: nothing (log 2). -/
def Obligations.ReadTimeout : Prop :=
  ∀ (o : Out) (s : State),
    let c := s.hall.path.cols[o]
    (∀ j d, c.adopt = some j → j.deadline = some d → d ≤ s.time.now → j.misses < 2 →
      Completes (.readTimeout o) s
        { s with hall := s.hall.setCol o fun c => { c with adopt := some ⟨j.misses + 1, none⟩ } }) ∧
    (∀ j d, c.adopt = some j → j.deadline = some d → d ≤ s.time.now → 2 ≤ j.misses →
      Completes (.readTimeout o) s (s.onHall fun e h =>
        (report e ⟨.matrixUnknown, .out o, none, none, some (.matrix .silent none)⟩ h).setCol o fun c =>
          { c with read := true, adopt := none })) ∧
    (∀ j d, c.adopt = none → c.clear = some j → j.deadline = some d → d ≤ s.time.now → j.misses < 2 →
      Completes (.readTimeout o) s
        { s with hall := s.hall.setCol o fun c => { c with clear := some ⟨j.misses + 1, none⟩ } }) ∧
    (∀ j d x, c.adopt = none → c.clear = some j → j.deadline = some d → d ≤ s.time.now → 2 ≤ j.misses →
      s.hall.clear = some x → x.kind = .matrixUnknown → x.out = o →
      Completes (.readTimeout o) s
        ({ s with hall := { s.hall.setCol o fun c => { c with clear := none } with clear := none } }.say x.tag
          (some .faultClear) .state .nothing)) ∧
    ((∀ j d, c.adopt = some j → j.deadline = some d → s.time.now < d) →
      (∀ j d, c.clear = some j → j.deadline = some d → s.time.now < d) → Completes (.readTimeout o) s s)

/-- A throw whose timeout has passed is stuck: its slot is released, the crosspoint is UNKNOWN with its CROSSPOINT notice, the
output gets a MATRIX-UNKNOWN record, detail TIMEOUT with the crosspoint, and the sequences that await it fail (log 29 for a
BREAK whose crosspoint is CLOSED). After a hot switch only the slot is released. A throw that is not late: nothing (log 2). -/
def Obligations.ThrowTimeout : Prop :=
  ∀ (t : Tx) (o : Out) (s : State),
    (∀ x, lateThrow s.env s.hall t o = some x → x.hot = false →
      Completes (.throwTimeout t o) s (s.onHall fun e h =>
        (report e ⟨.matrixUnknown, .out o, none, none, some (.matrix .timeout (some (t, o)))⟩
          (xptChange t o .unknown .timeout true (freeMotion (isThrow t o) h))).each x.motion.waiters (waiterFails e))) ∧
    (∀ x, lateThrow s.env s.hall t o = some x → x.hot = true →
      Completes (.throwTimeout t o) s (s.onHall fun _ h => freeMotion (isThrow t o) h)) ∧
    (lateThrow s.env s.hall t o = none → Completes (.throwTimeout t o) s s)

/-- A grant gives a free slot, with its start at now, to the eligible request of the highest class, the first to arrive among
equals; with no free slot or none eligible there is no grant. A request is eligible when a sequence that awaits it is not
frozen, nothing else moves its crosspoint or positioner (log 20), and: a MAKE with the row's permit GRANTED and every other
crosspoint of row and column OPEN; a BREAK with the row's permit GRANTED; a SLEW of a positioner read and not STALLED, with
the permit of the row that feeds it held and GRANTED. Path sequences: a request for an undefined preset fails; in IDLE it
fails when the output is FAULTED or the row or column holds an UNKNOWN crosspoint, is complete when the crosspoint is CLOSED
and no slew is wanted, and otherwise goes to SETTLING; in SETTLING and PERMITS it re-targets from SETTLING, its permits kept
(log 49); in BREAKING and MAKING the queued requests are left, for REDIRECTING while one is granted and SETTLING otherwise; in
REDIRECTING it replaces the target; in CANCELLING it is kept for later. SETTLING, its target not FAULTED, waits for the row,
the column and the positioner to rest, then wants the permits of its row and of the rows that hold the column; with all of
them PERMITS queues the breaks, the row's first; BREAKING waits for them; MAKING queues MAKE, then SLEW, and with nothing left
is complete, IDLE. A FAULTED target or an UNKNOWN crosspoint fails each of the four (past SETTLING: log 43): the assignment
ends FAILED and the sequence is cancelled. A cancel leaves the queued requests, for CANCELLING while one is granted and IDLE
otherwise. REDIRECTING and CANCELLING wait for what is granted. A request is joined where one for the same motion is queued,
else where one is granted, and otherwise queued last. -/
def Obligations.GrantsAreSafe : Prop :=
  (∀ (e : Env) (t : Tx) (g : Target) (h : Hall),
    let s := h.path.seqs[t]
    let o := g.out
    let granted := ∃ (i : Fin 4) (x : Slot), h.path.slots[i] = some x ∧ t ∈ x.motion.waiters
    let queued := ∃ m ∈ h.path.queue, t ∈ m.waiters
    let faulted := outState h o = .faulted
    let blocked := faulted ∨ (∃ p, xst h t p = .unknown) ∨ ∃ u, xst h u o = .unknown
    let closed := xst h t o = .closed
    let slew := (e.k.outs[o]).slewable = true ∧ ∃ p, h.path.pos[o] = some p ∧
      ¬ (p.read = true ∧ g.preset ≠ none ∧ p.st = .parked g.preset)
    let undefined := ∃ p n, h.path.pos[o] = some p ∧ g.preset = some n ∧ p.preset n = none
    let complete (h : Hall) : Hall := h.mapAsg t fun a => if a.path = .asked then { a with path := .done } else a
    let left : Hall := h.setQueue ((h.path.queue.map fun m =>
      { m with waiters := m.waiters.filter fun u => decide (u ≠ t) }).filter fun m => decide (m.waiters ≠ []))
    let put (h : Hall) (x : SeqStage) : Hall := h.setSeq t fun s => { s with stage := x, target := some g }
    let ask := pathRequest e t g h
    (undefined → ask = failSeq e t h) ∧
    (¬ undefined →
      (s.stage = .idle → blocked → ask = failSeq e t h) ∧
      (s.stage = .idle → ¬ blocked → closed → ¬ slew → ask = complete h) ∧
      (s.stage = .idle → ¬ blocked → ¬ closed ∨ slew → ask = put h .settling) ∧
      (s.stage = .settling ∨ s.stage = .permits → ask = put h .settling) ∧
      (s.stage = .breaking ∨ s.stage = .making → ask = put left (if granted then .redirecting else .settling)) ∧
      (s.stage = .redirecting → ask = put h .redirecting) ∧
      (s.stage = .cancelling → ask = h.setSeq t fun s => { s with next := some g })) ∧
    (failSeq e t h = cancelSeq t (endAsg e t .failed .nothing h)) ∧
    (s.stage = .idle → cancelSeq t h = h) ∧
    (s.stage ≠ .idle → ¬ granted → cancelSeq t h = left.setSeq t fun _ => PathSeq.idle) ∧
    (s.stage ≠ .idle → granted → cancelSeq t h = left.setSeq t fun s =>
      { s with stage := .cancelling, target := none, next := none }) ∧
    (s.target = some g →
      let moving := ∃ (i : Fin 4) (x : Slot), h.path.slots[i] = some x ∧ match x.motion.kind with
        | .make u p | .brk u p => u = t ∨ p = o
        | .slew p _ => p = o
      let breaks := ((allOut.filter fun p => decide (p ≠ o ∧ xst h t p ≠ .opened)).map fun p => MotionKind.brk t p) ++
        (allTx.filter fun u => decide (u ≠ t ∧ xst h u o ≠ .opened)).map fun u => .brk u o
      let makes := ∃ m, m.kind = .make t o ∧ t ∈ m.waiters ∧ (m ∈ h.path.queue ∨ ∃ (i : Fin 4) (x : Slot),
        h.path.slots[i] = some x ∧ x.motion = m)
      let next := seqStep e t h
      (s.stage = .settling → faulted ∨ (¬ moving ∧ blocked) → next = some (failSeq e t h)) ∧
      (s.stage = .settling → ¬ faulted → moving → next = none) ∧
      (s.stage = .settling → ¬ blocked → ¬ moving → ∃ l,
        next = some (h.setSeq t fun s => { s with stage := .permits, wants := l }) ∧
        ∀ u, u ∈ l ↔ u = t ∨ xst h u o ≠ .opened) ∧
      (s.stage = .permits ∨ s.stage = .breaking ∨ s.stage = .making → blocked → next = some (failSeq e t h)) ∧
      (s.stage = .permits → ¬ blocked → (∀ u ∈ s.wants, (h.tx[u]).permit = .granted) →
        next = some ((h.setSeq t fun s => { s with stage := .breaking }).each breaks (joinOrQueue t))) ∧
      (s.stage = .permits → ¬ blocked → ¬ (∀ u ∈ s.wants, (h.tx[u]).permit = .granted) → next = none) ∧
      (s.stage = .breaking → ¬ blocked → ¬ granted → ¬ queued →
        next = some (h.setSeq t fun s => { s with stage := .making })) ∧
      (s.stage = .breaking → ¬ blocked → granted ∨ queued → next = none) ∧
      (s.stage = .making → ¬ blocked → ¬ closed → ¬ makes → next = some (joinOrQueue t (.make t o) h)) ∧
      (∀ n, s.stage = .making → ¬ blocked → closed ∨ makes → slew → g.preset = some n →
        (∀ m ∈ h.path.queue, ∀ k, m.kind ≠ .slew o k) →
        (∀ (i : Fin 4) (x : Slot) (k : Nat), h.path.slots[i] = some x → x.motion.kind ≠ .slew o k) →
        next = some (joinOrQueue t (.slew o n) h)) ∧
      (s.stage = .making → ¬ blocked → closed → ¬ slew → ¬ granted → ¬ queued →
        next = some (complete (h.setSeq t fun _ => PathSeq.idle)))) ∧
    (s.stage = .redirecting ∨ s.stage = .cancelling → granted → seqStep e t h = none) ∧
    (s.stage = .redirecting → ¬ granted → seqStep e t h = some (h.setSeq t fun s => { s with stage := .settling })) ∧
    (s.stage = .cancelling → ¬ granted → s.next = none → seqStep e t h = some (h.setSeq t fun _ => PathSeq.idle)) ∧
    (s.stage = .cancelling → ¬ granted → s.next = some g →
      seqStep e t h = some (h.setSeq t fun s => { s with stage := .settling, target := some g, next := none })) ∧
    ∀ k : MotionKind,
      let joined (m : Motion) : Motion := if t ∈ m.waiters then m else { m with waiters := m.waiters ++ [t] }
      let inQueue := ∃ m ∈ h.path.queue, m.kind = k
      let inSlot := ∃ (i : Fin 4) (x : Slot), h.path.slots[i] = some x ∧ x.motion.kind = k ∧ x.hot = false
      (inQueue → joinOrQueue t k h =
        h.setQueue (h.path.queue.map fun m => if m.kind = k then joined m else m)) ∧
      (¬ inQueue → inSlot → ∃ g, joinOrQueue t k h = g ∧ g.path.queue = h.path.queue ∧ g.path.arrival = h.path.arrival ∧
        ∀ i : Fin 4, g.path.slots[i] = (h.path.slots[i]).map fun x =>
          if x.motion.kind = k then { x with motion := joined x.motion } else x) ∧
      (¬ inQueue → ¬ inSlot → joinOrQueue t k h = { h with path := { h.path with
        queue := h.path.queue ++ [⟨k, h.path.arrival, [t]⟩], arrival := seqSucc h.path.arrival } })) ∧
  ∀ (e : Env) (h : Hall),
    let may (m : Motion) := (∃ u ∈ m.waiters, ∀ c rest, h.changes = c :: rest → c.draining = true → u ∉ c.frozen) ∧
      (∀ (i : Fin 4) (x : Slot), h.path.slots[i] = some x → sameTarget x.motion.kind m.kind = false) ∧
      match m.kind with
      | .make t o => (h.tx[t]).permit = .granted ∧ (∀ p, p ≠ o → xst h t p = .opened) ∧ ∀ u, u ≠ t → xst h u o = .opened
      | .brk t _ => (h.tx[t]).permit = .granted
      | .slew o _ => (∃ p, h.path.pos[o] = some p ∧ p.read = true ∧ p.st ≠ .stalled) ∧
          ∀ t, feeder h o = some t → (h.tx[t]).permit = .granted ∧ ∃ u : Tx, t ∈ (h.path.seqs[u]).wants
    let cls (m : Motion) := motionClass h m
    ((∀ i : Fin 4, h.path.slots[i] ≠ none) ∨ (∀ m ∈ h.path.queue, ¬ may m) → grantStep e h = none) ∧
    ∀ before m after, (∃ i : Fin 4, h.path.slots[i] = none) → h.path.queue = before ++ m :: after → may m →
      (∀ y ∈ before, may y → cls y < cls m) → (∀ y ∈ after, may y → cls y ≤ cls m) →
      ∃ (g : Hall) (i : Fin 4) (x : Slot), grantStep e h = some g ∧ h.path.slots[i] = none ∧ g.path.slots[i] = some x ∧
        (∀ j, j ≠ i → g.path.slots[j] = h.path.slots[j]) ∧ x.motion = m ∧ x.start = e.now ∧ x.hot = false ∧
        g.path.queue = (h.path.queue.filter fun y => decide (y ≠ m)) ∧
        (∀ t o, m.kind = .make t o → xst g t o = .closing ∧ x.timeout = (e.k.outs[o]).throw * 1000) ∧
        (∀ t o, m.kind = .brk t o → xst g t o = .opening ∧ x.timeout = (e.k.outs[o]).throw * 1000) ∧
        ∀ o n p, m.kind = .slew o n → h.path.pos[o] = some p → g.path.pos[o] = some { p with st := .slewing n } ∧
          x.timeout = (ceilDiv (travel p ((p.preset n).getD 0)) p.rate + 20) * 1000

/-- MATRIX-STATUS of an output and of a transmitter, MOTION-LIST and POSITIONER-STATUS (NOT-FOUND without a positioner) answer
the records of the matrix and the positioners, a motion's elapsed time and a slew's timeout in whole seconds (log 22), and
change nothing. The model's: a motion that no sequence with a target awaits is of class 0, and after a hot switch it has no
requester (log 34); the permits wanted stay in the record of a sequence that re-targets to SETTLING (log 49). -/
def Obligations.MatrixAndPositionerReads : Prop :=
  ∀ (tag : Nat) (o : Out) (t : Tx) (s : State), s.takes tag →
    (s.hall.path.pos[o] = none → Answers (.positionerStatus tag (some o)) s tag .positionerStatus .notFound .nothing) ∧
    (∀ p, s.hall.path.pos[o] = some p → Answers (.positionerStatus tag (some o)) s tag .positionerStatus .ok
      (.positioner o p ((slewSlot s.hall o).map fun x => ((s.time.now - x.start) / 1000, x.timeout / 1000)))) ∧
    Answers (.matrixStatus tag (some (.out o))) s tag .matrixStatus .ok
      (.matrixOut o (outState s.hall o) (feeder s.hall o) s.hall.path.owner[o] (reserver s.hall o)
        (s.hall.path.cols[o]).read s.hall.path.xpt[o]) ∧
    Answers (.matrixStatus tag (some (.tx t))) s tag .matrixStatus .ok
      (.matrixTx t (allOut.map (xst s.hall t)) s.hall.path.seqs[t] (grantedOf s.hall t ++ queuedOf s.hall t)
        (decide ((s.hall.tx[t]).permit = .granted)) (decide ((s.hall.tx[t]).permit = .requested))) ∧
    ∃ l q, Answers (.motionList tag) s tag .motionList .ok (.motions l q) ∧
      l = s.hall.path.slots.toList.map (fun x => x.map fun y =>
        ({ kind := y.motion.kind, cls := motionClass s.hall y.motion, requester := y.motion.waiters.head?,
           elapsed := (s.time.now - y.start) / 1000 } : SlotView)) ∧
      q.length = s.hall.path.queue.length ∧ (q.map QueueView.cls).Pairwise (fun a b => b ≤ a) ∧
      ∀ m ∈ s.hall.path.queue,
        ({ kind := m.kind, cls := motionClass s.hall m, arrival := m.arrival, requester := m.waiters.head?,
           eligible := eligible s.hall m } : QueueView) ∈ q

/-! ### Antenna positioners -/

/-- POSITIONER-SET and PRESET-SET: NOT-FOUND without a positioner (a dummy load has none: log 26), RANGE, CONFLICT for a line
another record holds, STATE for a change of line during a slew or a read; otherwise the values are replaced, and a new line
makes the record unread with a read begun. A preset is STATE while the positioner is parked at it or slewing to it, or a
sequence or queued request names it; otherwise it takes the azimuth, or becomes undefined. That a target a sequence keeps for
later counts too is the model's (log 26). -/
def Obligations.PositionerEdits : Prop :=
  ∀ (tag n : Nat) (o : Out) (line rate az : Option Nat) (s : State), s.takes tag →
    let set : Instr := .positionerSet tag (some o) line rate
    let preset : Instr := .presetSet tag (some o) n az
    (s.hall.path.pos[o] = none → Answers set s tag .positionerSet .notFound .nothing ∧
      Answers preset s tag .presetSet .notFound .nothing) ∧
    (∀ p, s.hall.path.pos[o] = some p →
      let good := (∀ x, line = some x → 1 ≤ x ∧ x ≤ 8) ∧ ∀ x, rate = some x → 1 ≤ x ∧ x ≤ 12
      let named (l : Fin 8) := line = some (l.val + 1)
      let held (u : Out) (l : Fin 8) := ∃ q, s.hall.path.pos[u] = some q ∧ q.line = l
      (¬ good → Answers set s tag .positionerSet .range .nothing) ∧
      (∀ l u, good → named l → l ≠ p.line → lineHolder s.hall l = some u → u ≠ o →
        Answers set s tag .positionerSet .conflict (.otherOut u)) ∧
      (∀ l, good → named l → l ≠ p.line → (∀ u, ¬ held u l) → ((slewSlot s.hall o).isSome = true ∨ p.job ≠ none) →
        Answers set s tag .positionerSet .state .nothing) ∧
      (∀ l, good → named l → l ≠ p.line → (∀ u, ¬ held u l) → slewSlot s.hall o = none → p.job = none →
        TakenOk set s { s with hall := s.hall.setPos o (some { p with
          line := l, rate := rate.getD p.rate, read := false, job := some ⟨s.time.now, 0, none, none, false⟩ }) } tag
          .positionerSet) ∧
      (good → (∀ l, named l → l = p.line) →
        TakenOk set s { s with hall := s.hall.setPos o (some { p with rate := rate.getD p.rate }) } tag .positionerSet) ∧
      let fits := n ≤ 15 ∧ ∀ x, az = some x → x ≤ 359
      let busy := p.st = .parked (some n) ∨ p.st = .slewing n ∨
        (∃ (t : Tx) (g : Target), ((s.hall.path.seqs[t]).target = some g ∨ (s.hall.path.seqs[t]).next = some g) ∧
          g.out = o ∧ g.preset = some n) ∨ ∃ m ∈ s.hall.path.queue, m.kind = .slew o n
      (¬ fits → Answers preset s tag .presetSet .range .nothing) ∧
      (fits → busy → Answers preset s tag .presetSet .state .nothing) ∧
      (fits → ¬ busy → ∃ q : Pos,
        TakenOk preset s { s with hall := s.hall.setPos o (some q) } tag .presetSet ∧ q.preset n = az ∧
        (∀ i, i ≠ n → q.preset i = p.preset i) ∧ { q with presets := p.presets } = p))

/-- A drive unit's report, for the line's positioner (AT-REST outside a fault clear's read). AT-REST to a QUERY ends the read:
PARKED at the lowest-numbered preset of that azimuth, or off preset (a STALLED one too: log 40). MOVING to a QUERY: QUERY
again 2 s after it (from the report: log 40). AT-TARGET at the azimuth commanded completes the slew: PARKED at the preset, the
slot released, a POSITIONER notice; at another azimuth the positioner is STALLED with a POSITIONER-STALL record, detail
STOPPED, the slot is released and the sequences that await it fail. Any report updates the last azimuth; an AT-TARGET to a
QUERY, another report during a slew, any report after a hot switch, and one with nothing outstanding change nothing else; one
on a line no record holds changes nothing (the model's, log 26). -/
def Obligations.PositionerReports : Prop :=
  ∀ (l : Fin 8) (s : State),
    (∀ r, lineHolder s.hall l = none → Completes (.positionerReport l r) s s) ∧
    (∀ o p, lineHolder s.hall l = some o → s.hall.path.pos[o] = some p →
      (∀ j d az, p.job = some j → j.query = some d → j.clear = false →
        let found := (List.range 16).find? fun n => decide (p.preset n = some az)
        (p.st ≠ .parked found → Completes (.positionerReport l (.atRest az)) s (s.onHall fun _ h =>
          posChange o (.parked found) .read false
            (h.setPos o (some { p with az := some az, job := none, read := true })))) ∧
        (p.st = .parked found → Completes (.positionerReport l (.atRest az)) s
          { s with hall := s.hall.setPos o (some { p with az := some az, job := none, read := true }) })) ∧
      (∀ j d az, p.job = some j → j.query = some d →
        Completes (.positionerReport l (.moving az)) s { s with hall := s.hall.setPos o (some { p with
          az := some az, job := some { j with query := none, misses := 0, again := some (s.time.now + 2000) } }) }) ∧
      (∀ x az n, p.job = none → p.gone = false → slewSlot s.hall o = some x → x.hot = false →
        x.motion.kind = .slew o n → p.preset n = some az →
        Completes (.positionerReport l (.atTarget az)) s (s.onHall fun _ h =>
          posChange o (.parked (some n)) .slew false
            (freeMotion (isSlewOf o) (h.setPos o (some { p with az := some az }))))) ∧
      (∀ x az n, p.job = none → p.gone = false → slewSlot s.hall o = some x → x.hot = false →
        x.motion.kind = .slew o n → p.preset n ≠ some az →
        Completes (.positionerReport l (.atTarget az)) s (s.onHall fun e h =>
          (report e ⟨.positionerStall, .out o, none, none, some (.stall .stopped)⟩
            (posChange o .stalled .stopped true
              (freeMotion (isSlewOf o) (h.setPos o (some { p with az := some az }))))).each x.motion.waiters (waiterFails e))) ∧
      (∀ r, ((∃ j d az, p.job = some j ∧ j.query = some d ∧ r = .atTarget az) ∨
          (p.job = none ∧ ∀ x, slewSlot s.hall o = some x → x.hot = true ∨ ∀ az, r ≠ .atTarget az)) →
        Completes (.positionerReport l r) s { s with hall := s.hall.setPos o (some { p with az := some (reportAz r) }) }))

/-- A QUERY unanswered in 2 s is to be sent again, and the third time the unit is silent: the positioner is STALLED with a
POSITIONER-STALL record, detail SILENT. QUERY is sent again to a MOVING unit when its time has come. Still MOVING when the
full-travel time (359 by the rate, rounded up, plus 20 s) has passed: STALLED, detail READ. The read of a fault clear ends in
both cases without a record, and the clear is answered STATE. A slew whose timeout has passed is STALLED, detail TIMEOUT, its
slot is released and the sequences that await it fail. The rate is the one held then, and a QUERY still unanswered is not waited
for: both the model's (log 40). -/
def Obligations.PositionerTimeouts : Prop :=
  ∀ (o : Out) (p : Pos) (s : State), s.hall.path.pos[o] = some p →
    let stalled (w : StallWord) := s.onHall fun e h =>
      let h := h.setPos o (some { p with job := none, read := true })
      report e ⟨.positionerStall, .out o, none, none, some (.stall w)⟩
        (if p.st = .stalled then h else posChange o .stalled .read true h)
    let cleared (x : Clear) : Prop := s.hall.clear = some x ∧ x.kind = .positionerStall ∧ x.out = o
    let refused (x : Clear) : State :=
      { s with hall := { s.hall.setPos o (some { p with job := none, read := true }) with clear := none } }.say x.tag
        (some .faultClear) .state .nothing
    (∀ j d, p.job = some j → j.query = some d → d ≤ s.time.now → j.misses < 2 →
      Completes (.queryTimeout o) s { s with hall := s.hall.setPos o (some { p with
        job := some { j with misses := j.misses + 1, query := none } }) }) ∧
    (∀ j d, p.job = some j → j.query = some d → d ≤ s.time.now → 2 ≤ j.misses → j.clear = false →
      Completes (.queryTimeout o) s (stalled .silent)) ∧
    (∀ j d x, p.job = some j → j.query = some d → d ≤ s.time.now → 2 ≤ j.misses → j.clear = true → cleared x →
      Completes (.queryTimeout o) s (refused x)) ∧
    (∀ j d, p.job = some j → j.again = some d → d ≤ s.time.now →
      Completes (.queryRepeat o) s { s with hall := (s.hall.setPos o (some { p with
        job := some { j with again := none, query := some (s.time.now + 2000) } })).setDrvCmd p.line .query }) ∧
    (∀ j, p.job = some j → j.query ≠ none ∨ j.again ≠ none → j.clear = false →
      j.began + ((359 + p.rate - 1) / p.rate + 20) * 1000 ≤ s.time.now →
      Completes (.readFullTravelTimeout o) s (stalled .read)) ∧
    (∀ j x, p.job = some j → j.query ≠ none ∨ j.again ≠ none → j.clear = true → cleared x →
      j.began + ((359 + p.rate - 1) / p.rate + 20) * 1000 ≤ s.time.now →
      Completes (.readFullTravelTimeout o) s (refused x)) ∧
    (∀ x, slewSlot s.hall o = some x → x.start + x.timeout ≤ s.time.now → x.hot = false → p.gone = false →
      Completes (.slewTimeout o) s (s.onHall fun e h =>
        (report e ⟨.positionerStall, .out o, none, none, some (.stall .timeout)⟩
          (posChange o .stalled .timeout true (freeMotion (isSlewOf o) h))).each x.motion.waiters (waiterFails e))) ∧
    (∀ x, slewSlot s.hall o = some x → x.start + x.timeout ≤ s.time.now → x.hot = true → p.gone = false →
      Completes (.slewTimeout o) s (s.onHall fun _ h => freeMotion (isSlewOf o) h))

/-! ### Transmitter Supervisor -/

/-- TX-DEFINE: RANGE for a value outside R131 or for no rating on an undefined transmitter; otherwise the definition takes the
values given, undefine pending ends, an ABSENT transmitter becomes UNREACHABLE with its TX notice (and UNJUDGED during
adoption), and the sweep runs (what it does: Obligations.ExclusionEdits). TX-UNDEFINE: OK without effect on an undefined one;
STATE while anything of R133 names or holds it; otherwise the transmitter is ABSENT with its TX notice and its runtime fields
dropped. Undefine pending ends once no assignment, no state from RAISING to LOWERING, TRIPPED or LOCKOUT, no outstanding order,
no permit and no RFP holds the transmitter: it is ABSENT with its TX notice, cause RESET, its runtime fields dropped, and it
counts as judged (R156). TX-STATUS answers the definition (with undefine pending it is shown as defined) and the record, with
the seconds since the outstanding order was sent, what holds a pending order, and each trip's age, in whole seconds rounded down
(log 22). -/
def Obligations.TransmitterTable : Prop :=
  (∀ (e : Env) (t : Tx) (h : Hall),
    let r := h.tx[t]
    let held := h.asg[t] ≠ none ∨ r.st = .raising ∨ r.st = .onAir ∨ r.st = .lowering ∨ r.st = .tripped ∨ r.st = .lockout ∨
      r.out ≠ none ∨ r.permit ≠ .none ∨ rfpActive e h t = true
    (r.undef = false ∨ held → undefStep e t h = none) ∧
    (r.undef = true → ¬ held → r.st ≠ .absent → undefStep e t h = some
      (((h.setTx t fun r => { r with st := .absent, before := none, contact := false, cond := none, missed := 0, undef := false,
                                     exch := none, pend := none, resend := false }).note (.tx t .absent r.st .reset)).setAdopt t
        fun a => { a with judged := true })) ∧
    (nextRule e h = none → undefStep e t h = none)) ∧
  ∀ (tag : Nat) (t : Tx) (rating warm tune raise lower : Option Nat) (s : State), s.takes tag →
    let define : Instr := .txDefine tag (some t) rating warm tune raise lower
    let undefine : Instr := .txUndefine tag (some t)
    let d := s.tables.txs[t]
    let r := s.hall.tx[t]
    let known := d.defined = true ∨ r.undef = true
    let good := (∀ x, rating = some x → 1 ≤ x ∧ x ≤ 1000) ∧ (∀ x, warm = some x → 10 ≤ x ∧ x ≤ 1800) ∧
      (∀ x, tune = some x → 10 ≤ x ∧ x ≤ 300) ∧ (∀ x, raise = some x → 5 ≤ x ∧ x ≤ 120) ∧
      (∀ x, lower = some x → 2 ≤ x ∧ x ≤ 60) ∧ (¬ known → rating ≠ none)
    let edited : State := { s with tables := { s.tables with txs := upd s.tables.txs t fun _ =>
      { defined := true, rating := rating.getD d.rating, warm := warm.getD d.warm, tune := tune.getD d.tune,
        raise := raise.getD d.raise, lower := lower.getD d.lower } } }
    let used := s.hall.asg[t] ≠ none ∨ (∃ (u : Tx) (i : StackItem), i ∈ s.hall.stack[u] ∧ i.item.tx = t) ∨
      (∃ i ∈ s.hall.deferral, i.item.tx = t) ∨
      (∃ n : BankNo, ((s.hall.banks[n]).st = .committed ∨ (s.hall.banks[n]).st = .active ∨
        (s.hall.banks[n]).st = .retiring) ∧ ∃ x ∈ (s.hall.banks[n]).recs, x.entry.tx = t) ∨
      s.hall.holds[t] ≠ Hold.off ∨ r.st = .raising ∨ r.st = .onAir ∨ r.st = .lowering ∨ r.st = .tripped ∨
      r.st = .lockout ∨ r.out ≠ none ∨ r.permit ≠ .none ∨ rfpActive s.env s.hall t = true
    (¬ good → Answers define s tag .txDefine .range .nothing) ∧
    (good → r.st ≠ .absent →
      TakenOk define s (edited.onHall fun e h => sweep e (h.setTx t fun r => { r with undef := false })) tag .txDefine) ∧
    (good → r.st = .absent → TakenOk define s (edited.onHall fun e h =>
      let h := if h.mode = .adopting then h.setAdopt t fun _ => ⟨false, none, false, false⟩ else h
      sweep e ((h.setTx t fun r => { r with st := .unreachable, undef := false, contact := false, before := none }).note
        (.tx t .unreachable .absent .define))) tag .txDefine) ∧
    (¬ known → TakenOk undefine s s tag .txUndefine) ∧
    (known → used → Answers undefine s tag .txUndefine .state .nothing) ∧
    (known → ¬ used → r.st ≠ .absent → TakenOk undefine s
      { s with
        tables := { s.tables with txs := upd s.tables.txs t fun d => { d with defined := false } }
        hall := ((s.hall.setTx t fun r =>
          { r with st := .absent, before := none, contact := false, cond := none, missed := 0, undef := false,
                   exch := none, pend := none, resend := false }).note (.tx t .absent r.st .define)).setAdopt t
            fun a => { a with judged := true } } tag .txUndefine) ∧
    Answers (.txStatus tag (some t)) s tag .txStatus .ok
      (.tx t { d with defined := d.defined || r.undef } r ((r.out.bind Order.since).map fun x => (s.time.now - x) / 1000)
        (r.pend.map fun o =>
          ({ outstanding := r.out.isSome
             permit := o.kind.isRaise && decide (r.permit = .granted)
             door := o.kind.isRaise && doorActive s.env s.hall t
             estop := o.kind.isRaise && estopActive s.env s.hall
             frozen := o.kind.isRaise && frozen s.hall t && decide (r.st ≠ .raising)
             unreachable := decide (r.st = .unreachable) } : HeldBy))
        (r.window.map fun w => (s.time.now - w.at_) / 1000))

/-- A slot of a defined transmitter's line with no exchange in progress. Until a reply has given the last order number it polls.
An order to be sent that its state lists (or, in RAISING, the RAISE of a lost carrier) and that nothing holds is sent with the
next number (after 255 comes 1), and the state moves as R139 says: in UNREACHABLE a LOWER alone is (R149), and where no order is
to be sent or outstanding the pending one goes so. A LOWER is sent while RFP is active though the state does not list it; one
declined and to be sent again keeps its first sending time and its timeout (R139, R145). A pending RAISE that is held, and in
UNREACHABLE another order than a LOWER, is pending, one that was to be sent too. An order sent and not answered is sent again
with its number; with an answered order, or one that stays pending, or none, the slot carries LOWER with the next number while
R145 requires it (a LOWER timed out and RFP is active), and polls otherwise. In LOCAL an order sent is not sent again, and the
slot polls (log 47). An undefined transmitter, or a slot during an exchange: nothing (log 14). -/
def Obligations.CabinetSlot : Prop :=
  ∀ (t : Tx) (s : State),
    let r := s.hall.tx[t]
    let known := (s.tables.txs[t]).defined = true ∨ r.undef = true
    let ready := known ∧ r.exch = none
    let bare := (r.out = none ∧ r.pend = none) ∨ ∃ o at_, r.out = some o ∧ o.sentAt = some at_ ∧ o.answered = true
    let sends (m : CabMsg) (f : TxRec → TxRec) := Completes (.cabinetSlot t) s
      { s with hall := s.hall.setTx t fun r => { f r with exch := some ⟨m, s.time.now⟩ } }
    (¬ ready → Completes (.cabinetSlot t) s s) ∧
    (ready → r.lastNo = none → sends .poll id) ∧
    (∀ last, ready → r.lastNo = some last → bare →
      ¬ (r.resend = true ∧ rfpActive s.env s.hall t = true) → sends .poll id) ∧
    (∀ last, ready → r.lastNo = some last → bare → r.st ≠ .isLocal → r.resend = true → rfpActive s.env s.hall t = true →
      let no := if 255 ≤ last then 1 else last + 1
      sends (.order .lower no) fun r => { r with lastNo := some no }) ∧
    (∀ last o at_ no, ready → r.lastNo = some last → r.out = some o → o.sentAt = some at_ → o.answered = false →
      o.no = some no → r.st ≠ .isLocal → sends (.order o.kind no) id) ∧
    (∀ last o at_, ready → r.lastNo = some last → r.out = some o → o.sentAt = some at_ → r.st = .isLocal → sends .poll id) ∧
    (∀ last o, ready → r.lastNo = some last →
      (r.out = none ∧ r.pend = some o) ∨ (r.out = some o ∧ o.sentAt = none ∧ r.pend = none) →
      (r.st = .unreachable ∧ o.kind ≠ .lower) ∨ (o.kind.isRaise = true ∧ raiseHeld s.env s.hall t = true ∧ r.st ≠ .absent ∧
        (orderListed o.kind r.st = true ∨ (o.again = true ∧ r.st = .raising))) →
      let no := if 255 ≤ last then 1 else last + 1
      let waits (r : TxRec) : TxRec := { r with out := none, pend := some o }
      (¬ (r.resend = true ∧ rfpActive s.env s.hall t = true) → sends .poll waits) ∧
      (r.resend = true → rfpActive s.env s.hall t = true →
        sends (.order .lower no) fun r => { waits r with lastNo := some no })) ∧
    (∀ last o, ready → r.lastNo = some last → r.out = some o ∨ (r.out = none ∧ r.pend = some o) → o.sentAt = none →
      orderListed o.kind r.st = true ∨ (o.again = true ∧ o.kind.isRaise = true ∧ r.st = .raising) ∨
        (o.kind = .lower ∧ rfpActive s.env s.hall t = true ∧ r.st ≠ .absent ∧ r.st ≠ .isLocal) →
      (o.kind.isRaise = true → raiseHeld s.env s.hall t = false) →
      let no := if 255 ≤ last then 1 else last + 1
      let d := s.tables.txs[t]
      let moved : TxState := match o.kind, r.st with
        | .warm, .cold => .warming
        | .tune _ _ _, .standby | .tune _ _ _, .ready => .tuning
        | .raise _, .ready => .raising
        | .lower, .raising | .lower, .onAir => .lowering
        | .cool, .standby | .cool, .ready => .cold
        | _, x => x
      let limit : Nat := match o.kind with
        | .warm | .cool => d.warm
        | .tune _ _ _ => d.tune
        | .raise _ | .clearTrip => d.raise
        | .lower => d.lower
      ∃ h : Hall, Completes (.cabinetSlot t) s { s with hall := h } ∧
        (h.tx[t]).exch = some ⟨.order o.kind no, s.time.now⟩ ∧ (h.tx[t]).lastNo = some no ∧ (h.tx[t]).st = moved ∧
        (h.tx[t]).out = some { o with
          no := some no, sentAt := some s.time.now, since := some (o.since.getD s.time.now),
          timeout := if o.since.isSome then o.timeout else limit * 1000, answered := false, prev := r.st, sawTuning := false } ∧
        (h.tx[t]).pend = (if r.out = none then none else r.pend) ∧
        (∀ kw, o.kind = .raise kw → (h.tx[t]).raiseKw = some kw ∧ (h.tx[t]).doneKw = none) ∧
        ∀ u : Tx, u ≠ t → h.tx[u] = s.hall.tx[u])

/-- A reply with no exchange, or to an undefined transmitter, is discarded (log 14). Otherwise its record is taken, whatever
else it does: the condition, no reply missed, the exchange ended, and the first reply's number becomes the last order number
(255 when it carries none). A transmitter still to be judged takes the table's state, LOCKOUT kept, with its notice where
contact is new, and an order that runs on ends or goes on without record (R206; log 33). For a transmitter in contact, judged,
with the local flag clear: a condition that agrees with the state and no order in hand change nothing else; the condition that
an order waits for completes it, and CLEAR-TRIP re-derives the state (R146, R170); TUNED elsewhere after TUNING is TUNE-FAIL
(R143); TRIPPED completes a LOWER, and ends a RAISE, as a trip in RAISING and ON_AIR, elsewhere as an uncounted one (log 33);
TAKEN marks it answered; DECLINED ends it, the state before its sending back unless it changed since (log 33), with an
ORDER-DECLINED record, which carries the part-side state for STATE, and its condition is then compared as with no order
outstanding (log 33: TRIPPED, in a reply that found RAISING or ON_AIR, is a trip); a cabinet trip in RAISING or ON_AIR with no
order outstanding is a trip, a radiating condition there is kept as the state is (RAISING and LOWERING in ON_AIR, and the rest
of the last row: log 30), and any other condition makes the state RAISING and the last RAISE an order to be sent anew. The
rest of R147's table, R171 for TRIPPED and R174 for LOCKOUT, are stated row by row, with no order outstanding. One regained
from UNREACHABLE with no order outstanding has its state re-derived as R138 gives, a carrier or a trip that was its own before
the loss told from one that was not; so has one whose local flag clears. -/
def Obligations.CabinetReply : Prop :=
  ∀ (t : Tx) (rep : CabReply) (s : State),
    let c : Instr := .cabinetReply t rep
    let r := s.hall.tx[t]
    let known := (s.tables.txs[t]).defined = true ∨ r.undef = true
    let stored : Hall := (s.hall.setTx t fun r =>
      { r with cond := some rep, missed := 0, exch := none, lastNo := some (r.lastNo.getD (rep.lastNo.getD 255)) }).setAdopt t
        fun a => { a with firstReply := some (a.firstReply.getD s.time.now) }
    let judged := s.hall.mode = .adopting → (s.hall.adopt[t]).judged = true
    let quiet := known ∧ r.exch ≠ none ∧ judged ∧ rep.loc = false
    let plain := quiet ∧ r.contact = true ∧ r.st ≠ .unreachable ∧ r.st ≠ .absent ∧ r.st ≠ .isLocal ∧ r.st ≠ .lockout
    let idle := ∀ o, r.out = some o → o.sentAt = none
    let radiates := condIsRad rep.cond = true
    let tripped := ∃ x, rep.cond = .tripped x
    let unexpected (g : Hall) : Hall :=
      handLower s.env t false (report s.env ⟨.rfUnexpected, .tx t, none, none, some .cabinet⟩ g)
    let derived (raised : Bool) (w : TxCause) (g : Hall) : Hall := match rep.cond with
      | .tripped x => if raised = true then trip s.env t (.cab x) g else handClear s.env t (setTxState t .tripped w g)
      | x => if condIsRad x = true ∧ raised = false then unexpected (setTxState t .lowering w g)
        else setTxState t (condState x) w g
    let ended : Hall := stored.setTx t fun r => { r with out := none }
    let answer (o : Order) : Option Answer := if o.answered = false ∧ rep.lastNo = o.no then rep.answer else none
    let stops (x : Recovery) : Recovery :=
      if x.stage = .idle then x else { x with stage := .stopping, expiry := none, rfpWait := false, failing := false }
    let runs (o : Order) := r.out = some o ∧ o.sentAt ≠ none ∧ ∀ x, answer o ≠ some (.declined x)
    (¬ (known ∧ r.exch ≠ none) → Completes c s s) ∧
    (known → r.exch ≠ none → ∃ h : Hall, Completes c s { s with hall := h } ∧ (h.tx[t]).cond = some rep ∧
      (h.tx[t]).missed = 0 ∧ (h.tx[t]).exch = none ∧ (h.tx[t]).lastNo = some (r.lastNo.getD (rep.lastNo.getD 255))) ∧
    (known → r.exch ≠ none → ¬ judged →
      let met := stored.setTx t fun r => { r with contact := true, before := none }
      let put : Hall := if r.st = .lockout then met else setTxState t (derive rep) .contact met
      let g : Hall := if (r.contact = false ∨ r.st = .unreachable) ∧ (put.tx[t]).st = r.st
        then put.note (.tx t r.st r.st .contact) else put
      let goes (o : Option Order) : Hall := g.setTx t fun r => { r with out := o }
      let local' := rep.loc = true ∧ r.st ≠ .isLocal ∧ r.st ≠ .lockout
      (local' → Completes c s { s with hall := ordersOver t g }) ∧
      (¬ local' → idle → Completes c s { s with hall := g }) ∧
      ∀ o, ¬ local' → r.out = some o → o.sentAt ≠ none →
        let finished := completes o.kind rep.cond = true ∨
          (o.kind.isTune = true ∧ o.sawTuning = true ∧ ∃ f m, rep.cond = .tuned f m)
        (∀ x, answer o = some (.declined x) →
          (o.kind = .lower →
            Completes c s { s with hall := goes (some { o with no := none, sentAt := none, answered := false }) }) ∧
          (o.kind ≠ .lower → Completes c s { s with hall := goes none })) ∧
        ((∀ x, answer o ≠ some (.declined x)) →
          (finished → Completes c s { s with hall := goes none }) ∧
          (o.kind.isRaise = true → tripped → Completes c s { s with hall := overtaken t o (goes none) }) ∧
          (¬ finished → ¬ (o.kind.isRaise = true ∧ tripped) →
            let on : Order := { o with answered := o.answered || (answer o).isSome
                                       sawTuning := o.sawTuning || (o.kind.isTune && decide (rep.cond = .tuning)) }
            Completes c s { s with hall := goes (some on) }))) ∧
    (plain → r.out = none → r.st = condState rep.cond → Completes c s { s with hall := stored }) ∧
    (plain → idle → r.st = .raising ∨ r.st = .onAir → radiates → Completes c s { s with hall := stored }) ∧
    (plain → idle → r.st = .cold ∨ r.st = .warming ∨ r.st = .standby ∨ r.st = .tuning ∨ r.st = .ready →
      (radiates → Completes c s { s with hall := if r.lowerInHand = true then stored else unexpected stored }) ∧
      (¬ radiates → Completes c s { s with hall := derived false .condition stored })) ∧
    (plain → idle → r.st = .lowering →
      (radiates → Completes c s
        { s with hall := if condState rep.cond = .lowering then stored else handLower s.env t false stored }) ∧
      (¬ radiates → Completes c s { s with hall := derived false .condition stored })) ∧
    (plain → idle → r.st = .tripped →
      (tripped → Completes c s { s with hall := stored }) ∧
      (radiates → r.lowerInHand = true → Completes c s { s with hall := stored }) ∧
      (radiates → r.lowerInHand = false → Completes c s { s with hall :=
        (handLower s.env t true (report s.env ⟨.rfUnexpected, .tx t, none, none, some .cabinet⟩ stored)).setTx t fun r =>
          { r with rcv := stops r.rcv } }) ∧
      (¬ tripped → ¬ radiates → r.rcv.stage = .idle →
        Completes c s { s with hall := setTxState t (condState rep.cond) .condition stored }) ∧
      (¬ tripped → ¬ radiates → r.rcv.stage ≠ .idle → Completes c s { s with hall := stored })) ∧
    (known → r.exch ≠ none → judged → r.contact = true → r.st = .lockout → idle → Completes c s
      { s with hall := if condIsRad rep.cond = true ∧ r.lowerInHand = false then unexpected stored else stored }) ∧
    (quiet → r.contact = true → r.st = .isLocal → r.out = none →
      Completes c s { s with hall := derived false .isLocal stored }) ∧
    (∀ o, plain → runs o → o.kind = .clearTrip → ¬ tripped → Completes c s { s with hall := derived false .order ended }) ∧
    (∀ o x, plain → runs o → o.kind = .lower → rep.cond = .tripped x →
      (o.byTrip = true → Completes c s { s with hall := setTxState t .tripped .order ended }) ∧
      (o.byTrip = false → Completes c s { s with hall := handClear s.env t (report s.env
        ⟨.trip, .tx t, none, none, some (.tripLowering x)⟩ (setTxState t .tripped .trip ended)) })) ∧
    (∀ o x, plain → runs o → o.kind.isRaise = true → rep.cond = .tripped x →
      (r.st = .raising ∨ r.st = .onAir → Completes c s { s with hall := trip s.env t (.cab x) (stored.setTx t fun r =>
        { r with out := some { o with answered := o.answered || (answer o).isSome } }) }) ∧
      (r.st = .tripped → Completes c s { s with hall := overtaken t o ended }) ∧
      (r.st ≠ .raising → r.st ≠ .onAir → r.st ≠ .tripped → Completes c s
        { s with hall := handClear s.env t (setTxState t .tripped .condition (overtaken t o ended)) })) ∧
    (∀ o f m p g n, plain → runs o → o.kind = .tune f m p → rep.cond = .tuned g n → ¬ (f = g ∧ m = n) →
      o.sawTuning = true →
      let told := report s.env ⟨.tuneFail, .tx t, none, none, some (.tuneFail f g)⟩ (setTxState t .standby .order ended)
      Completes c s
        { s with hall := if o.engine = true ∧ o.handBack = true then endAsg s.env t .failed .nothing told else told }) ∧
    (∀ o, plain → runs o → o.kind.isTune = true → rep.cond = .tuning → Completes c s { s with hall := stored.setTx t fun r =>
      { r with out := some { o with answered := o.answered || (answer o).isSome, sawTuning := true } } }) ∧
    (∀ o at_, plain → r.out = some o → o.sentAt = some at_ → o.answered = true ∨ rep.lastNo ≠ o.no ∨ rep.answer = none ∨
        rep.answer = some .taken → completes o.kind rep.cond = true → (∀ x, rep.cond ≠ .tripped x) → o.kind ≠ .clearTrip →
      let done : TxState := match o.kind with
        | .raise _ => .onAir
        | _ => condState rep.cond
      ∃ h : Hall, Completes c s { s with hall := h } ∧ (h.tx[t]).out = none ∧ (h.tx[t]).st = done ∧
        (h.tx[t]).cond = some rep ∧ (∀ kw, o.kind = .raise kw → (h.tx[t]).doneKw = some kw) ∧
        ∀ u : Tx, u ≠ t → h.tx[u] = s.hall.tx[u]) ∧
    (∀ o at_, plain → r.out = some o → o.sentAt = some at_ → o.answered = false → rep.lastNo = o.no →
      rep.answer = some .taken → completes o.kind rep.cond = false → o.kind.isTune = false → (∀ x, rep.cond ≠ .tripped x) →
      Completes c s { s with hall := stored.setTx t fun r => { r with out := some { o with answered := true } } }) ∧
    (∀ o at_ x, plain → r.out = some o → o.sentAt = some at_ → o.answered = false → rep.lastNo = o.no →
      rep.answer = some (.declined x) →
      let ended := stored.setTx t fun r => { r with out := none }
      let back := if r.st = sentState o.kind o.prev then setTxState t o.prev .order ended else ended
      let told := report s.env ⟨.orderDeclined, .tx t, none, none,
        some (.declined o.kind x (if x = .state then some (back.tx[t]).st else none))⟩ back
      let compared (h : Hall) : State :=
        { s with hall := (match rep.cond with
          | .tripped y => if (r.st = .raising ∨ r.st = .onAir) ∧ tripsTaken (h.tx[t]).st = true then trip s.env t (.cab y) h
              else conditionSeen s.env t rep.cond h
          | _ => conditionSeen s.env t rep.cond h) }
      (o.kind = .cool → Completes c s (compared told)) ∧
      (o.kind = .lower → Completes c s (compared (told.setTx t fun r => { r with out := some { o with
        no := none, sentAt := none, answered := false } }))) ∧
      (o.kind = .warm ∨ o.kind.isTune = true ∨ o.kind.isRaise = true → Completes c s (compared
        (if o.engine = true ∧ o.handBack = true then endAsg s.env t .failed .nothing told else told))) ∧
      (o.kind = .clearTrip → Completes c s
        (compared (if r.rcv.stage = .clearing then trip s.env t .clear told else told)))) ∧
    (∀ x, plain → (∀ o, r.out = some o → o.sentAt = none) → r.st = .raising ∨ r.st = .onAir → rep.cond = .tripped x →
      Completes c s { s with hall := trip s.env t (.cab x) stored }) ∧
    (∀ kw, plain → r.out = none → r.pend = none → r.st = .raising ∨ r.st = .onAir → condIsRad rep.cond = false →
      (∀ x, rep.cond ≠ .tripped x) → r.raiseKw = some kw → Completes c s
        { s with hall := (setTxState t .raising .condition stored).setTx t fun r =>
          { r with out := some { Order.mk0 (.raise kw) true false with again := true } } }) ∧
    (known → r.exch ≠ none → judged → r.contact = true → r.st ≠ .unreachable → r.st ≠ .absent → r.st ≠ .isLocal →
      r.st ≠ .lockout → rep.loc = true → ∃ h : Hall, Completes c s { s with hall := h } ∧ (h.tx[t]).st = .isLocal ∧
        (h.tx[t]).cond = some rep ∧ (h.tx[t]).out = none ∧ (h.tx[t]).pend = none ∧ (h.tx[t]).rcv = Recovery.idle) ∧
    (quiet → r.st = .unreachable → r.out = none →
      let met := stored.setTx t fun r => { r with contact := true, before := none }
      Completes c s { s with hall := derived (decide (r.before = some .raising ∨ r.before = some .onAir)) .contact met })

/-- A missed reply ends the exchange and counts; the third in a row loses the cabinet: UNREACHABLE, with the state before loss
kept for a transmitter in contact, its TX notice and its UNREACHABLE record. In LOCKOUT the state stays (the contact and the
last condition too: log 54), and in UNREACHABLE, as before the first reply, it is UNREACHABLE already: the notice and the
record alone. With no exchange: nothing (log 14). -/
def Obligations.MissedReply : Prop :=
  ∀ (t : Tx) (s : State),
    let r := s.hall.tx[t]
    let known := (s.tables.txs[t]).defined = true ∨ r.undef = true
    let kept : Option TxState := match r.st with
      | .absent | .unreachable | .isLocal | .lockout => none
      | x => some x
    (¬ (known ∧ r.exch ≠ none) → Completes (.missedReply t) s s) ∧
    (known → r.exch ≠ none → r.missed < 2 → Completes (.missedReply t) s
      { s with hall := s.hall.setTx t fun r => { r with missed := r.missed + 1, exch := none } }) ∧
    (known → r.exch ≠ none → r.missed = 2 → r.st ≠ .lockout → r.st ≠ .unreachable → Completes (.missedReply t) s
      (s.onHall fun e h => report e ⟨.unreachable, .tx t, none, none, none⟩
        (((h.setTx t fun r => { r with missed := 3, exch := none, st := .unreachable,
                                       before := if r.contact then kept else none }).setAdopt t
          fun a => { a with lost := true }).note (.tx t .unreachable r.st .loss)))) ∧
    (known → r.exch ≠ none → r.missed = 2 → r.st = .lockout ∨ r.st = .unreachable → Completes (.missedReply t) s
      (s.onHall fun e h => report e ⟨.unreachable, .tx t, none, none, none⟩
        (((h.setTx t fun r => { r with missed := 3, exch := none }).setAdopt t fun a => { a with lost := true }).note
          (.tx t r.st r.st .loss)))) ∧
    (known → r.exch ≠ none → 3 ≤ r.missed → ∃ h : Hall, Completes (.missedReply t) s { s with hall := h } ∧
      h.tx = (s.hall.setTx t fun r => { r with missed := 3, exch := none }).tx)

/-- The six order timeouts, for the outstanding order of their kind when its time has passed: the order ends, and
WARM-TIMEOUT, TUNE-TIMEOUT, RAISE-TIMEOUT, LOWER-TIMEOUT, WARM-TIMEOUT with COOL, or RAISE-TIMEOUT with CLEAR is recorded.
WARM: the state is re-derived, or COLD without a condition; TUNE: STANDBY; COOL: re-derived; in UNREACHABLE too (R136). RAISE:
TRIPPED and the trip taken. LOWER: the state kept, and the LOWER sent again when RFP is active at that instant (worked out
once: log 13; in LOCAL not: log 47). A failed clear in CLEARING is a trip. An engine's WARM or TUNE ends its assignment
FAILED. In LOCKOUT, LOCAL and ABSENT the state does not change, and in these and UNREACHABLE a RAISE's timeout hands a LOWER
and a failed clear is no trip (log 30). Otherwise nothing happens (log 2). -/
def Obligations.OrderTimeouts : Prop :=
  ∀ (t : Tx) (s : State),
    let r := s.hall.tx[t]
    let late (o : Order) (k : OrderKind → Prop) := r.out = some o ∧ k o.kind ∧
      ∃ x, o.since = some x ∧ x + o.timeout ≤ s.time.now
    let none' (k : OrderKind → Prop) := ∀ o, ¬ late o k
    let steady := r.st ≠ .lockout ∧ r.st ≠ .isLocal ∧ r.st ≠ .absent
    let ended : Hall := s.hall.setTx t fun r => { r with out := none }
    let told (k : FaultKind) (d : Option Detail) (h : Hall) : Hall := report s.env ⟨k, .tx t, none, none, d⟩ h
    let fails (o : Order) (h : Hall) : Hall :=
      if o.engine = true ∧ o.handBack = true then endAsg s.env t .failed .nothing h else h
    let isTune (k : OrderKind) : Prop := ∃ f m p, k = .tune f m p
    let isRaise (k : OrderKind) : Prop := ∃ kw, k = .raise kw
    (none' (fun k => k = .warm) → Completes (.warmTimeout t) s s) ∧
    (∀ o, late o (fun k => k = .warm) → steady → r.cond = none → Completes (.warmTimeout t) s
      { s with hall := fails o (told .warmTimeout none (setTxState t .cold .timeout ended)) }) ∧
    (∀ o, late o (fun k => k = .warm) → steady → r.cond ≠ none → Completes (.warmTimeout t) s
      { s with hall := fails o (told .warmTimeout none (rederive s.env t none .timeout ended)) }) ∧
    (∀ o, late o (fun k => k = .warm) → ¬ steady → Completes (.warmTimeout t) s
      { s with hall := fails o (told .warmTimeout none ended) }) ∧
    (none' isTune → Completes (.tuneTimeout t) s s) ∧
    (∀ o, late o isTune → steady → Completes (.tuneTimeout t) s
      { s with hall := fails o (told .tuneTimeout none (setTxState t .standby .timeout ended)) }) ∧
    (∀ o, late o isTune → ¬ steady → Completes (.tuneTimeout t) s { s with hall := fails o (told .tuneTimeout none ended) }) ∧
    (none' isRaise → Completes (.raiseTimeout t) s s) ∧
    (∀ o, late o isRaise → steady → r.st ≠ .unreachable → Completes (.raiseTimeout t) s
      { s with hall := trip s.env t .raiseTimeout (told .raiseTimeout none (setTxState t .tripped .trip ended)) }) ∧
    (∀ o, late o isRaise → ¬ steady ∨ r.st = .unreachable → Completes (.raiseTimeout t) s
      { s with hall := handLower s.env t true (told .raiseTimeout none ended) }) ∧
    (none' (fun k => k = .lower) → Completes (.lowerTimeout t) s s) ∧
    (∀ o, late o (fun k => k = .lower) → Completes (.lowerTimeout t) s
      { s with hall := (
          let h := told .lowerTimeout none (s.hall.setTx t fun r =>
            { r with out := none, resend := rfpActive s.env s.hall t && decide (r.st ≠ .isLocal) })
          if o.handBack = true then engineLowerTimeout s.env t h else h) }) ∧
    (none' (fun k => k = .cool) → Completes (.coolTimeout t) s s) ∧
    (∀ o, late o (fun k => k = .cool) → steady → Completes (.coolTimeout t) s
      { s with hall := told .warmTimeout (some .cool) (rederive s.env t none .timeout ended) }) ∧
    (∀ o, late o (fun k => k = .cool) → ¬ steady → Completes (.coolTimeout t) s
      { s with hall := told .warmTimeout (some .cool) ended }) ∧
    (none' (fun k => k = .clearTrip) → Completes (.clearTripTimeout t) s s) ∧
    (∀ o, late o (fun k => k = .clearTrip) → r.rcv.stage = .clearing → steady → r.st ≠ .unreachable →
      Completes (.clearTripTimeout t) s { s with hall := trip s.env t .clear (told .raiseTimeout (some .clear) ended) }) ∧
    (∀ o, late o (fun k => k = .clearTrip) → r.rcv.stage = .clearing → ¬ steady ∨ r.st = .unreachable →
      Completes (.clearTripTimeout t) s { s with hall := told .raiseTimeout (some .clear) ended }) ∧
    (∀ o, late o (fun k => k = .clearTrip) → r.rcv.stage ≠ .clearing → Completes (.clearTripTimeout t) s
      { s with hall := ended })

/-- No RAISE is sent for the first time at a slot of a transmitter whose switch permit is GRANTED, whose door is active, which a
DRAINING change freezes (but for the RAISE of a carrier lost, sent in RAISING), or while ESTOP is active. A pending order with
none outstanding: declined when its state does not list it (log 11; RAISING takes the RAISE of a lost carrier), kept while it is
a RAISE that is held, otherwise put to be sent; overtaken in LOCAL and ABSENT; in UNREACHABLE a LOWER alone is put to be sent,
and a LOWER that is neither listed nor wanted by RFP is dropped. An order handed (R140): overtaken in ABSENT and LOCAL, pending
in UNREACHABLE, declined in LOCKOUT and where its state does not list it, otherwise pending behind an outstanding order or while
held, else to be sent; a pending order is replaced, overtaken. A LOWER handed (R141): complete at once in COLD to READY with RFP
inactive; one in hand is not doubled; it waits behind WARM, COOL and CLEAR-TRIP, and overtakes RAISE and TUNE and a pending
RAISE. Overtaken, a TUNE or RAISE the engine asked for is wanted again. Permits: NONE goes to REQUESTED with the first holder,
either goes back to NONE without one, REQUESTED to GRANTED when the tests of R150 pass (log 44); GRANTED with the row in motion
stays; at rest it goes back to REQUESTED after a hot switch and for an active door. A GRANTED permit of a transmitter that
radiates is taken back before anything else: a hot switch with the row in motion, otherwise REQUESTED, with RF-UNEXPECTED detail
PERMIT but before adoption's judgement. A trip: TRIPPED, recovery STOPPING with the cause, a window entry (eight at most) unless
it is a door stop, a TRIP record but for RAISE-TIMEOUT and CLEAR, no RAISE in hand, LOWER in hand for a sense line, a RAISE
timeout or a door, and an assignment in RAISING, ON_AIR or TRIPPED is TRIPPED, its trips counted with their times. Too many
trips: LOCKOUT under a blocking record, recovery IDLE, nothing pending, the made output blocked too when every entry was by
reflection, the assignment ended LOCKED-OUT. A hot switch: LOCKOUT under a blocking record, LOWER in hand, recovery IDLE, the
row's moving crosspoints UNKNOWN, one that a BREAK in a slot finds recorded CLOSED too (log 29), and the positioners slewing
through it STALLED, their slots hot and awaited by none, the assignment ended LOCKED-OUT. -/
def Obligations.NoRaiseWhileHeld : Prop :=
  (∀ (e : Env) (t : Tx) (h : Hall) (o : Order), (h.tx[t]).out = none → (h.tx[t]).pend = some o → o.kind ≠ .lower →
    (h.tx[t]).st ≠ .absent → (h.tx[t]).st ≠ .isLocal → (h.tx[t]).st ≠ .unreachable →
    let dropped : Hall := h.setTx t fun r => { r with pend := none }
    let held := o.kind.isRaise = true ∧ raiseHeld e h t = true
    let listed := orderListed o.kind (h.tx[t]).st = true ∨ (o.again = true ∧ (h.tx[t]).st = .raising)
    (¬ listed → pendStep e t h = some (declineUnsent e t o dropped)) ∧
    (listed → held → pendStep e t h = none) ∧
    (listed → ¬ held →
      pendStep e t h = some (h.setTx t fun r => { r with out := some o, pend := none }))) ∧
  (∀ (e : Env) (t : Tx) (h : Hall) (o : Order), (h.tx[t]).out = none → (h.tx[t]).pend = some o →
    let x := (h.tx[t]).st
    let dropped : Hall := h.setTx t fun r => { r with pend := none }
    let sent : Hall := h.setTx t fun r => { r with out := some o, pend := none }
    (x = .absent ∨ x = .isLocal → pendStep e t h = some (overtaken t o dropped)) ∧
    (x = .unreachable → o.kind ≠ .lower → pendStep e t h = none) ∧
    (o.kind = .lower → x ≠ .absent → x ≠ .isLocal →
      pendStep e t h = some (if orderListed .lower x = true ∨ rfpActive e h t = true then sent else dropped))) ∧
  (∀ (t : Tx) (o : Order) (h : Hall),
    let put : Hall := h.setTx t fun r => { r with pend := some o }
    (o.engine = false ∨ o.handBack = false ∨ h.asg[t] = none → overtaken t o h = h) ∧
    (∀ a, o.engine = true → o.handBack = true → h.asg[t] = some a → overtaken t o h = h.setAsg t (some (match o.kind with
      | .tune _ _ _ => if a.tune = .asked then { a with tune := .wanted } else a
      | .raise _ => if a.raise ≠ .asked then a else if a.phase = .onAir then { a with raise := .done, power := true }
          else { a with raise := .wanted }
      | _ => a))) ∧
    ((h.tx[t]).pend = none → makePending t o h = put) ∧
    ∀ w, (h.tx[t]).pend = some w → makePending t o h = (overtaken t w h).setTx t fun r => { r with pend := some o }) ∧
  (∀ (e : Env) (t : Tx) (h : Hall) (k : OrderKind),
    let r := h.tx[t]
    let o := Order.mk0 k true false
    let told := report e ⟨.orderDeclined, .tx t, none, none, some (.declined k .state (some r.st))⟩ h
    let cut := r.st = .absent ∨ r.st = .isLocal ∨ r.st = .unreachable
    let held := r.out ≠ none ∨ (k.isRaise = true ∧ raiseHeld e h t = true)
    (r.st = .absent ∨ r.st = .isLocal → handOrder e t k h = overtaken t o h) ∧
    (r.st = .unreachable → handOrder e t k h = makePending t o h) ∧
    (r.st = .lockout ∨ (¬ cut ∧ orderListed k r.st = false) →
      (k = .warm ∨ k.isTune = true ∨ k.isRaise = true → handOrder e t k h = endAsg e t .failed .nothing told) ∧
      (k = .cool → handOrder e t k h = told)) ∧
    (r.st ≠ .lockout → ¬ cut → orderListed k r.st = true →
      (held → handOrder e t k h = makePending t o h) ∧
      (¬ held → handOrder e t k h = h.setTx t fun r => { r with out := some o }))) ∧
  (∀ (e : Env) (t : Tx) (byTrip : Bool) (h : Hall),
    let r := h.tx[t]
    let low := Order.mk0 .lower false byTrip
    let known := (e.k.txs[t]).defined = true ∨ r.undef = true
    let down := r.st = .cold ∨ r.st = .warming ∨ r.st = .standby ∨ r.st = .tuning ∨ r.st = .ready
    let goes := known ∧ r.st ≠ .absent ∧ r.st ≠ .isLocal ∧ (down → rfpActive e h t = true)
    let mark (o : Order) : Order := if o.kind = .lower ∧ o.sentAt = none then { o with byTrip := true } else o
    let taken (x : Option Order) (g : Hall) : Hall := (x.map fun o => overtaken t o g).getD g
    (¬ goes → handLower e t byTrip h = h) ∧
    (goes → r.lowerInHand = true →
      handLower e t byTrip h = if byTrip = true then h.setTx t fun r => { r with out := r.out.map mark, pend := r.pend.map mark }
        else h) ∧
    (∀ o, goes → r.lowerInHand = false → r.out = some o → o.kind.isRaise = false → o.kind.isTune = false →
      handLower e t byTrip h = makePending t low h) ∧
    (goes → r.lowerInHand = false → (∀ o, r.out = some o → o.kind.isRaise = true ∨ o.kind.isTune = true) →
      handLower e t byTrip h = (taken (r.pend.filter fun o => o.kind.isRaise) (taken r.out h)).setTx t fun r =>
        { r with out := some low, pend := r.pend.filter fun o => !o.kind.isRaise })) ∧
  (∀ (e : Env) (t : Tx) (h : Hall),
    let r := h.tx[t]
    let holder := ∃ u : Tx, t ∈ (h.path.seqs[u]).wants
    let goes (p : Permit) := permitStep e t h = some (h.setTx t fun r => { r with permit := p, permitHot := false })
    let lostRad := r.st = .unreachable ∧ ∃ x, r.before = some x ∧ isRad x = true
    let condRad := ∃ c, r.cond = some c ∧ condIsRad c.cond = true
    let test := isRad r.st = false ∧ r.lowerInHand = false ∧ ¬ lostRad ∧ (r.st = .isLocal ∨ r.st = .lockout → ¬ condRad) ∧
      rfpActive e h t = false ∧ doorActive e h t = false
    (r.permit = .none → (holder → goes .requested) ∧ (¬ holder → permitStep e t h = none)) ∧
    (r.permit = .requested → (¬ holder → goes .none) ∧ (holder → test → goes .granted) ∧
      (holder → ¬ test → permitStep e t h = none)) ∧
    (r.permit = .granted → isRad r.st = true →
      takeBackStep e t h = some (if rowMotion h t = true then hotSwitch e t false h else
        let taken : Hall := h.setTx t fun r => { r with permit := .requested, permitHot := false }
        if unjudged h t = true then taken
        else report e ⟨.rfUnexpected, .tx t, none, none, some .permit⟩ taken) ∧
      ∃ u k, u ≤ t ∧ takeBackStep e u h = some k ∧ nextRule e h = some k) ∧
    (r.permit ≠ .granted ∨ isRad r.st = false → takeBackStep e t h = none) ∧
    (r.permit = .granted → rowMotion h t = true → permitStep e t h = none) ∧
    (r.permit = .granted → rowMotion h t = false →
      (¬ holder → goes .none) ∧ (holder → r.permitHot = true → goes .requested) ∧
      (holder → r.permitHot = false → doorActive e h t = true → goes .requested) ∧
      (holder → r.permitHot = false → doorActive e h t = false → permitStep e t h = none))) ∧
  (∀ (e : Env) (t : Tx) (h : Hall) (c : TripCause),
    let g := trip e t c h
    let lowers := c = .senseRefl ∨ c = .senseArc ∨ c = .raiseTimeout ∨ c = .door
    (g.tx[t]).st = .tripped ∧ (g.tx[t]).rcv = ⟨.stopping, some c, c.isRefl, none, false, false, false⟩ ∧
    (g.tx[t]).inHand OrderKind.isRaise = false ∧ (lowers → txDefined e.k h t = true → (g.tx[t]).lowerInHand = true) ∧
    (c = .door → (g.tx[t]).window = (h.tx[t]).window) ∧
    (c ≠ .door → (g.tx[t]).window =
      (h.tx[t]).window.drop ((h.tx[t]).window.length + 1 - 8) ++ [⟨e.now, e.sec, c, c.isRefl⟩]) ∧
    (c ≠ .raiseTimeout → c ≠ .clear → h.faults.recs.length < 48 →
      ∃ x ∈ g.faults.recs, x.kind = .trip ∧ x.src = .tx t ∧ x.detail = some (.trip c)) ∧
    ∀ a, h.asg[t] = some a → ∃ b, g.asg[t] = some b ∧
      let taken := a.phase = .raising ∨ a.phase = .onAir ∨ a.phase = .tripped
      let window := (h.tx[t]).window
      let left := (window.take (window.length + 1 - 8)).foldl (fun l x => l.erase x.clock) a.tripTimes
      b.tripTimes = (if c = .door then a.tripTimes else if taken then left ++ [e.sec] else left) ∧
      (taken → b.phase = .tripped ∧ b.trips = if c = .door then a.trips else min 65535 (a.trips + 1)) ∧
      (¬ taken → b.phase = a.phase ∧ b.trips = a.trips)) ∧
  (∀ (e : Env) (t : Tx) (h : Hall), h.faults.recs.length < 47 → (h.faults.recs.map FaultRec.seq).Nodup →
    let g := lockoutTrips e t h
    (g.tx[t]).st = .lockout ∧ (g.tx[t]).rcv = Recovery.idle ∧ (g.tx[t]).pend = none ∧
    (g.tx[t]).window = (h.tx[t]).window ∧ blocked g (.tx t) = true ∧
    (∀ o, madeOut h t = some o → (∀ x ∈ (h.tx[t]).window, x.refl = true) → blocked g (.out o) = true) ∧
    (∀ a, h.asg[t] = some a → a.phase.isEnding = false → g.asg[t] = none ∨
      ∃ b, g.asg[t] = some b ∧ b.phase = .ending .lockedOut .nothing)) ∧
  (∀ (e : Env) (t : Tx) (h : Hall) (contact : Bool), h.faults.recs.length < 48 →
    (h.faults.recs.map FaultRec.seq).Nodup →
    let g := hotSwitch e t contact h
    (g.tx[t]).st = .lockout ∧ (g.tx[t]).rcv = Recovery.idle ∧ (g.tx[t]).window = (h.tx[t]).window ∧
    (txDefined e.k h t = true → (g.tx[t]).lowerInHand = true) ∧ blocked g (.tx t) = true ∧
    (∀ (i : Fin 4) (x : Slot), h.path.slots[i] = some x → x.hot = false →
      let hot := g.path.slots[i] = some { x with hot := true, motion := { x.motion with waiters := [] } }
      (∀ o, x.motion.kind = .make t o ∨ x.motion.kind = .brk t o → xst g t o = .unknown ∧ hot) ∧
      ∀ o n p, x.motion.kind = .slew o n → feeder h o = some t → h.path.pos[o] = some p →
        hot ∧ ∃ q, g.path.pos[o] = some q ∧ q.st = .stalled) ∧
    (∀ a, h.asg[t] = some a → a.phase.isEnding = false → g.asg[t] = none ∨
      ∃ b, g.asg[t] = some b ∧ b.phase = .ending .lockedOut .nothing)) ∧
  ∀ (t : Tx) (e : Env) (h : Hall) (kw no : Nat) (at_ : Ms), (h.tx[t]).exch = none →
    (∀ o, (h.tx[t]).out = some o → o.sentAt = none) →
    let g := cabinetSlot t e h
    (g.tx[t]).exch = some ⟨.order (.raise kw) no, at_⟩ →
    (g.tx[t]).permit ≠ .granted ∧ doorActive e g t = false ∧ estopActive e g = false ∧
      (frozen h t = true → (h.tx[t]).st = .raising)

/-! ### Sense lines and recovery -/

/-- A raw level equal to the present one: nothing. A change starts the timer on the new level (before a first qualification too:
log 46), or stops it when that is the qualified level. A qualification that is not due: nothing (log 2). When it is due the
level is qualified, and a change of an unmasked line's meaning acts: RFP active takes a GRANTED permit back, is expected while
the transmitter radiates or lowers or is still to be judged, and otherwise is RF-UNEXPECTED; RFP inactive stops the re-sending
of LOWER; DOOR and ESTOP send their notice (before the notices of their effects: log 41), DOOR active trips a RAISING or ON_AIR
transmitter, ESTOP active hands LOWER for every RAISING or ON_AIR transmitter, takes every assignment but one in PREPARING,
MUTED or ENDING to MUTED (a FOREIGN one ends ABORTED) and starts plan 0 with tag 0 unless plan 0 runs (R192; what its start
does: Obligations.PlansAndDirectives); an edge of REFL or ARC in an edge mode, and active in a level mode, trips. A masked line,
one whose meaning does not change, and an ESTOP first qualified inactive, only store the level. -/
def Obligations.SenseEvents : Prop :=
  (∀ (e : Env) (h : Hall), ∃ muted : Hall,
    estopOn e h = (if ∃ r, h.running = some r ∧ r.plan = 0 then muted else startPlan0 e 0 muted) ∧
    muted.running = h.running ∧
    (∀ u : Tx, (h.tx[u]).st = .raising ∨ (h.tx[u]).st = .onAir → txDefined e.k h u = true →
      (muted.tx[u]).lowerInHand = true) ∧
    ∀ (u : Tx) (a : Asg), h.asg[u] = some a →
      let mutes := a.phase = .waiting ∨ a.phase = .raising ∨ a.phase = .onAir ∨ a.phase = .tripped ∨ a.phase = .reworking
      (mutes → a.sched ≠ none → ∃ b, muted.asg[u] = some b ∧ b.phase = .muted ∧ b.sched = a.sched ∧ b.eff = a.eff) ∧
      (mutes → a.sched = none → muted.asg[u] = none ∨ ∃ b, muted.asg[u] = some b ∧ b.phase = .ending .aborted .nothing) ∧
      (¬ mutes → ∃ b, muted.asg[u] = some b ∧ b.phase = a.phase ∧ b.sched = a.sched ∧ b.eff = a.eff)) ∧
  ∀ (l : SenseLine) (high : Bool) (s : State),
    let v := s.hall.line l
    let c := s.tables.sense[senseIx l]
    (v.raw = high → Completes (.senseRawChange l high) s s) ∧
    (v.raw ≠ high → Completes (.senseRawChange l high) s { s with hall := s.hall.setSense l fun v =>
      { v with raw := high, timer := if v.qual = some high then none else some (high, s.time.now + c.qual) } }) ∧
    ((∀ b x, v.timer = some (b, x) → s.time.now < x) → Completes (.qualificationTimerExpiry l) s s) ∧
    (∀ new x, v.timer = some (new, x) → x ≤ s.time.now →
      let q : Instr := .qualificationTimerExpiry l
      let seen : Hall := s.hall.setSense l fun v => { v with qual := some new, timer := none }
      let is := lineActive c.mode (some new)
      let was := lineActive c.mode v.qual
      let radiates (t : Tx) := (s.hall.tx[t]).st = .raising ∨ (s.hall.tx[t]).st = .onAir
      let judged (t : Tx) := s.hall.mode = .adopting → (s.hall.adopt[t]).judged = true
      (l ≠ .pulse → is = was → edgeSeen c.mode v.qual new = false → Completes q s { s with hall := seen }) ∧
      (∀ t, l = .rfp t → is ≠ was → is = some true → c.mask = false → Completes q s
        { s with hall := (
            if (s.hall.tx[t]).permit = .granted then takeBackPermit s.env t seen
            else if isRad (s.hall.tx[t]).st || (s.hall.tx[t]).lowerInHand || unjudged s.hall t then seen
            else report s.env ⟨.rfUnexpected, .tx t, none, none, some .sense⟩ seen) }) ∧
      (∀ t, l = .rfp t → is ≠ was → is = some false → c.mask = false → Completes q s
        { s with hall := seen.setTx t fun r => { r with resend := false } }) ∧
      (∀ t a, l = .door t → is ≠ was → is = some a → Completes q s
        { s with hall := (
            let told := seen.note (.sense (.door t) a c.mask)
            if a = true ∧ c.mask = false ∧ radiates t then trip s.env t .door told else told) }) ∧
      (l = .estop → is ≠ was → is = some true → c.mask = false → Completes q s
        { s with hall := estopOn s.env (seen.note (.sense .estop true false)) }) ∧
      (l = .estop → was = some true → is = some false → Completes q s
        { s with hall := seen.note (.sense .estop false c.mask) }) ∧
      (l = .estop → was = none → is = some false → Completes q s { s with hall := seen }) ∧
      (∀ t, l = .refl t ∨ l = .arc t →
        edgeSeen c.mode v.qual new = true ∨ (is ≠ was ∧ is = some true) → c.mask = false →
        (radiates t → judged t → Completes q s
          { s with hall := trip s.env t (if l = .refl t then .senseRefl else .senseArc) seen }) ∧
        (¬ (radiates t ∧ judged t) → Completes q s { s with hall := seen })) ∧
      (∀ t, l = .refl t ∨ l = .arc t → is = some false → Completes q s { s with hall := seen }) ∧
      (l = .pulse → c.mode = .edgeRise → ¬ (v.qual = some false ∧ new = true) → Completes q s { s with hall := seen }) ∧
      (c.mask = true → l ≠ .pulse → (∀ t, l ≠ .door t) → l ≠ .estop → Completes q s { s with hall := seen }))

/-- SENSE-SET: RANGE for a mode the line does not allow, a qualification time outside 1 to 250, a mask on RFP or ESTOP, or any
field of PULSE. Otherwise the line takes the values given; the present level then counts under the new meaning: a change of
what an unmasked line says acts as the line itself does, and DOOR sends its notice (the notice first: log 41). An edge mode,
before or after, gives no such change (log 31). SENSE-STATUS of a line or of a position answers the records, an unqualified
REFL or ARC line in a level mode as not active (log 15). -/
def Obligations.SenseRequests : Prop :=
  ∀ (tag : Nat) (l : SenseLine) (mode : Option (Option SenseMode)) (mask : Option Bool) (qual : Option Nat) (s : State),
    s.takes tag →
    let c : Instr := .senseSet tag (some l) mode mask qual
    let old := s.tables.sense[senseIx l]
    let new : SenseCfg := { mode := (mode.bind id).getD old.mode, mask := mask.getD old.mask, qual := qual.getD old.qual }
    let levels := (∃ t, l = .rfp t) ∨ (∃ t, l = .door t) ∨ l = .estop
    let good := mode ≠ some none ∧ (∀ x, qual = some x → 1 ≤ x ∧ x ≤ 250) ∧
      (levels → ∀ m, mode = some (some m) → m = .levelHigh ∨ m = .levelLow) ∧
      ((∃ t, l = .rfp t) ∨ l = .estop → mask ≠ some true) ∧ (l = .pulse → mode = none ∧ mask = none ∧ qual = none)
    let edited : State := { s with tables := { s.tables with sense := upd s.tables.sense (senseIx l) fun _ => new } }
    let was := lineActive old.mode (s.hall.line l).qual
    let is := lineActive new.mode (s.hall.line l).qual
    let view (l : SenseLine) : SenseView :=
      let c := s.tables.sense[senseIx l]
      let q := (s.hall.line l).qual
      { line := l, cfg := c, qual := q, raw := (s.hall.line l).raw,
        active := if c.mode = .levelHigh ∨ c.mode = .levelLow then
          match l with
          | .rfp t => some (rfpActive s.env s.hall t)
          | .door t => some (doorActive s.env s.hall t)
          | .estop => some (estopActive s.env s.hall)
          | _ => some ((lineActive c.mode q).getD false)
        else none }
    (¬ good → Answers c s tag .senseSet .range .nothing) ∧
    (good → was = none ∨ is = none → TakenOk c s edited tag .senseSet) ∧
    (∀ a b, good → was = some a → is = some b → (∀ t, l ≠ .door t) →
      (a = b → TakenOk c s edited tag .senseSet) ∧
      (a ≠ b → new.mask = true → l ≠ .estop → TakenOk c s edited tag .senseSet) ∧
      (a ≠ b → l ≠ .estop → new.mask = false →
        TakenOk c s (edited.onHall fun e h => lineLevel e l b false h) tag .senseSet) ∧
      (a ≠ b → l = .estop → new.mask = false →
        TakenOk c s (edited.onHall fun e h => lineLevel e l b false (h.note (.sense l b false))) tag .senseSet)) ∧
    (∀ t a b, good → l = .door t → was = some a → is = some b →
      let counted := a && !old.mask
      let counts := b && !new.mask
      (counted ≠ counts → TakenOk c s
        (edited.onHall fun e h => lineLevel e l counts false (h.note (.sense l counts new.mask))) tag .senseSet) ∧
      (counted = counts → a ≠ b → TakenOk c s (edited.onHall fun _ h => h.note (.sense l b new.mask)) tag .senseSet) ∧
      (counted = counts → a = b → TakenOk c s edited tag .senseSet)) ∧
    Answers (.senseStatus tag (some (.line l))) s tag .senseStatus .ok (.sense [view l]) ∧
    ∀ t, Answers (.senseStatus tag (some (.position t))) s tag .senseStatus .ok
      (.sense [view (.rfp t), view (.refl t), view (.arc t), view (.door t)])

/-- RECOVERY-SET: RANGE, or the settings given replaced, windows shortened at once and the power of each folded-back assignment
worked out again. A trip window's entries leave when their age reaches the setting, each with its trip time in the assignment,
and nothing else of any transmitter changes; an emptied window takes the times of all its entries. The recovery delay's expiry
ends the delay; then, in contact, more trips in the window than retries is a lockout, RFP active waits for RFP, and otherwise
the engine is asked. The request waits while a frozen assignment is TRIPPED, and is refused at once when there is none TRIPPED:
recovery IDLE, and CLEAR-TRIP for a TRIPPED transmitter. One that the Frequency Check refuses ends the assignment, and is
refused when that end completes. One refused because the stop instant has passed, with the assignment still TRIPPED, owes that
CLEAR-TRIP until it is not. Granted, after a trip by reflection the fold-back flag is set and the power worked out again, of a
FOREIGN one too under a POWER hold that stands (log 25); the check is made for a SCHEDULE one (R85), and RAISE is handed:
pending behind a CLEAR-TRIP in TRIPPED, CLEARING; at once in READY, RETRYING; declined elsewhere. CLEARING goes to RETRYING once
no CLEAR-TRIP is in hand and a RAISE is, and both go to IDLE with neither in hand; STOPPING to WAITING once the carrier is down
(log 50). A delay that has not passed does nothing (log 2). Going to LOCAL sets the recovery IDLE. The power of a TRIPPED
assignment changed: a retry RAISE handed and not sent takes the new one, after the Frequency Check (for a FOREIGN assignment,
after a hold change), whose refusal is recorded and ends the assignment FAILED, or ABORTED when FOREIGN. -/
def Obligations.RecoverySettingsAndTimes : Prop :=
  (∀ (tag : Nat) (delay retries window foldback : Option Nat) (s : State), s.takes tag →
    let c : Instr := .recoverySet tag delay retries window foldback
    let good := (∀ x, delay = some x → 2 ≤ x ∧ x ≤ 120) ∧ (∀ x, retries = some x → x ≤ 7) ∧
      (∀ x, window = some x → 1 ≤ x ∧ x ≤ 60) ∧ (∀ x, foldback = some x → 50 ≤ x ∧ x ≤ 100)
    let rcv := s.tables.rcv
    (¬ good → Answers c s tag .recoverySet .range .nothing) ∧
    (good → TakenOk c s ({ s with tables := { s.tables with rcv :=
        { delay := delay.getD rcv.delay, retries := retries.getD rcv.retries, window := window.getD rcv.window,
          foldback := foldback.getD rcv.foldback } } }.onHall fun e h =>
      recomputeFold e (h.each allTx fun u h => expireWindow e u h)) tag .recoverySet)) ∧
  (∀ (e : Env) (t : Tx) (h : Hall),
    let old (w : TripEntry) : Bool := decide (w.at_ + e.k.rcv.window * 60000 ≤ e.now)
    let leave (l : List TripEntry) : Hall := h.setAsg t ((h.asg[t]).map fun a =>
      { a with tripTimes := l.foldl (fun l w => l.erase w.clock) a.tripTimes })
    (expireWindow e t h = (leave ((h.tx[t]).window.filter old)).setTx t fun r =>
      { r with window := r.window.filter fun w => !old w }) ∧
    (emptyWindow t h = (leave (h.tx[t]).window).setTx t fun r => { r with window := [] }) ∧
    recomputeFold e h = h.each allTx fun u g =>
      if (g.asg[u]).any (fun a => a.fold) = true then recompute e u false false g else g) ∧
  (∀ (t : Tx) (s : State),
    Completes (.tripWindowEntryExpiry t) s { s with hall := expireWindow s.env t s.hall } ∧
    (∃ h : Hall, Completes (.tripWindowEntryExpiry t) s { s with hall := h } ∧
      (h.tx[t]).window = (s.hall.tx[t]).window.filter (fun w => decide (s.time.now < w.at_ + s.tables.rcv.window * 60000)) ∧
      (∀ u : Tx, u ≠ t → h.tx[u] = s.hall.tx[u]) ∧ { h.tx[t] with window := [] } = { s.hall.tx[t] with window := [] }) ∧
    (let r := (s.hall.tx[t]).rcv
     (∀ x, r.stage = .waiting → r.expiry = some x → x ≤ s.time.now → Completes (.recoveryDelayExpiry t) s
       { s with hall := s.hall.setTx t fun r => { r with rcv := { r.rcv with expiry := none } } }) ∧
     (¬ (r.stage = .waiting ∧ ∃ x, r.expiry = some x ∧ x ≤ s.time.now) → Completes (.recoveryDelayExpiry t) s s))) ∧
  (∀ (e : Env) (t : Tx) (viaHold : Bool) (a : Asg) (h : Hall),
    let r := h.tx[t]
    let unsent (o : Order) : Bool := o.kind.isRaise && o.sentAt.isNone && o.engine
    let stale := ∃ o, (r.out = some o ∨ r.pend = some o) ∧ unsent o = true ∧ o.kind ≠ .raise a.eff.power
    let asked := a.sched ≠ none ∨ viaHold = true
    let answer := checkParams e.k h t a.eff
    let anew (o : Order) : Order := if unsent o = true then { o with kind := .raise a.eff.power } else o
    (¬ stale → repowerRetry e t viaHold a h = h) ∧
    (stale → ¬ asked ∨ answer = .permitted → repowerRetry e t viaHold a h =
      h.setTx t fun r => { r with out := r.out.map anew, pend := r.pend.map anew }) ∧
    (stale → asked → answer ≠ .permitted → h.asg[t] = some a → repowerRetry e t viaHold a h =
      match a.sched with
      | some x => endAsg e t .failed .nothing (report e
          ⟨.excludedAtAdmission, .schedule, some x.occ, some a.eff.freq, some (.excluded .raise answer)⟩ h)
      | none => endAsg e t .aborted .nothing (report e
          ⟨.foreignCarrier, .tx t, none, some a.eff.freq, some (.foreign .excluded (some answer))⟩ h))) ∧
  (∀ (t : Tx) (e : Env) (h : Hall), (h.tx[t]).rcv.stage = .waiting → (h.tx[t]).rcv.expiry = none →
    (h.tx[t]).st ≠ .unreachable → (h.tx[t]).rcv.rfpWait = false →
    (e.k.rcv.retries < (h.tx[t]).window.length → recoveryStep e t h = some (lockoutTrips e t h)) ∧
    ((h.tx[t]).window.length ≤ e.k.rcv.retries → rfpActive e h t = true →
      recoveryStep e t h = some (h.setTx t fun r => { r with rcv := { r.rcv with rfpWait := true } })) ∧
    ((h.tx[t]).window.length ≤ e.k.rcv.retries → rfpActive e h t = false →
      recoveryStep e t h = some (h.setTx t fun r => { r with rcv := { r.rcv with stage := .asking, rfpWait := false } }))) ∧
  (∀ (t : Tx) (e : Env) (h : Hall) (a : Asg), h.asg[t] = some a → a.phase = .tripped →
    let r := h.tx[t]
    let past := ∃ x, a.sched = some x ∧ x.stop ≤ e.min
    let b : Asg := if r.rcv.refl = true then { a with fold := true, eff := { a.eff with
      power := (currentEff e.k h t { a with fold := true }).power } } else a
    let answer := if a.sched.isSome = true then checkParams e.k h t b.eff else .permitted
    let raise := Order.mk0 (.raise b.eff.power) true false
    let put : Hall := h.setAsg t (some { b with raise := .asked })
    let goes (x : RecStage) (g : Hall) : Hall := g.setTx t fun r => { r with rcv := { r.rcv with stage := x } }
    (past → askRetry e t h = h.setTx t fun r => { r with rcv := { Recovery.idle with owed := true } }) ∧
    (¬ past → answer = .permitted →
      (r.st = .tripped → askRetry e t h = goes .clearing (makePending t raise (handClear e t put))) ∧
      (r.st = .ready → askRetry e t h = handOrder e t (.raise b.eff.power) (goes .retrying put)) ∧
      (r.st ≠ .tripped → r.st ≠ .ready → askRetry e t h =
        (declineUnsent e t raise put).setTx t fun r => { r with rcv := Recovery.idle })) ∧
    (¬ past → answer ≠ .permitted → askRetry e t h =
      (refuseAsg e t .raise answer (h.setAsg t (some b))).setTx t fun r => { r with rcv := { r.rcv with failing := true } })) ∧
  (∀ (t : Tx) (e : Env) (h : Hall),
    let r := h.tx[t]
    let inHand (k : OrderKind → Prop) := (∃ o, r.out = some o ∧ k o.kind) ∨ ∃ o, r.pend = some o ∧ k o.kind
    let raise := inHand fun k => ∃ kw, k = .raise kw
    let goes (x : Recovery) := recoveryStep e t h = some (h.setTx t fun r => { r with rcv := x })
    (r.rcv.stage = .stopping →
      (carrierDown r = true → goes
        { r.rcv with stage := .waiting, expiry := some (e.now + e.k.rcv.delay * 1000), rfpWait := false }) ∧
      (carrierDown r = false → recoveryStep e t h = none)) ∧
    (r.rcv.stage = .clearing →
      (inHand (fun k => k = .clearTrip) → recoveryStep e t h = none) ∧
      (¬ inHand (fun k => k = .clearTrip) →
        (raise → goes { r.rcv with stage := .retrying }) ∧ (¬ raise → goes Recovery.idle))) ∧
    (r.rcv.stage = .retrying → (raise → recoveryStep e t h = none) ∧ (¬ raise → goes Recovery.idle))) ∧
  ∀ (t : Tx) (e : Env) (h : Hall),
    let tripped := ∃ a, h.asg[t] = some a ∧ a.phase = .tripped
    let idle : Hall := h.setTx t fun r => { r with rcv := Recovery.idle }
    ((h.tx[t]).rcv.stage = .idle →
      ((h.tx[t]).rcv.owed = true → ¬ tripped →
        recoveryStep e t h = some (if (h.tx[t]).st = .tripped then handClear e t idle else idle)) ∧
      ((h.tx[t]).rcv.owed = false ∨ tripped → recoveryStep e t h = none)) ∧
    ((h.tx[t]).rcv.stage = .asking →
      let failing := (h.tx[t]).rcv.failing
      let ending := ∃ a, h.asg[t] = some a ∧ a.phase.isEnding = true
      let refused : Hall := if (h.tx[t]).st = .tripped then handClear e t idle else idle
      (failing = true → ending → recoveryStep e t h = none) ∧
      (failing = true → ¬ ending → recoveryStep e t h = some refused) ∧
      (failing = false → frozen h t = true → tripped → recoveryStep e t h = none) ∧
      (failing = false → frozen h t = false → tripped → recoveryStep e t h = some (askRetry e t h)) ∧
      (failing = false → ¬ tripped → recoveryStep e t h = some refused)) ∧
    ∀ c, (h.tx[t]).st ≠ .isLocal → ((setTxState t .isLocal c h).tx[t]).rcv = Recovery.idle

/-! ### Holds, plans, directives -/

/-- HOLD-SET: RANGE for a value outside R176 (an output or a mode outside its list, a preset above 15, a frequency outside 2300
to 26100, a power outside 1 to 1000); then the first of R177's checks that fails; a set that passes enables the aspect
with its value and touches no other transmitter's record, and sets one of the same value again without effect. HOLD-CLEAR
disables the aspect alone, and does nothing when it is disabled. HOLD-STATUS reads one transmitter's record, or all twelve.
What setting an aspect does: an output that loses its reservation, FREE or PARKED, owes an allocation run; the HOLD notice;
for OUTPUT, a SCHEDULE assignment of another transmitter that claims the output and is not ENDING goes to ENDING, to be pushed
RESERVED-BY-HOLD, and those of other transmitters that await it are taken off to the deferral list; OUTPUT and FREQUENCY end a
FOREIGN assignment ABORTED; the effective parameters are worked out again, those of a FOREIGN assignment after POWER alone
(R211; log 25); OUTPUT owes an allocation run. Clearing: the lost reservation, the notice, the parameters, the run. Worked out
again: nothing changes without an assignment, for one ENDING, or with none different; an output that is not the assignment's,
its own claim, FREE or PARKED and unreserved, or after a set still claimed by an ending assignment and unreserved (then it is
awaited), takes it off, PREEMPTED, to the deferral list; otherwise the parameters are taken as R62 gives
(Obligations.QuiesceResume). -/
def Obligations.HoldRequests : Prop :=
  (∀ form : HoldForm,
    (holdOf form = none ↔ match form with
      | .inhibit => False
      | .output o p => o = none ∨ ∃ n, p = some n ∧ 15 < n
      | .frequency f m => m = none ∨ ¬ (2300 ≤ f ∧ f ≤ 26100)
      | .power kw => ¬ (1 ≤ kw ∧ kw ≤ 1000)) ∧
    ∀ v, holdOf form = some v → form = match v with
      | .inhibit => .inhibit
      | .output o p => .output (some o) p
      | .frequency f m => .frequency f (some m)
      | .power kw => .power kw) ∧
  (∀ (e : Env) (t : Tx) (v : HoldValue) (c : HoldCause) (h : Hall),
    let d := h.holds[t]
    let put : Hall := h.setHold t fun d => d.put v
    let out (u : Tx) (o : Out) (g : Hall) : Hall :=
      endAsg e u .preempted (.defer (if outState g o = .faulted then .outputBlocked else .outputBusy)) g
    let lost (w : Out) (g : Hall) : Hall := if outState g w = .free ∨ outState g w = .parked then { g with alloc := true } else g
    let anew (a : Aspect) (mayAwait : Bool) (g : Hall) : Hall :=
      if a ≠ .power ∧ (g.asg[t]).any (fun b => b.sched.isNone) = true then g else recompute e t true mayAwait g
    let worked (g : Hall) : Hall := anew v.aspect true
      (if (g.asg[t]).any (fun a => a.sched.isNone) ∧ (v.aspect = .output ∨ v.aspect = .frequency)
        then endAsg e t .aborted .nothing g else g)
    (d.get v.aspect = some v → setHold e t v c h = h) ∧
    (d.get v.aspect ≠ some v → v.aspect ≠ .output → setHold e t v c h = worked (put.note (.hold t v.aspect (some v) c))) ∧
    (∀ o p, v = .output o p → d.get .output ≠ some v →
      let noted : Hall := (match d.output with
        | some w => if w.1 = o then put else lost w.1 put
        | none => put).note (.hold t .output (some v) c)
      ∃ displaced : Hall, setHold e t v c h = { worked (displaced.each allTx fun u g =>
          if u ≠ t ∧ (g.asg[u]).any (fun a => a.awaits.any fun w => decide (w.1 = o)) then out u o g else g) with alloc := true } ∧
        (∀ u b, h.path.owner[o] = some u → u ≠ t → h.asg[u] = some b → b.sched ≠ none → b.phase.isEnding = false →
          displaced = endAsg e u .preempted (.push .reservedByHold) noted) ∧
        ((∀ u b, h.path.owner[o] = some u → u ≠ t → h.asg[u] = some b → b.sched = none ∨ b.phase.isEnding = true) →
          displaced = noted)) ∧
    (∀ a, d.get a = none → clearHold e t a c h = h) ∧
    (∀ a, d.get a ≠ none →
      let dropped : Hall := h.setHold t fun d => d.drop a
      clearHold e t a c h = { anew a false ((match a, d.output with
        | .output, some w => lost w.1 dropped
        | _, _ => dropped).note (.hold t a none c)) with alloc := true }) ∧
    ∀ (viaHold mayAwait : Bool) (a : Asg), h.asg[t] = some a →
      let new := currentEff e.k h t a
      let o := new.out
      let g := recompute e t viaHold mayAwait h
      let free := (outState h o = .free ∨ outState h o = .parked) ∧ ∀ u, reserver h o = some u → u = t
      let mine := h.path.owner[o] = some t ∧ outState h o ≠ .faulted ∧ ∀ u, reserver h o = some u → u = t
      let ending (u : Tx) := h.path.owner[o] = some u ∧ u ≠ t ∧ (∃ b, h.asg[u] = some b ∧ b.phase.isEnding = true) ∧
        ∀ w, reserver h o = some w → w = t
      (a.sched ≠ none → new = effective e.k (h.holds[t]) a.base a.fold) ∧
      (a.phase.isEnding = true ∨ new = a.eff → g = h) ∧
      (a.phase.isEnding = false → new ≠ a.eff →
        (o ≠ a.eff.out → ¬ mine → ¬ free → ¬ (mayAwait = true ∧ ∃ u, ending u) →
          g = out t o (h.mapAsg t fun a => { a with eff := new })) ∧
        (∀ w, (o = a.eff.out ∧ w = a.awaits) ∨ (o ≠ a.eff.out ∧ (mine ∨ free) ∧ w = none) ∨
            (∃ u, o ≠ a.eff.out ∧ ¬ mine ∧ ¬ free ∧ mayAwait = true ∧ ending u ∧ w = some (o, u)) →
          let b : Asg := { rework viaHold new a with awaits := w }
          ∃ k : Hall, k.asg[t] = some b ∧ (free → k.path.owner[o] = some t) ∧ k.holds = h.holds ∧ k.tx = h.tx ∧
            (b.phase = .reworking → g = withdrawRaise t k) ∧
            (b.phase = .tripped → g = repowerRetry e t viaHold b k) ∧
            (b.phase ≠ .reworking → b.phase ≠ .tripped → g = k)))) ∧
  ∀ (tag : Nat) (t : Tx) (form : HoldForm) (a : Aspect) (s : State), s.takes tag →
    let set : Instr := .holdSet tag (some t) (some form)
    let drop : Instr := .holdClear tag (some t) (some a)
    let d := s.hall.holds[t]
    let known := (s.tables.txs[t]).defined = true ∨ (s.hall.tx[t]).undef = true
    (holdOf form = none → Answers set s tag .holdSet .range .nothing) ∧
    (∀ v, holdOf form = some v →
      let answer := check s.tables s.hall (holdQuestion s.hall t (d.put v))
      let passes := v = .inhibit ∨ answer = .permitted
      let usable := ∀ o p, v = .output o p → (s.tables.outs[o]).defined = true ∧
        p.isSome = (s.tables.outs[o]).slewable ∧ ∀ n, p = some n → ∃ q, s.hall.path.pos[o] = some q ∧ q.preset n ≠ none
      (¬ known → Answers set s tag .holdSet .notFound .nothing) ∧
      (∀ o p, known → v = .output o p → (s.tables.outs[o]).defined = false →
        Answers set s tag .holdSet .notFound .nothing) ∧
      (∀ o p, known → v = .output o p → (s.tables.outs[o]).defined = true →
        ¬ (p.isSome = (s.tables.outs[o]).slewable ∧ ∀ n, p = some n → ∃ q, s.hall.path.pos[o] = some q ∧ q.preset n ≠ none) →
        Answers set s tag .holdSet .range .nothing) ∧
      (known → usable → ¬ passes → Answers set s tag .holdSet answer.status (.answer answer)) ∧
      (∀ o p u, known → usable → passes → v = .output o p → reserver s.hall o = some u → u ≠ t →
        Answers set s tag .holdSet .conflict (.otherTx u)) ∧
      (∀ o p, known → usable → passes → v = .output o p → (∀ u, reserver s.hall o = some u → u = t) →
        outState s.hall o = .faulted → Answers set s tag .holdSet .state .nothing) ∧
      (∀ o p u b, known → usable → passes → v = .output o p → (∀ w, reserver s.hall o = some w → w = t) →
        outState s.hall o ≠ .faulted → s.hall.path.owner[o] = some u → u ≠ t → s.hall.asg[u] = some b → b.sched = none →
        Answers set s tag .holdSet .conflict (.otherTx u)) ∧
      (known → usable → passes → (∀ o p, v = .output o p → (∀ u, reserver s.hall o = some u → u = t) ∧
          outState s.hall o ≠ .faulted ∧ ∀ u b, s.hall.path.owner[o] = some u → u ≠ t → s.hall.asg[u] = some b →
            b.sched ≠ none) →
        (d.get v.aspect = some v → TakenOk set s s tag .holdSet) ∧
        (d.get v.aspect ≠ some v → ∃ h : Hall, TakenOk set s { s with hall := h } tag .holdSet ∧ h.holds[t] = d.put v ∧
          ∀ u : Tx, u ≠ t → h.holds[u] = s.hall.holds[u]))) ∧
    (d.get a = none → TakenOk drop s s tag .holdClear) ∧
    (d.get a ≠ none → ∃ h : Hall, TakenOk drop s { s with hall := h } tag .holdClear ∧ h.holds[t] = d.drop a ∧
      ∀ u : Tx, u ≠ t → h.holds[u] = s.hall.holds[u]) ∧
    Answers (.holdStatus tag none) s tag .holdStatus .ok (.holds (allTx.map fun u => (u, s.hall.holds[u]))) ∧
    Answers (.holdStatus tag (some (some t))) s tag .holdStatus .ok (.holds [(t, d)])

/-- PLAN-LOAD, PLAN-DROP, PLAN-GET, PLAN-SET and the directive requests with their replies: plans are 1 to 31 with 1 to 8 steps,
each of a transmitter and an aspect of their lists and a hold value in the ranges of R176, plan 0 is fixed; a plan that is
pending or runs is neither loaded nor dropped; a directive runs at once, waits in the slot, or is BUSY; a withdrawal answers the
plan and tag, or TOO-LATE after acceptance. DIRECTIVE-STATUS reads the slot, the running plan with its current step (for plan 0,
INHIBIT on the transmitters of its start), and the last directive. A step's timeout ends the step as TIMEOUT; one that is not
due does nothing (log 2). Elapsed times are in whole seconds, rounded down (log 22). A step starts its timeout now and makes its
hold change with the plan as cause, or, when a SET fails its checks, is refused; plan 0 sets INHIBIT on every defined
transmitter. A step refused or in force is over: its PLAN-STEP notice, a failed one counted, then the next step, or PLAN-DONE
and the start of the directive that waits. In force: a CLEAR at once; INHIBIT, and plan 0's, when the transmitter is proven
down; OUTPUT with the output made and parked at its preset; FREQUENCY tuned so; POWER when the transmitter does not radiate, or
is ON_AIR with the last RAISE completed at the effective power; the last three also without an assignment, and in QUIESCENT at
once (R193); outside it one that is ENDING is an assignment (log 53). Plan 0 abandons a plan that runs, and starts. -/
def Obligations.PlansAndDirectives : Prop :=
  (∀ x : StepForm,
    (stepOf x = none ↔ match x with
      | .setHold t v => t = none ∨ v = none ∨ ∃ f, v = some f ∧ holdOf f = none
      | .clearHold t a => t = none ∨ a = none) ∧
    (∀ t f v, x = .setHold (some t) (some f) → holdOf f = some v → stepOf x = some (.setHold t v)) ∧
    ∀ t a, x = .clearHold (some t) (some a) → stepOf x = some (.clearHold t a)) ∧
  (∀ (e : Env) (h : Hall) (r : Running), h.running = some r →
    let cause : HoldCause := .plan r.plan r.step
    let begun (who : List Tx) (x : Option Status) : Hall :=
      { h with running := some { r with start := e.now, timeout := e.k.stepTo * 1000, who := who, refused := x } }
    let step : Option PlanStep := if hr : r.plan < 32 then ((e.k.plans[r.plan]).getD [])[r.step - 1]? else none
    let count := if r.plan = 0 then 1 else if hr : r.plan < 32 then ((e.k.plans[r.plan]).getD []).length else 0
    let known : List Tx := allTx.filter fun t => (e.k.txs[t]).defined || (h.tx[t]).undef
    (r.plan = 0 → startStep e h = (begun known none).each known fun t g => setHold e t .inhibit cause g) ∧
    (r.plan ≠ 0 →
      (∀ t v, step = some (.setHold t v) →
        (holdFault e.k h t v = none → startStep e h = setHold e t v cause (begun [] none)) ∧
        ∀ x, holdFault e.k h t v = some x → startStep e h = begun [] (some x.1)) ∧
      ∀ t a, step = some (.clearHold t a) → startStep e h = clearHold e t a cause (begun [] none)) ∧
    (∀ res : StepResult,
      let failed := if res = .inForce then r.failed else r.failed + 1
      let told : Hall := h.note (.planStep r.plan r.step res)
      let done : Hall := { told with running := none }.note (.planDone r.plan r.tag count failed)
      (r.step < count → stepOver e r res h =
        startStep e { told with running := some { r with failed := failed, step := r.step + 1 } }) ∧
      (count ≤ r.step →
        (h.dslot = none → stepOver e r res h = done) ∧
        ∀ k tag, h.dslot = some (k, tag) → stepOver e r res h = startStep e
          { ({ done with dslot := none, dlast := some ⟨k, tag, .accepted⟩ } : Hall).note (.directiveAccepted k tag) with
            running := some ⟨k, tag, 1, e.now, 0, 0, [], none⟩ })) ∧
    (let down (t : Tx) := isRad (h.tx[t]).st = false ∧ (h.tx[t]).lowerInHand = false ∧ rfpActive e h t = false ∧
        ¬ ((h.tx[t]).st = .unreachable ∧ ((h.tx[t]).before = some .raising ∨ (h.tx[t]).before = some .onAir))
     let good : Prop := if r.plan = 0 then ∀ t ∈ r.who, down t else match step with
       | none | some (.clearHold _ _) => True
       | some (.setHold t .inhibit) => down t
       | some (.setHold t (.output o p)) => h.mode = .quiescent ∨ h.asg[t] = none ∨ (madeOut h t = some o ∧ ((e.k.outs[o]).slewable = true →
           ∃ q n, h.path.pos[o] = some q ∧ q.read = true ∧ p = some n ∧ q.st = .parked (some n)))
       | some (.setHold t (.frequency f m)) => h.mode = .quiescent ∨ h.asg[t] = none ∨
           ∃ c, (h.tx[t]).cond = some c ∧ condTune c.cond = some (f, m)
       | some (.setHold t (.power _)) => h.mode = .quiescent ∨ ∀ a, h.asg[t] = some a → isRad (h.tx[t]).st = false ∨
           ((h.tx[t]).st = .onAir ∧ (h.tx[t]).raiseKw = some a.eff.power ∧ (h.tx[t]).doneKw = some a.eff.power)
     (∀ x, r.refused = some x → planStep e h = some (stepOver e r (.refused x) h)) ∧
     (r.refused = none → good → planStep e h = some (stepOver e r .inForce h)) ∧
     (r.refused = none → ¬ good → planStep e h = none)) ∧
    ∀ tag, startPlan0 e tag h = startStep e ({ h.note (.planAbandoned r.plan r.tag r.step r.failed .plan0) with
      running := some ⟨0, tag, 1, e.now, 0, 0, [], none⟩ }.note (.directiveAccepted 0 tag))) ∧
  (∀ (e : Env) (h : Hall) (tag : Nat), h.running = none → planStep e h = none ∧ startStep e h = h ∧
    startPlan0 e tag h =
      startStep e ({ h with running := some ⟨0, tag, 1, e.now, 0, 0, [], none⟩ }.note (.directiveAccepted 0 tag))) ∧
  (∀ (tag plan : Nat) (steps : List StepForm) (step : Option Nat) (s : State), s.takes tag →
    let load : Instr := .planLoad tag plan steps
    let drop : Instr := .planDrop tag plan
    let get : Instr := .planGet tag plan
    let set : Instr := .planSet tag step
    let post : Instr := .directivePost tag plan
    let taken : List PlanStep := (steps.map stepOf).filterMap id
    let good := 1 ≤ steps.length ∧ steps.length ≤ 8 ∧ ∀ x ∈ steps, stepOf x ≠ none
    let busy := (∃ k, s.hall.dslot = some (plan, k)) ∨ ∃ r, s.hall.running = some r ∧ r.plan = plan
    let fits := ∀ x, step = some x → 10 ≤ x ∧ x ≤ 600
    (∀ n : Fin 32, n.val = plan → 1 ≤ plan →
      let held := s.tables.plans[n]
      let stored (l : Option (List PlanStep)) : State :=
        { s with tables := { s.tables with plans := upd s.tables.plans n fun _ => l } }
      (¬ good → Answers load s tag .planLoad .range .nothing) ∧
      (good → busy → Answers load s tag .planLoad .state .nothing) ∧
      (good → ¬ busy → TakenOk load s (stored (some taken)) tag .planLoad) ∧
      (busy → Answers drop s tag .planDrop .state .nothing) ∧
      (¬ busy → held = none → Answers drop s tag .planDrop .notFound .nothing) ∧
      (¬ busy → held ≠ none → TakenOk drop s (stored none) tag .planDrop) ∧
      (∀ l, held = some l → Answers get s tag .planGet .ok (.plan plan l false)) ∧
      (held = none → Answers get s tag .planGet .notFound .nothing) ∧
      (held = none → Answers post s tag .directivePost .notFound .nothing) ∧
      (held ≠ none → s.hall.dslot ≠ none → Answers post s tag .directivePost .busy .nothing) ∧
      (held ≠ none → s.hall.dslot = none → s.hall.running = none → Completes post s
        ((s.onHall fun e h => startStep e { h.note (.directiveAccepted plan tag) with
          dslot := none, dlast := some ⟨plan, tag, .accepted⟩,
          running := some { plan := plan, tag := tag, step := 1, start := e.now, timeout := 0, failed := 0, who := [],
                            refused := none } }).say tag (some .directivePost) .accepted .stageRunning)) ∧
      (held ≠ none → s.hall.dslot = none → s.hall.running ≠ none → Completes post s
        ({ s with hall := { s.hall with dslot := some (plan, tag), dlast := some ⟨plan, tag, .pending⟩ } }.say tag
          (some .directivePost) .accepted .stagePending))) ∧
    (¬ (1 ≤ plan ∧ plan ≤ 31) → Answers load s tag .planLoad .range .nothing ∧
      Answers drop s tag .planDrop .range .nothing) ∧
    (31 < plan → Answers get s tag .planGet .range .nothing ∧ Answers post s tag .directivePost .range .nothing) ∧
    Answers (.planGet tag 0) s tag .planGet .ok (.plan 0 [] true) ∧
    (∀ r, s.hall.running = some r → r.plan = 0 → Answers (.directivePost tag 0) s tag .directivePost .busy .nothing) ∧
    ((∀ r, s.hall.running = some r → r.plan ≠ 0) → Completes (.directivePost tag 0) s
      ((s.onHall fun e h => startPlan0 e tag h).say tag (some .directivePost) .accepted .stageRunning)) ∧
    (fits → TakenOk set s { s with tables := { s.tables with stepTo := step.getD s.tables.stepTo } } tag .planSet) ∧
    (¬ fits → Answers set s tag .planSet .range .nothing) ∧
    (∀ k u, s.hall.dslot = some (k, u) → Completes (.directiveWithdraw tag) s
      ({ s with hall := { s.hall with dslot := none, dlast := s.hall.dlast.map fun (d : LastDirective) =>
        { d with fate := .withdrawn } } }.say tag (some .directiveWithdraw) .ok (.planTag k u))) ∧
    (∀ d, s.hall.dslot = none → s.hall.dlast = some d → d.fate = .accepted →
      Answers (.directiveWithdraw tag) s tag .directiveWithdraw .tooLate (.planTag d.plan d.tag)) ∧
    (s.hall.dslot = none → (∀ d, s.hall.dlast = some d → d.fate ≠ .accepted) →
      Answers (.directiveWithdraw tag) s tag .directiveWithdraw .notFound .nothing) ∧
    Answers (.directiveStatus tag) s tag .directiveStatus .ok
      (.directive s.hall.dslot s.hall.running s.hall.dlast s.tables.stepTo
        (s.hall.running.map fun r => (s.time.now - r.start) / 1000)
        (s.hall.running.bind fun r => if r.plan = 0 then some (.inhibitAll r.who)
          else (stepAt s.tables r.plan r.step).map .step))) ∧
  ∀ s : State,
    (∀ r, s.hall.running = some r → r.start + r.timeout ≤ s.time.now → Completes .planStepTimeout s
      (s.onHall fun e h => stepOver e r .timeout h)) ∧
    ((∀ r, s.hall.running = some r → s.time.now < r.start + r.timeout) → Completes .planStepTimeout s s)

/-! ### The Fault Table -/

/-- FAULT-CLEAR: RANGE, NOT-FOUND; a record that does not block is removed; one that blocks a transmitter releases it; one that
blocks an output asks its release: a column read for MATRIX-UNKNOWN, a positioner read for POSITIONER-STALL (at once without a
positioner; in place of a read of it in progress, the model's choice: log 38), at once for another kind. A column report that
ends such a read releases the output when it is consistent, with the end of a throw that its column has in motion (the model's
reading: log 29), and answers STATE when it is not (R115; the rows in order: log 20): consistent is each row made or broken and
not both, one row made at most, and every other crosspoint of that row OPEN; its column's crosspoints are then as it reads. The
release removes the record; each crosspoint of the column still UNKNOWN is reported HELD in the order of its rows, then a
positioner still STALLED; the first record left of a blocking kind blocks; with none the output is released, and an allocation
run is owed. AT-REST at a preset's azimuth parks the positioner at the lowest-numbered such preset, with a POSITIONER notice,
cause CLEAR, and releases the output; at another azimuth it answers STATE, and so do a third QUERY unanswered and the
full-travel time's passing (at the rate held at the test, a QUERY unanswered not waited for: log 40). FAULT-LIST (up to 16
records from the one named, as many as have room in its line, the model's 400 characters: log 8; each with its sequence number,
kind, source, blocking flag and count, and NEXT for the first left out), FAULT-GET and FAULT-CLEAR-OVERFLOW. -/
def Obligations.FaultRequests : Prop :=
  (∀ (h : Hall) (o : Out) (rows : Vector Contacts 12), consistent h o rows = true ↔
    (∀ u : Tx, (rows[u]).made ≠ (rows[u]).broken) ∧
    (∀ u w : Tx, (rows[u]).made = true → (rows[w]).made = true → u = w) ∧
    ∀ u : Tx, (rows[u]).made = true → ∀ p : Out, p ≠ o → xst h u p = .opened) ∧
  (∀ (seq : Nat) (o : Out) (rows : Vector Contacts 12) (h : Hall),
    let g := clearRows seq o rows h
    (∀ u : Tx, xst g u o = if (rows[u]).made = true ∧ (rows[u]).broken = false then .closed else .opened) ∧
    ∀ (u : Tx) (p : Out), p ≠ o → xst g u p = xst h u p) ∧
  (∀ (e : Env) (seq : Nat) (o : Out) (h : Hall),
    let kept : Hall := { h with faults := { h.faults with recs := h.faults.recs.filter fun r => r.seq ≠ seq } }
    let told : Hall := kept.each allTx fun u g =>
      if xst g u o = .unknown then report e ⟨.matrixUnknown, .out o, none, none, some (.matrix .held (some (u, o)))⟩ g else g
    let stalled := ∃ p, h.path.pos[o] = some p ∧ p.st = .stalled
    let freed (x : Hall) : Prop := clearOut e seq o h =
      if blocked (carryBlock (.out o) x) (.out o) = true then carryBlock (.out o) x
      else { carryBlock (.out o) x with alloc := true }
    (stalled → freed (report e ⟨.positionerStall, .out o, none, none, some (.stall .held)⟩ told)) ∧
    (¬ stalled → freed told)) ∧
  ∀ (tag seq : Nat) (s : State),
    let f := s.hall.faults
    let c : Instr := .faultClear tag seq
    let rest : Hall := { s.hall with faults := { f with recs := f.recs.filter fun r => r.seq ≠ seq } }
    let ok (h : Hall) : State := { s with hall := h }.say tag (some .faultClear) .ok .nothing
    let view (r : FaultRec) : FaultView := { seq := r.seq, kind := r.kind, src := r.src, blocking := r.blocking, count := r.count }
    let size (n : Nat) (l : List FaultRec) : Nat := (listText ((l.take n).map fun r => (view r).text)).length
    let lists (first : Nat) (l : List FaultRec) := ∃ n, n ≤ 16 ∧ n ≤ l.length ∧ size n l ≤ 400 ∧
      (n < 16 → n < l.length → 400 < size (n + 1) l) ∧
      Answers (.faultList tag first) s tag .faultList .ok
        (.faults f.recs.length f.overflow f.next ((l.take n).map view) ((l.drop n).head?.map FaultRec.seq))
    (s.takes tag → ¬ (1 ≤ seq ∧ seq ≤ 65535) → Answers c s tag .faultClear .range .nothing) ∧
    (s.takes tag → 1 ≤ seq → seq ≤ 65535 → (∀ r ∈ f.recs, r.seq ≠ seq) →
      Answers c s tag .faultClear .notFound .nothing) ∧
    (∀ r, s.takes tag → 1 ≤ seq → seq ≤ 65535 → f.recs.find? (fun r => r.seq = seq) = some r →
      (r.blocking = false → Completes c s (ok rest)) ∧
      (∀ t, r.blocking = true → r.src = .tx t → Completes c s (ok (
        let h := carryBlock (.tx t) rest
        if blocked h (.tx t) then h else releaseTx s.env t h))) ∧
      (∀ o, r.blocking = true → r.src = .out o → r.kind = .matrixUnknown → Completes c s
        { s with hall := { s.hall with clear := some ⟨tag, seq, r.kind, o⟩ }.setCol o fun x =>
          { x with clear := some ⟨0, none⟩ } }) ∧
      (∀ o p, r.blocking = true → r.src = .out o → r.kind = .positionerStall → s.hall.path.pos[o] = some p → Completes c s
        { s with hall := { s.hall with clear := some ⟨tag, seq, r.kind, o⟩ }.setPos o (some
          { p with job := some ⟨s.time.now, 0, none, none, true⟩ }) }) ∧
      (∀ o, r.blocking = true → r.src = .out o → r.kind = .positionerStall → s.hall.path.pos[o] = none → Completes c s
        (ok { clearOut s.env seq o s.hall with clear := none })) ∧
      (∀ o, r.blocking = true → r.src = .out o → r.kind = .antennaSuspect → Completes c s
        (ok { clearOut s.env seq o s.hall with clear := none }))) ∧
    (∀ (o : Out) (rows : Vector Contacts 12) (x : Clear) (j : ColJob), s.hall.clear = some x → x.kind = .matrixUnknown →
      x.out = o → (s.hall.path.cols[o]).adopt = none → (s.hall.path.cols[o]).clear = some j → j.deadline ≠ none →
      consistent s.hall o rows = false → Completes (.columnReport o rows) s
        ({ s with hall := { (storeReport o rows s.hall).setCol o fun c => { c with clear := none } with clear := none } }.say
          x.tag (some .faultClear) .state .nothing)) ∧
    (∀ (o : Out) (rows : Vector Contacts 12) (x : Clear) (j : ColJob), s.hall.clear = some x → x.kind = .matrixUnknown →
      x.out = o → (s.hall.path.cols[o]).adopt = none → (s.hall.path.cols[o]).clear = some j → j.deadline ≠ none →
      consistent s.hall o rows = true → Completes (.columnReport o rows) s
        ({ s with hall := { clearOut s.env x.seq o (clearRows x.seq o rows
          ((storeReport o rows s.hall).setCol o fun c => { c with clear := none })) with clear := none } }.say
          x.tag (some .faultClear) .ok .nothing)) ∧
    (∀ (o : Out) (l : Fin 8) (p : Pos) (j : PosJob) (d az : Nat) (x : Clear), s.hall.clear = some x →
      x.kind = .positionerStall → x.out = o → lineHolder s.hall l = some o → s.hall.path.pos[o] = some p →
      p.job = some j → j.query = some d → j.clear = true → (∀ n, n < 16 → p.preset n ≠ some az) →
      Completes (.positionerReport l (.atRest az)) s
        ({ s with hall := { s.hall.setPos o (some { p with az := some az, job := none, read := true }) with clear := none } }.say
          x.tag (some .faultClear) .state .nothing)) ∧
    (∀ (o : Out) (l : Fin 8) (p : Pos) (j : PosJob) (d az n : Nat) (x : Clear), s.hall.clear = some x →
      x.kind = .positionerStall → x.out = o → lineHolder s.hall l = some o → s.hall.path.pos[o] = some p →
      p.job = some j → j.query = some d → j.clear = true → n < 16 → p.preset n = some az →
      (∀ m, m < n → p.preset m ≠ some az) →
      let parked := s.hall.setPos o (some { p with az := some az, job := none, read := true, st := .parked (some n) })
      Completes (.positionerReport l (.atRest az)) s
        ({ s with hall := { clearOut s.env x.seq o (parked.note
            (.positioner o (.parked (some n)) (some az) (stateCleared x.seq o parked) .clear)) with clear := none } }.say
          x.tag (some .faultClear) .ok .nothing)) ∧
    (∀ (o : Out) (p : Pos) (j : PosJob) (x : Clear), s.hall.clear = some x → x.kind = .positionerStall → x.out = o →
      s.hall.path.pos[o] = some p → p.job = some j → j.clear = true →
      let refused : State :=
        { s with hall := { s.hall.setPos o (some { p with job := none, read := true }) with clear := none } }.say x.tag
          (some .faultClear) .state .nothing
      (∀ d, j.query = some d → d ≤ s.time.now → 2 ≤ j.misses → Completes (.queryTimeout o) s refused) ∧
      (j.query ≠ none ∨ j.again ≠ none → j.began + ((359 + p.rate - 1) / p.rate + 20) * 1000 ≤ s.time.now →
        Completes (.readFullTravelTimeout o) s refused)) ∧
    (s.takes tag →
      (∀ r, f.recs.find? (fun r => r.seq = seq) = some r → Answers (.faultGet tag seq) s tag .faultGet .ok (.fault r)) ∧
      ((∀ r ∈ f.recs, r.seq ≠ seq) → Answers (.faultGet tag seq) s tag .faultGet .notFound .nothing) ∧
      lists 0 f.recs ∧
      (seq ≠ 0 → (∀ r ∈ f.recs, r.seq ≠ seq) → Answers (.faultList tag seq) s tag .faultList .notFound .nothing) ∧
      (∀ before r after, seq ≠ 0 → f.recs = before ++ r :: after → r.seq = seq → (∀ x ∈ before, x.seq ≠ seq) →
        lists seq (r :: after)) ∧
      TakenOk (.faultClearOverflow tag) s { s with hall := { s.hall with faults := { f with overflow := false } } } tag
        .faultClearOverflow)

/-- A report. With no record of its kind and source and fewer than 48 records it makes one: the next sequence number, count 1,
both times the reading, blocking exactly when its kind can block and its source is not blocked yet. One with a record of its
kind and source is taken into that record: the count rises to at most 65535, the last time and the fields are the report's, and
nothing else of the table changes. With 48 records held, a report that does not block is lost, and the overflow flag is set; one
that blocks displaces the oldest record that does not block: the earliest first time, the one created first among equals. Each
makes its notice, with the record as the report leaves it (as it goes to the link it carries the record as it stands after the
event: Obligations.EndOfEvent, log 55). After a clear, a resource that no record blocks any more is blocked by its first record
of a blocking kind, if any, with a FAULT notice. A transmitter's release empties its trip window and sets its recovery to IDLE;
it is UNREACHABLE without contact or condition, with no state before loss; ABSENT with undefine pending (in this order, and a
cabinet lost since counts as in contact: log 54); in the table's state alone while it is still to be judged; LOCAL by its local
flag, its orders over but for a LOWER sent, which runs on (log 47); TRIPPED, uncounted, with CLEAR-TRIP; a radiating cabinet is
LOWERING, with RF-UNEXPECTED and LOWER; otherwise the table's state. The release owes an allocation run. -/
def Obligations.FaultReports : Prop :=
  (∀ (e : Env) (r : Report) (h : Hall),
    let f := h.faults
    let same (x : FaultRec) : Prop := x.kind = r.kind ∧ x.src = r.src
    let held := ∃ x ∈ f.recs, x.blocking = true ∧ x.src = r.src
    let kinds := r.kind = .lockout ∨ r.kind = .hotSwitch ∨ r.kind = .matrixUnknown ∨ r.kind = .positionerStall ∨
      r.kind = .antennaSuspect
    let fresh (blocking : Bool) (n : Nat) : FaultRec :=
      ⟨n, r.kind, r.src, blocking, 1, e.sec, e.sec, r.occ, r.freq, r.detail⟩
    let lost : Hall := { h with faults := { f with overflow := true }, emit := h.emit ++ [.faultLost r.kind r.src] }
    ((∀ x ∈ f.recs, ¬ same x) → f.recs.length < 48 → (∀ x ∈ f.recs, x.seq ≠ f.next) →
      ∃ b : Bool, (b = true ↔ kinds ∧ ¬ held) ∧ report e r h =
        { h with faults := { f with recs := f.recs ++ [fresh b f.next], next := if 65535 ≤ f.next then 1 else f.next + 1 }
                 emit := h.emit ++ [.fault (fresh b f.next) (.new none)] }) ∧
    (∀ before x after, f.recs = before ++ x :: after → same x → (∀ y ∈ before, ¬ same y) →
      (f.recs.map FaultRec.seq).Nodup →
      ∃ b : Bool, (b = true ↔ x.blocking = true ∨ (kinds ∧ ¬ held)) ∧
        let y : FaultRec := { x with count := min 65535 (x.count + 1), last := e.sec, occ := r.occ, freq := r.freq,
                                     detail := r.detail, blocking := b }
        report e r h =
          { h with faults := { f with recs := before ++ y :: after }
                   emit := h.emit ++ [.fault y (if b = true ∧ x.blocking = false then .blocking else .repeated)] }) ∧
    ((∀ x ∈ f.recs, ¬ same x) → 48 ≤ f.recs.length → ¬ (kinds ∧ ¬ held) → report e r h = lost) ∧
    (∀ before old after, (∀ x ∈ f.recs, ¬ same x) → 48 ≤ f.recs.length → kinds ∧ ¬ held →
      f.recs = before ++ old :: after → old.blocking = false → (∀ x ∈ before, x.blocking = false → old.first < x.first) →
      (∀ x ∈ after, x.blocking = false → old.first ≤ x.first) → (f.recs.map FaultRec.seq).Nodup →
      (∀ x ∈ f.recs, x.seq ≠ f.next) → report e r h =
        { h with faults := { recs := before ++ after ++ [fresh true f.next],
                             next := if 65535 ≤ f.next then 1 else f.next + 1, overflow := true }
                 emit := h.emit ++ [.fault (fresh true f.next) (.new (some old.seq))] })) ∧
  (∀ (x : FaultSource) (h : Hall),
    let f := h.faults
    let blocker (y : FaultRec) : Prop := y.src = x ∧ (y.kind = .lockout ∨ y.kind = .hotSwitch ∨ y.kind = .matrixUnknown ∨
      y.kind = .positionerStall ∨ y.kind = .antennaSuspect)
    ((∃ y ∈ f.recs, y.blocking = true ∧ y.src = x) ∨ (∀ y ∈ f.recs, ¬ blocker y) → carryBlock x h = h) ∧
    (∀ before y after, (∀ z ∈ f.recs, z.blocking = true → z.src ≠ x) → f.recs = before ++ y :: after → blocker y →
      (∀ z ∈ before, ¬ blocker z) → (f.recs.map FaultRec.seq).Nodup →
      let z : FaultRec := { y with blocking := true }
      carryBlock x h =
        { h with faults := { f with recs := before ++ z :: after }, emit := h.emit ++ [.fault z .blocking] })) ∧
  ∀ (e : Env) (t : Tx) (h : Hall),
    let r := h.tx[t]
    let g : Hall := (emptyWindow t h).setTx t fun r => { r with rcv := Recovery.idle }
    let awaited := h.mode = .adopting ∧ (h.adopt[t]).judged = false
    let released (x : Hall) := releaseTx e t h = { x with alloc := true }
    (emptyWindow t h).tx[t] = { r with window := [] } ∧
    (r.contact = false ∨ r.cond = none →
      released (setTxState t .unreachable .trip (g.setTx t fun r => { r with before := none }))) ∧
    ∀ c, r.contact = true → r.cond = some c →
      (r.undef = true → released (goAbsent t .trip g)) ∧
      (r.undef = false →
        (awaited → released (setTxState t (derive c) .trip g)) ∧
        (¬ awaited → c.loc = true → released (overtakePend t (fun _ => true)
          (overtakeOut t (fun o => !(decide (o.kind = .lower) && o.sentAt.isSome)) (setTxState t .isLocal .trip g)))) ∧
        (¬ awaited → c.loc = false → isRad (condState c.cond) = true → released
          (handLower e t false (report e ⟨.rfUnexpected, .tx t, none, none, some .cabinet⟩ (setTxState t .lowering .trip g)))) ∧
        (∀ x, ¬ awaited → c.loc = false → c.cond = .tripped x →
          released (handClear e t (setTxState t .tripped .trip g))) ∧
        (¬ awaited → c.loc = false → isRad (condState c.cond) = false → condState c.cond ≠ .tripped →
          released (setTxState t (condState c.cond) .trip g)))

/-! ### Adoption and the resets -/

/-- HALL-RESET is ACCEPTED in every state: the hall is ADOPTING; every change, assignment, stack, deferral, hold, directive and
running plan is gone, outputs are unclaimed, columns unread and their READ owed, no motion is queued, no sequence has a target
for later, transmitters are out of contact, with no order pending and recovery IDLE, of the orders to be sent only a LOWER left,
each defined one UNJUDGED and each other JUDGED, the notice queue and receiving buffer emptied; the rest of each transmitter
(its state, permit, condition, trip window), bank entries, tables, fault records and sense lines stay. Its notices: HALL;
CHANGE-REJECTED for each change; BANK for a RETIRING bank, now SPENT; PLAN-ABANDONED; DIRECTIVE-CANCELLED (a directive still
waiting is CANCELLED); HOLD for each transmitter with an aspect enabled; each with cause RESET (R193, R206). SECTION-RESET is
RANGE, NOT-FOUND or ACCEPTED: it clears stack (with EXPIRED notices), hold, trip window, recovery and idle timer; the assignment
ends ABORTED, at once unless it is radiating; the pending order is dropped; RAISING and ON_AIR have LOWER in hand, TRIPPED
CLEAR-TRIP, an outstanding LOWER runs on (one not yet sent too: log 11), and UNREACHABLE loses its state before loss; state,
permit, condition and other transmitters stay. STORE-ERASE is LOCKED, STATE (one RAISING or ON_AIR) or ACCEPTED: tables at their
defaults, every bank EMPTY with its BANK notice, SCHEDULE assignments gone or ending ABORTED, stacks and deferral list emptied
with EXPIRED notices, no hold, directive or plan left, a positioner only while its slew holds a slot, every defined transmitter
undefine pending; matrix, slots, fault records and trip windows stay. The lapse of an adoption condition is taken when due for a
transmitter still to be judged, and stands (log 56); otherwise it does nothing (log 2). Adoption judges the lowest transmitter
whose conditions hold, with a lapse whichever event finds it (R207, log 36), else ends when all is read and judged. Judgement
takes the first row of R207; a LOCKOUT's condition from before the reset counts (log 56). A carrier with no clean path has
LOWER; a matching one is a SCHEDULE assignment, another that passes the check a FOREIGN one; one refused has LOWER. Adoption's
end ends COMPLETED what is past its stop, spends a RETIRING bank without references (log 57), sets RUNNING and, with the clock
set, takes changeovers and the scan. -/
def Obligations.AdoptionAndResets : Prop :=
  (∀ (tag : Nat) (t : Tx) (s : State),
    (s.takes tag → ∃ h : Hall, Completes (.hallReset tag) s
        ({ s with hall := h, link := { s.link with notices := [], receiving := none } }.say tag (some .hallReset) .accepted
          .nothing) ∧
      h.mode = .adopting ∧ h.changes = [] ∧ h.deferral = [] ∧ h.dslot = none ∧ h.running = none ∧
      h.faults = s.hall.faults ∧ h.sense = s.hall.sense ∧ h.path.queue = [] ∧ h.path.pos = s.hall.path.pos ∧
      h.path.xpt = s.hall.path.xpt ∧ h.path.slots = s.hall.path.slots ∧
      (∀ n : BankNo, (h.banks[n]).recs = (s.hall.banks[n]).recs ∧ (h.banks[n]).label = (s.hall.banks[n]).label) ∧
      (∀ o : Out, h.path.owner[o] = none ∧ h.path.cols[o] = ⟨false, some ⟨0, none⟩, none⟩) ∧
      h.adoptedS = 0 ∧ h.adoptedF = 0 ∧
      h.dlast = (if s.hall.dslot = none then s.hall.dlast
        else s.hall.dlast.map fun d => if d.fate = .pending then { d with fate := .cancelled } else d) ∧
      h.emit = s.hall.emit ++ [.hall .adopting .reset] ++
        (s.hall.changes.map fun (c : Change) => .changeRejected c.tag c.bank c.kind c.id .reset) ++
        (match retiringBank s.hall with
          | some n => [.bank n .spent (s.hall.banks[n]).label (s.hall.banks[n]).start]
          | none => []) ++
        (match s.hall.running with | some r => [.planAbandoned r.plan r.tag r.step r.failed .reset] | none => []) ++
        (match s.hall.dslot with | some d => [.directiveCancelled d.1 d.2 .reset] | none => []) ++
        (allTx.flatMap fun u => let l := (s.hall.holds[u]).enabled; if l = [] then [] else [.holdReset u l]) ∧
      ∀ u : Tx, h.asg[u] = none ∧ h.stack[u] = [] ∧ h.idle[u] = .stopped ∧ h.holds[u] = Hold.off ∧
        (h.path.seqs[u]).next = none ∧ h.adopt[u] = ⟨!txDefined s.tables s.hall u, none, false, false⟩ ∧
        h.tx[u] = { s.hall.tx[u] with
          contact := false, pend := none, rcv := Recovery.idle
          out := ((s.hall.tx[u]).out.filter fun o => o.sentAt.isSome || decide (o.kind = .lower)).map fun o =>
            { o with handBack := false } }) ∧
    (s.takes tag → Answers (.sectionReset tag none) s tag .sectionReset .range .nothing) ∧
    (s.takes tag → (s.tables.txs[t]).defined = false → (s.hall.tx[t]).undef = false →
      Answers (.sectionReset tag (some t)) s tag .sectionReset .notFound .nothing) ∧
    (s.takes tag → (s.tables.txs[t]).defined = true ∨ (s.hall.tx[t]).undef = true → ∃ h : Hall,
      Completes (.sectionReset tag (some t)) s ({ s with hall := h }.say tag (some .sectionReset) .accepted .nothing) ∧
      h.stack[t] = [] ∧ h.holds[t] = Hold.off ∧ (h.tx[t]).window = [] ∧ (h.tx[t]).rcv = Recovery.idle ∧
      h.idle[t] = .stopped ∧ (∀ a, h.asg[t] = some a → a.phase = .ending .aborted .nothing) ∧
      (∀ i ∈ s.hall.stack[t], .expired i.item.occ ∈ h.emit) ∧
      (let r := s.hall.tx[t]
       let q := h.tx[t]
       (isRad r.st = false → (∀ a, s.hall.asg[t] = some a → a.phase.isEnding = false) → h.asg[t] = none) ∧
       (r.st ≠ .raising → r.st ≠ .onAir → r.st ≠ .tripped → q.pend = none) ∧
       (∀ o, q.pend = some o → q.out ≠ none ∧ (o.kind = .lower ∨ o.kind = .clearTrip)) ∧
       (r.st = .raising ∨ r.st = .onAir → q.lowerInHand = true) ∧
       (r.st = .tripped → q.inHand (fun k => decide (k = .clearTrip)) = true) ∧
       (∀ o, r.out = some o → o.kind = .lower → q.out = some o) ∧
       q.before = (if r.st = .unreachable then none else r.before) ∧
       q.st = r.st ∧ q.permit = r.permit ∧ q.cond = r.cond ∧ q.contact = r.contact ∧ q.undef = r.undef) ∧
      h.deferral = s.hall.deferral ∧ h.path.xpt = s.hall.path.xpt ∧ h.faults = s.hall.faults ∧ h.sense = s.hall.sense ∧
      ∀ u : Tx, u ≠ t → h.tx[u] = s.hall.tx[u] ∧ h.stack[u] = s.hall.stack[u] ∧ h.holds[u] = s.hall.holds[u] ∧
        h.idle[u] = s.hall.idle[u]) ∧
    (s.takes tag → s.tables.lock = true → Answers (.storeErase tag) s tag .storeErase .locked .nothing) ∧
    (s.takes tag → s.tables.lock = false → (∃ u : Tx, (s.hall.tx[u]).st = .raising ∨ (s.hall.tx[u]).st = .onAir) →
      Answers (.storeErase tag) s tag .storeErase .state .nothing) ∧
    (s.takes tag → s.tables.lock = false → (∀ u : Tx, (s.hall.tx[u]).st ≠ .raising ∧ (s.hall.tx[u]).st ≠ .onAir) →
      ∃ h : Hall, Completes (.storeErase tag) s
          ({ s with hall := h, tables := Tables.default }.say tag (some .storeErase) .accepted .nothing) ∧
        (∀ n : BankNo, (h.banks[n]).st = .empty ∧ ((s.hall.banks[n]).st = .empty → h.banks[n] = s.hall.banks[n]) ∧
          ((s.hall.banks[n]).st ≠ .empty →
            h.banks[n] = Bank.blank ∧ .bank n .empty Bank.blank.label Bank.blank.start ∈ h.emit)) ∧
        h.dslot = none ∧ h.running = none ∧ h.mode = s.hall.mode ∧ h.deferral = [] ∧
        (∀ i : DeferItem, i ∈ s.hall.deferral → .expired i.item.occ ∈ h.emit) ∧
        (∀ u : Tx, h.holds[u] = Hold.off ∧ h.stack[u] = [] ∧ (∀ i ∈ s.hall.stack[u], .expired i.item.occ ∈ h.emit) ∧
          (∀ b a, s.hall.asg[u] = some b → b.sched ≠ none → h.asg[u] = some a → a.phase = .ending .aborted .nothing) ∧
          (∀ b x, s.hall.asg[u] = some b → b.sched = some x → b.phase.isEnding = false → isRad (s.hall.tx[u]).st = false →
            (s.hall.tx[u]).st ≠ .unreachable → h.asg[u] = none) ∧
          (h.tx[u]).undef = ((s.tables.txs[u]).defined || (s.hall.tx[u]).undef) ∧ (h.tx[u]).st = (s.hall.tx[u]).st ∧
          (h.tx[u]).permit = (s.hall.tx[u]).permit ∧ (h.tx[u]).window = (s.hall.tx[u]).window) ∧
        h.path.xpt = s.hall.path.xpt ∧ h.path.slots = s.hall.path.slots ∧ h.faults = s.hall.faults ∧
        ∀ o : Out, (slewSlot s.hall o = none → h.path.pos[o] = none) ∧ (slewSlot s.hall o ≠ none →
          h.path.pos[o] = (s.hall.path.pos[o]).map fun p => { p with gone := true })) ∧
    (let a := s.hall.adopt[t]
     let waits := s.hall.mode = .adopting ∧ a.judged = false
     let limit (c : Cond) : Option Nat := match c with
       | .raising _ _ _ => some (s.tables.txs[t]).raise
       | .lowering _ _ _ => some (s.tables.txs[t]).lower
       | _ => none
     (∀ x rep d, waits → a.firstReply = some x → (s.hall.tx[t]).cond = some rep → limit rep.cond = some d →
       x + d * 1000 ≤ s.time.now →
       Completes (.adoptionConditionLapse t) s { s with hall := s.hall.setAdopt t fun a => { a with lapsed := true } }) ∧
     (¬ waits ∨ a.firstReply = none → Completes (.adoptionConditionLapse t) s s) ∧
     (∀ x rep, a.firstReply = some x → (s.hall.tx[t]).cond = some rep →
       (∀ d, limit rep.cond = some d → s.time.now < x + d * 1000) → Completes (.adoptionConditionLapse t) s s))) ∧
  ∀ (e : Env) (h : Hall) (t : Tx),
    let a := h.adopt[t]
    let r := h.tx[t]
    let replied := a.firstReply ≠ none ∧ r.st ≠ .unreachable ∧ r.cond ≠ none
    let carried (f : Nat) (m : Mode) (kw : Nat) := replied ∧ ∃ c, r.cond = some c ∧ c.cond = .on f m kw ∧ c.loc = false
    let rfp := rfpActive e h t = true
    let carrier := (∃ f m kw, carried f m kw) ∨ (¬ replied ∧ rfp)
    let moves := ∃ c f m kw, r.cond = some c ∧ (c.cond = .raising f m kw ∨ c.cond = .lowering f m kw)
    let passed := ∃ x c, a.firstReply = some x ∧ r.cond = some c ∧
      ((∃ f m kw, c.cond = .raising f m kw ∧ x + (e.k.txs[t]).raise * 1000 ≤ e.now) ∨
        ∃ f m kw, c.cond = .lowering f m kw ∧ x + (e.k.txs[t]).lower * 1000 ≤ e.now)
    let ready := h.mode = .adopting ∧ a.judged = false ∧ (∀ o : Out, (h.path.cols[o]).read = true) ∧
      (a.firstReply ≠ none ∨ a.lost = true) ∧ (h.line (.rfp t)).qual ≠ none ∧
      (r.st = .lockout ∨ (∃ c, r.cond = some c ∧ (c.loc = true ∨ ∃ x, c.cond = .tripped x)) ∨ ¬ carrier ∨ e.isSet = true) ∧
      (¬ moves ∨ a.lapsed = true ∨ passed ∨ a.firstReply = none)
    let seen (x : TxState) : Prop := ∃ c, r.cond = some c ∧ derive c = x
    let j : Hall := h.setAdopt t fun a => { a with judged := true }
    let locked : Hall := (report e ⟨.lockout, .tx t, none, none, some .adopted⟩ (setTxState t .lockout .contact j)).setTx t
      fun r => { r with pend := none, rcv := Recovery.idle }
    let clean (o : Out) := (∀ p : Out, xst h t p ≠ .opened ↔ p = o) ∧ xst h t o = .closed ∧ outState h o ≠ .faulted ∧
      ∀ u, reserver h o = some u → u = t
    let foreign (f : Option Nat) (w : ForeignWord) (x : Option CheckAnswer) (g : Hall) : Hall :=
      report e ⟨.foreignCarrier, .tx t, none, f, some (.foreign w x)⟩ g
    let cand (o : Out) (f : Nat) (n : BankNo) (c : Cand) : Prop := ∃ x b, activeBank h = some x ∧
      (n = x ∨ (retiringBank h = some n ∧ ∀ b', (h.banks[x]).start = some b' → occStart c.r.entry c.day < b')) ∧
      c.r ∈ (h.banks[n]).recs ∧ c.day ∈ scanDays e ∧ (h.banks[n]).start = some b ∧ hasOcc c.r.entry b c.day = true ∧
      occStart c.r.entry c.day ≤ e.min ∧ e.min < occStop c.r.entry c.day ∧ c.r.entry.tx = t ∧ c.r.entry.out = o ∧
      c.r.entry.freq = f
    let rank (n : BankNo) (c : Cand) : BankNo × Bool × Cand := (n, decide (activeBank h = some n), c)
    let taken (p : Params) (x : Option Sched) : Asg := adoptedAsg x p (effective e.k (h.holds[t]) p false)
    (readyToJudge e h t = true ↔ ready) ∧
    (h.mode ≠ .adopting → adoptStep e h = none) ∧
    (ready → (∀ u, u < t → readyToJudge e h u = false) → adoptStep e h = some (judge e t h)) ∧
    (h.mode = .adopting → (∀ u, readyToJudge e h u = false) → adoptStep e h =
      if (∀ o : Out, (h.path.cols[o]).read = true) ∧ ∀ u : Tx, (h.adopt[u]).judged = true then some (endAdoption e h) else none) ∧
    (r.st = .lockout → judge e t h =
      if r.condRad = true ∧ r.lowerInHand = false then rfUnexpected e t j else j) ∧
    (r.st ≠ .lockout → seen .isLocal → judge e t h =
      if r.st = .isLocal then j else ordersOver t (setTxState t .isLocal .contact j)) ∧
    (r.st ≠ .lockout → seen .tripped → judge e t h =
      if rfpActive e locked t = true then handLower e t false locked else locked) ∧
    (r.st ≠ .lockout → ¬ seen .isLocal → ¬ seen .tripped →
      (¬ replied → rfp → judge e t h = foreign none .unreachable none
        (handLower e t false (j.setTx t fun r => { r with before := some .onAir }))) ∧
      (∀ f m kw, carried f m kw → (∀ o, ¬ clean o) → judge e t h = handLower e t false (foreign (some f) .noPath none j)) ∧
      (∀ f m kw o, carried f m kw → clean o → judge e t h = adoptCarrier e t o f m kw j) ∧
      (¬ carrier → moves → judge e t h = rfUnexpected e t j) ∧
      (¬ carrier → ¬ moves → judge e t h = if replied ∧ rfp then
        handLower e t false (report e ⟨.rfUnexpected, .tx t, none, none, some .sense⟩ j) else j)) ∧
    (∀ o f m kw, (∀ n c, ¬ cand o f n c) → adoptCarrier e t o f m kw h = adoptForeign e t o f m kw h) ∧
    (∀ o f m kw n c, cand o f n c → (∀ n' c', cand o f n' c' → matchBefore (rank n' c') (rank n c) = false) →
      ∃ n' c', cand o f n' c' ∧ matchBefore (rank n c) (rank n' c') = false ∧
      let en := c'.r.entry
      let x : Sched := ⟨⟨n', en.id, c'.day⟩, en.prio, occStart en c'.day, occStop en c'.day⟩
      let w := taken (entryParams en) (some x)
      adoptCarrier e t o f m kw h = if checkParams e.k h t w.eff = .permitted then
          { adoptAsg t o w (h.setBank n' fun b => b.mark en.id x.start) with adoptedS := h.adoptedS + 1 }.note
            (.admitted t (some x.occ) w.eff.out .adoption)
        else adoptForeign e t o f m kw h) ∧
    (∀ o f m kw, ∃ p : Params, p.freq = f ∧ p.mode = m ∧ p.out = o ∧ p.power = max 1 kw ∧ p.prog = none ∧
      (∀ n, p.preset = some n ↔ ∃ q, h.path.pos[o] = some q ∧ q.st = .parked (some n)) ∧
      (checkParams e.k h t p = .permitted → adoptForeign e t o f m kw h =
        { foreign (some f) .noMatch none (adoptAsg t o (adoptedAsg none p p) h) with adoptedF := h.adoptedF + 1 }.note
          (.admitted t none o .adoption)) ∧
      (checkParams e.k h t p ≠ .permitted → adoptForeign e t o f m kw h =
        handLower e t false (foreign (some f) .excluded (some (checkParams e.k h t p)) h))) ∧
    (∀ o w, let g := adoptAsg t o w h
      g.asg[t] = some w ∧ g.idle[t] = .stopped ∧ g.path.owner[o] = some t ∧ (g.tx[t]).raiseKw = some w.eff.power ∧
      (adoptedAsg w.sched w.base w.eff).phase = .onAir ∧ (adoptedAsg w.sched w.base w.eff).trips = 0) ∧
    ∃ ended left : Hall,
      let g : Hall := ({ left with mode := .running }.note (.hall .running (.adopted left.adoptedS left.adoptedF))).wantAlloc
      (endAdoption e h = if e.isSet = true then changeoverScan e g else g) ∧
      ended = (h.each allTx fun u k =>
        if (k.asg[u]).any (fun b => b.sched.any fun x => decide (x.stop ≤ e.min)) then endAsg e u .completed .nothing k else k) ∧
      (∀ (u : Tx) b x, h.asg[u] = some b → b.sched = some x → b.phase.isEnding = false → x.stop ≤ e.min →
        ended.asg[u] = none ∨ ∃ b', ended.asg[u] = some b' ∧ b'.phase = .ending .completed .nothing) ∧
      (∀ (u : Tx) b, h.asg[u] = some b → (∀ x, b.sched = some x → e.min < x.stop) →
        ∃ b', ended.asg[u] = some b' ∧ b'.phase = b.phase ∧ b'.sched = b.sched ∧ b'.eff = b.eff) ∧
      (∀ n, retiringBank ended = some n → hasRef n ended = true → left = ended) ∧
      (∀ n, retiringBank ended = some n → hasRef n ended = false →
        left = (ended.setBank n fun b => { b with st := .spent }).note
          (.bank n .spent (ended.banks[n]).label (ended.banks[n]).start)) ∧
      (retiringBank ended = none → left = ended)

/-! ### Invariants -/

/-- Every step keeps at most one bank ACTIVE and at most one RETIRING, and every positioner on a line of its own. -/
def Obligations.BanksAndLinesInvariant : Prop :=
  (∀ s t : State, s.hall.banksOk → step s = .next t → t.hall.banksOk) ∧
  ∀ s t : State, s.hall.linesOk → step s = .next t → t.hall.linesOk

/-- Every step keeps the Fault Table and what it blocks together: at most one record blocks a resource, a transmitter is in
LOCKOUT exactly when one blocks it, and an output is FAULTED exactly when one does. -/
def Obligations.BlockingInvariant : Prop :=
  (∀ s t : State, s.hall.faultsOk → step s = .next t → t.hall.faultsOk) ∧
  ∀ (h : Hall) (o : Out), outState h o = .faulted ↔ ∃ r ∈ h.faults.recs, r.blocking = true ∧ r.src = .out o

/-- Every step keeps at most one crosspoint of a row, and of a column, other than OPEN. -/
def Obligations.MatrixInvariant : Prop := ∀ s t : State, s.hall.matrixOk → step s = .next t → t.hall.matrixOk

/-- Every step leaves no transmitter radiating under a GRANTED permit, and no throw in a slot without its row's permit: so none in
the row of a transmitter that radiates. -/
def Obligations.PermitInvariant : Prop :=
  (∀ s t : State, s.hall.permitsOk → step s = .next t → t.hall.permitsOk) ∧
  ∀ (h : Hall), h.permitsOk → ∀ (i : Fin 4) (x : Slot) (t : Tx) (o : Out), h.path.slots[i] = some x →
    x.motion.kind = .make t o ∨ x.motion.kind = .brk t o → isRad (h.tx[t]).st = false

/-- Every step keeps every retained table within the ranges and sizes the manual gives it. -/
def Obligations.TablesInvariant : Prop := ∀ s t : State, s.tables.ok → step s = .next t → t.tables.ok

/-- Every step keeps every list the manual bounds within its bound: bank entries, queued changes and their ids, the deferral
list, the stacks, the trip windows, the fault records and the queued notices; and no two fault records have one number. -/
def Obligations.SizesInvariant : Prop := ∀ s t : State, s.sizesOk → step s = .next t → t.sizesOk
end

