-- ==== Sys2Proof/Decode.lean ====
section
/-! DEFINITION. The command table gives no row any bits: a command is a line, a report or a time event, never a word. -/

namespace Sys2Proof

/-- No word spells a command. -/
def decodeTableWord (_nbits _w : Nat) : Option Instr := none

end Sys2Proof
end

