-- ==== Sys2Proof/Laws/State.lean ====
section
/-! SUPPORT. One lemma for each field and each update of the hall and of the state, true by `rfl`. -/

namespace Sys2Proof.Machine

namespace Hall

@[simp] theorem note_mode (h : Hall) (b : NoticeBody) : (h.note b).mode = h.mode := rfl
@[simp] theorem note_banks (h : Hall) (b : NoticeBody) : (h.note b).banks = h.banks := rfl
@[simp] theorem note_changes (h : Hall) (b : NoticeBody) : (h.note b).changes = h.changes := rfl
@[simp] theorem note_asg (h : Hall) (b : NoticeBody) : (h.note b).asg = h.asg := rfl
@[simp] theorem note_stack (h : Hall) (b : NoticeBody) : (h.note b).stack = h.stack := rfl
@[simp] theorem note_deferral (h : Hall) (b : NoticeBody) : (h.note b).deferral = h.deferral := rfl
@[simp] theorem note_idle (h : Hall) (b : NoticeBody) : (h.note b).idle = h.idle := rfl
@[simp] theorem note_adopt (h : Hall) (b : NoticeBody) : (h.note b).adopt = h.adopt := rfl
@[simp] theorem note_adoptedS (h : Hall) (b : NoticeBody) : (h.note b).adoptedS = h.adoptedS := rfl
@[simp] theorem note_adoptedF (h : Hall) (b : NoticeBody) : (h.note b).adoptedF = h.adoptedF := rfl
@[simp] theorem note_alloc (h : Hall) (b : NoticeBody) : (h.note b).alloc = h.alloc := rfl
@[simp] theorem note_path (h : Hall) (b : NoticeBody) : (h.note b).path = h.path := rfl
@[simp] theorem note_tx (h : Hall) (b : NoticeBody) : (h.note b).tx = h.tx := rfl
@[simp] theorem note_sense (h : Hall) (b : NoticeBody) : (h.note b).sense = h.sense := rfl
@[simp] theorem note_holds (h : Hall) (b : NoticeBody) : (h.note b).holds = h.holds := rfl
@[simp] theorem note_dslot (h : Hall) (b : NoticeBody) : (h.note b).dslot = h.dslot := rfl
@[simp] theorem note_running (h : Hall) (b : NoticeBody) : (h.note b).running = h.running := rfl
@[simp] theorem note_dlast (h : Hall) (b : NoticeBody) : (h.note b).dlast = h.dlast := rfl
@[simp] theorem note_faults (h : Hall) (b : NoticeBody) : (h.note b).faults = h.faults := rfl
@[simp] theorem note_clear (h : Hall) (b : NoticeBody) : (h.note b).clear = h.clear := rfl
@[simp] theorem note_said (h : Hall) (b : NoticeBody) : (h.note b).said = h.said := rfl
@[simp] theorem note_emit (h : Hall) (b : NoticeBody) : (h.note b).emit = h.emit ++ [b] := rfl

@[simp] theorem notes_mode (h : Hall) (l : List NoticeBody) : (h.notes l).mode = h.mode := rfl
@[simp] theorem notes_banks (h : Hall) (l : List NoticeBody) : (h.notes l).banks = h.banks := rfl
@[simp] theorem notes_changes (h : Hall) (l : List NoticeBody) : (h.notes l).changes = h.changes := rfl
@[simp] theorem notes_asg (h : Hall) (l : List NoticeBody) : (h.notes l).asg = h.asg := rfl
@[simp] theorem notes_stack (h : Hall) (l : List NoticeBody) : (h.notes l).stack = h.stack := rfl
@[simp] theorem notes_deferral (h : Hall) (l : List NoticeBody) : (h.notes l).deferral = h.deferral := rfl
@[simp] theorem notes_idle (h : Hall) (l : List NoticeBody) : (h.notes l).idle = h.idle := rfl
@[simp] theorem notes_adopt (h : Hall) (l : List NoticeBody) : (h.notes l).adopt = h.adopt := rfl
@[simp] theorem notes_adoptedS (h : Hall) (l : List NoticeBody) : (h.notes l).adoptedS = h.adoptedS := rfl
@[simp] theorem notes_adoptedF (h : Hall) (l : List NoticeBody) : (h.notes l).adoptedF = h.adoptedF := rfl
@[simp] theorem notes_alloc (h : Hall) (l : List NoticeBody) : (h.notes l).alloc = h.alloc := rfl
@[simp] theorem notes_path (h : Hall) (l : List NoticeBody) : (h.notes l).path = h.path := rfl
@[simp] theorem notes_tx (h : Hall) (l : List NoticeBody) : (h.notes l).tx = h.tx := rfl
@[simp] theorem notes_sense (h : Hall) (l : List NoticeBody) : (h.notes l).sense = h.sense := rfl
@[simp] theorem notes_holds (h : Hall) (l : List NoticeBody) : (h.notes l).holds = h.holds := rfl
@[simp] theorem notes_dslot (h : Hall) (l : List NoticeBody) : (h.notes l).dslot = h.dslot := rfl
@[simp] theorem notes_running (h : Hall) (l : List NoticeBody) : (h.notes l).running = h.running := rfl
@[simp] theorem notes_dlast (h : Hall) (l : List NoticeBody) : (h.notes l).dlast = h.dlast := rfl
@[simp] theorem notes_faults (h : Hall) (l : List NoticeBody) : (h.notes l).faults = h.faults := rfl
@[simp] theorem notes_clear (h : Hall) (l : List NoticeBody) : (h.notes l).clear = h.clear := rfl
@[simp] theorem notes_said (h : Hall) (l : List NoticeBody) : (h.notes l).said = h.said := rfl
@[simp] theorem notes_emit (h : Hall) (l : List NoticeBody) : (h.notes l).emit = h.emit ++ l := rfl

@[simp] theorem say_mode (h : Hall) (r : Reply) : (h.say r).mode = h.mode := rfl
@[simp] theorem say_banks (h : Hall) (r : Reply) : (h.say r).banks = h.banks := rfl
@[simp] theorem say_changes (h : Hall) (r : Reply) : (h.say r).changes = h.changes := rfl
@[simp] theorem say_asg (h : Hall) (r : Reply) : (h.say r).asg = h.asg := rfl
@[simp] theorem say_stack (h : Hall) (r : Reply) : (h.say r).stack = h.stack := rfl
@[simp] theorem say_deferral (h : Hall) (r : Reply) : (h.say r).deferral = h.deferral := rfl
@[simp] theorem say_idle (h : Hall) (r : Reply) : (h.say r).idle = h.idle := rfl
@[simp] theorem say_adopt (h : Hall) (r : Reply) : (h.say r).adopt = h.adopt := rfl
@[simp] theorem say_adoptedS (h : Hall) (r : Reply) : (h.say r).adoptedS = h.adoptedS := rfl
@[simp] theorem say_adoptedF (h : Hall) (r : Reply) : (h.say r).adoptedF = h.adoptedF := rfl
@[simp] theorem say_alloc (h : Hall) (r : Reply) : (h.say r).alloc = h.alloc := rfl
@[simp] theorem say_path (h : Hall) (r : Reply) : (h.say r).path = h.path := rfl
@[simp] theorem say_tx (h : Hall) (r : Reply) : (h.say r).tx = h.tx := rfl
@[simp] theorem say_sense (h : Hall) (r : Reply) : (h.say r).sense = h.sense := rfl
@[simp] theorem say_holds (h : Hall) (r : Reply) : (h.say r).holds = h.holds := rfl
@[simp] theorem say_dslot (h : Hall) (r : Reply) : (h.say r).dslot = h.dslot := rfl
@[simp] theorem say_running (h : Hall) (r : Reply) : (h.say r).running = h.running := rfl
@[simp] theorem say_dlast (h : Hall) (r : Reply) : (h.say r).dlast = h.dlast := rfl
@[simp] theorem say_faults (h : Hall) (r : Reply) : (h.say r).faults = h.faults := rfl
@[simp] theorem say_clear (h : Hall) (r : Reply) : (h.say r).clear = h.clear := rfl
@[simp] theorem say_said (h : Hall) (r : Reply) : (h.say r).said = h.said ++ [r] := rfl
@[simp] theorem say_emit (h : Hall) (r : Reply) : (h.say r).emit = h.emit := rfl

@[simp] theorem wantAlloc_mode (h : Hall) : (h.wantAlloc).mode = h.mode := rfl
@[simp] theorem wantAlloc_banks (h : Hall) : (h.wantAlloc).banks = h.banks := rfl
@[simp] theorem wantAlloc_changes (h : Hall) : (h.wantAlloc).changes = h.changes := rfl
@[simp] theorem wantAlloc_asg (h : Hall) : (h.wantAlloc).asg = h.asg := rfl
@[simp] theorem wantAlloc_stack (h : Hall) : (h.wantAlloc).stack = h.stack := rfl
@[simp] theorem wantAlloc_deferral (h : Hall) : (h.wantAlloc).deferral = h.deferral := rfl
@[simp] theorem wantAlloc_idle (h : Hall) : (h.wantAlloc).idle = h.idle := rfl
@[simp] theorem wantAlloc_adopt (h : Hall) : (h.wantAlloc).adopt = h.adopt := rfl
@[simp] theorem wantAlloc_adoptedS (h : Hall) : (h.wantAlloc).adoptedS = h.adoptedS := rfl
@[simp] theorem wantAlloc_adoptedF (h : Hall) : (h.wantAlloc).adoptedF = h.adoptedF := rfl
@[simp] theorem wantAlloc_alloc (h : Hall) : (h.wantAlloc).alloc = true := rfl
@[simp] theorem wantAlloc_path (h : Hall) : (h.wantAlloc).path = h.path := rfl
@[simp] theorem wantAlloc_tx (h : Hall) : (h.wantAlloc).tx = h.tx := rfl
@[simp] theorem wantAlloc_sense (h : Hall) : (h.wantAlloc).sense = h.sense := rfl
@[simp] theorem wantAlloc_holds (h : Hall) : (h.wantAlloc).holds = h.holds := rfl
@[simp] theorem wantAlloc_dslot (h : Hall) : (h.wantAlloc).dslot = h.dslot := rfl
@[simp] theorem wantAlloc_running (h : Hall) : (h.wantAlloc).running = h.running := rfl
@[simp] theorem wantAlloc_dlast (h : Hall) : (h.wantAlloc).dlast = h.dlast := rfl
@[simp] theorem wantAlloc_faults (h : Hall) : (h.wantAlloc).faults = h.faults := rfl
@[simp] theorem wantAlloc_clear (h : Hall) : (h.wantAlloc).clear = h.clear := rfl
@[simp] theorem wantAlloc_said (h : Hall) : (h.wantAlloc).said = h.said := rfl
@[simp] theorem wantAlloc_emit (h : Hall) : (h.wantAlloc).emit = h.emit := rfl

@[simp] theorem setTx_mode (h : Hall) (t : Tx) (f : TxRec → TxRec) : (h.setTx t f).mode = h.mode := rfl
@[simp] theorem setTx_banks (h : Hall) (t : Tx) (f : TxRec → TxRec) : (h.setTx t f).banks = h.banks := rfl
@[simp] theorem setTx_changes (h : Hall) (t : Tx) (f : TxRec → TxRec) : (h.setTx t f).changes = h.changes := rfl
@[simp] theorem setTx_asg (h : Hall) (t : Tx) (f : TxRec → TxRec) : (h.setTx t f).asg = h.asg := rfl
@[simp] theorem setTx_stack (h : Hall) (t : Tx) (f : TxRec → TxRec) : (h.setTx t f).stack = h.stack := rfl
@[simp] theorem setTx_deferral (h : Hall) (t : Tx) (f : TxRec → TxRec) : (h.setTx t f).deferral = h.deferral := rfl
@[simp] theorem setTx_idle (h : Hall) (t : Tx) (f : TxRec → TxRec) : (h.setTx t f).idle = h.idle := rfl
@[simp] theorem setTx_adopt (h : Hall) (t : Tx) (f : TxRec → TxRec) : (h.setTx t f).adopt = h.adopt := rfl
@[simp] theorem setTx_adoptedS (h : Hall) (t : Tx) (f : TxRec → TxRec) : (h.setTx t f).adoptedS = h.adoptedS := rfl
@[simp] theorem setTx_adoptedF (h : Hall) (t : Tx) (f : TxRec → TxRec) : (h.setTx t f).adoptedF = h.adoptedF := rfl
@[simp] theorem setTx_alloc (h : Hall) (t : Tx) (f : TxRec → TxRec) : (h.setTx t f).alloc = h.alloc := rfl
@[simp] theorem setTx_path (h : Hall) (t : Tx) (f : TxRec → TxRec) : (h.setTx t f).path = h.path := rfl
@[simp] theorem setTx_tx (h : Hall) (t : Tx) (f : TxRec → TxRec) : (h.setTx t f).tx = upd h.tx t f := rfl
@[simp] theorem setTx_sense (h : Hall) (t : Tx) (f : TxRec → TxRec) : (h.setTx t f).sense = h.sense := rfl
@[simp] theorem setTx_holds (h : Hall) (t : Tx) (f : TxRec → TxRec) : (h.setTx t f).holds = h.holds := rfl
@[simp] theorem setTx_dslot (h : Hall) (t : Tx) (f : TxRec → TxRec) : (h.setTx t f).dslot = h.dslot := rfl
@[simp] theorem setTx_running (h : Hall) (t : Tx) (f : TxRec → TxRec) : (h.setTx t f).running = h.running := rfl
@[simp] theorem setTx_dlast (h : Hall) (t : Tx) (f : TxRec → TxRec) : (h.setTx t f).dlast = h.dlast := rfl
@[simp] theorem setTx_faults (h : Hall) (t : Tx) (f : TxRec → TxRec) : (h.setTx t f).faults = h.faults := rfl
@[simp] theorem setTx_clear (h : Hall) (t : Tx) (f : TxRec → TxRec) : (h.setTx t f).clear = h.clear := rfl
@[simp] theorem setTx_said (h : Hall) (t : Tx) (f : TxRec → TxRec) : (h.setTx t f).said = h.said := rfl
@[simp] theorem setTx_emit (h : Hall) (t : Tx) (f : TxRec → TxRec) : (h.setTx t f).emit = h.emit := rfl

@[simp] theorem setAsg_mode (h : Hall) (t : Tx) (a : Option Asg) : (h.setAsg t a).mode = h.mode := rfl
@[simp] theorem setAsg_banks (h : Hall) (t : Tx) (a : Option Asg) : (h.setAsg t a).banks = h.banks := rfl
@[simp] theorem setAsg_changes (h : Hall) (t : Tx) (a : Option Asg) : (h.setAsg t a).changes = h.changes := rfl
@[simp] theorem setAsg_asg (h : Hall) (t : Tx) (a : Option Asg) : (h.setAsg t a).asg = upd h.asg t fun _ => a := rfl
@[simp] theorem setAsg_stack (h : Hall) (t : Tx) (a : Option Asg) : (h.setAsg t a).stack = h.stack := rfl
@[simp] theorem setAsg_deferral (h : Hall) (t : Tx) (a : Option Asg) : (h.setAsg t a).deferral = h.deferral := rfl
@[simp] theorem setAsg_idle (h : Hall) (t : Tx) (a : Option Asg) : (h.setAsg t a).idle = h.idle := rfl
@[simp] theorem setAsg_adopt (h : Hall) (t : Tx) (a : Option Asg) : (h.setAsg t a).adopt = h.adopt := rfl
@[simp] theorem setAsg_adoptedS (h : Hall) (t : Tx) (a : Option Asg) : (h.setAsg t a).adoptedS = h.adoptedS := rfl
@[simp] theorem setAsg_adoptedF (h : Hall) (t : Tx) (a : Option Asg) : (h.setAsg t a).adoptedF = h.adoptedF := rfl
@[simp] theorem setAsg_alloc (h : Hall) (t : Tx) (a : Option Asg) : (h.setAsg t a).alloc = h.alloc := rfl
@[simp] theorem setAsg_path (h : Hall) (t : Tx) (a : Option Asg) : (h.setAsg t a).path = h.path := rfl
@[simp] theorem setAsg_tx (h : Hall) (t : Tx) (a : Option Asg) : (h.setAsg t a).tx = h.tx := rfl
@[simp] theorem setAsg_sense (h : Hall) (t : Tx) (a : Option Asg) : (h.setAsg t a).sense = h.sense := rfl
@[simp] theorem setAsg_holds (h : Hall) (t : Tx) (a : Option Asg) : (h.setAsg t a).holds = h.holds := rfl
@[simp] theorem setAsg_dslot (h : Hall) (t : Tx) (a : Option Asg) : (h.setAsg t a).dslot = h.dslot := rfl
@[simp] theorem setAsg_running (h : Hall) (t : Tx) (a : Option Asg) : (h.setAsg t a).running = h.running := rfl
@[simp] theorem setAsg_dlast (h : Hall) (t : Tx) (a : Option Asg) : (h.setAsg t a).dlast = h.dlast := rfl
@[simp] theorem setAsg_faults (h : Hall) (t : Tx) (a : Option Asg) : (h.setAsg t a).faults = h.faults := rfl
@[simp] theorem setAsg_clear (h : Hall) (t : Tx) (a : Option Asg) : (h.setAsg t a).clear = h.clear := rfl
@[simp] theorem setAsg_said (h : Hall) (t : Tx) (a : Option Asg) : (h.setAsg t a).said = h.said := rfl
@[simp] theorem setAsg_emit (h : Hall) (t : Tx) (a : Option Asg) : (h.setAsg t a).emit = h.emit := rfl

@[simp] theorem mapAsg_mode (h : Hall) (t : Tx) (f : Asg → Asg) : (h.mapAsg t f).mode = h.mode := rfl
@[simp] theorem mapAsg_banks (h : Hall) (t : Tx) (f : Asg → Asg) : (h.mapAsg t f).banks = h.banks := rfl
@[simp] theorem mapAsg_changes (h : Hall) (t : Tx) (f : Asg → Asg) : (h.mapAsg t f).changes = h.changes := rfl
@[simp] theorem mapAsg_asg (h : Hall) (t : Tx) (f : Asg → Asg) : (h.mapAsg t f).asg = upd h.asg t (Option.map f) := rfl
@[simp] theorem mapAsg_stack (h : Hall) (t : Tx) (f : Asg → Asg) : (h.mapAsg t f).stack = h.stack := rfl
@[simp] theorem mapAsg_deferral (h : Hall) (t : Tx) (f : Asg → Asg) : (h.mapAsg t f).deferral = h.deferral := rfl
@[simp] theorem mapAsg_idle (h : Hall) (t : Tx) (f : Asg → Asg) : (h.mapAsg t f).idle = h.idle := rfl
@[simp] theorem mapAsg_adopt (h : Hall) (t : Tx) (f : Asg → Asg) : (h.mapAsg t f).adopt = h.adopt := rfl
@[simp] theorem mapAsg_adoptedS (h : Hall) (t : Tx) (f : Asg → Asg) : (h.mapAsg t f).adoptedS = h.adoptedS := rfl
@[simp] theorem mapAsg_adoptedF (h : Hall) (t : Tx) (f : Asg → Asg) : (h.mapAsg t f).adoptedF = h.adoptedF := rfl
@[simp] theorem mapAsg_alloc (h : Hall) (t : Tx) (f : Asg → Asg) : (h.mapAsg t f).alloc = h.alloc := rfl
@[simp] theorem mapAsg_path (h : Hall) (t : Tx) (f : Asg → Asg) : (h.mapAsg t f).path = h.path := rfl
@[simp] theorem mapAsg_tx (h : Hall) (t : Tx) (f : Asg → Asg) : (h.mapAsg t f).tx = h.tx := rfl
@[simp] theorem mapAsg_sense (h : Hall) (t : Tx) (f : Asg → Asg) : (h.mapAsg t f).sense = h.sense := rfl
@[simp] theorem mapAsg_holds (h : Hall) (t : Tx) (f : Asg → Asg) : (h.mapAsg t f).holds = h.holds := rfl
@[simp] theorem mapAsg_dslot (h : Hall) (t : Tx) (f : Asg → Asg) : (h.mapAsg t f).dslot = h.dslot := rfl
@[simp] theorem mapAsg_running (h : Hall) (t : Tx) (f : Asg → Asg) : (h.mapAsg t f).running = h.running := rfl
@[simp] theorem mapAsg_dlast (h : Hall) (t : Tx) (f : Asg → Asg) : (h.mapAsg t f).dlast = h.dlast := rfl
@[simp] theorem mapAsg_faults (h : Hall) (t : Tx) (f : Asg → Asg) : (h.mapAsg t f).faults = h.faults := rfl
@[simp] theorem mapAsg_clear (h : Hall) (t : Tx) (f : Asg → Asg) : (h.mapAsg t f).clear = h.clear := rfl
@[simp] theorem mapAsg_said (h : Hall) (t : Tx) (f : Asg → Asg) : (h.mapAsg t f).said = h.said := rfl
@[simp] theorem mapAsg_emit (h : Hall) (t : Tx) (f : Asg → Asg) : (h.mapAsg t f).emit = h.emit := rfl

@[simp] theorem setStack_mode (h : Hall) (t : Tx) (l : List StackItem) : (h.setStack t l).mode = h.mode := rfl
@[simp] theorem setStack_banks (h : Hall) (t : Tx) (l : List StackItem) : (h.setStack t l).banks = h.banks := rfl
@[simp] theorem setStack_changes (h : Hall) (t : Tx) (l : List StackItem) : (h.setStack t l).changes = h.changes := rfl
@[simp] theorem setStack_asg (h : Hall) (t : Tx) (l : List StackItem) : (h.setStack t l).asg = h.asg := rfl
@[simp] theorem setStack_stack (h : Hall) (t : Tx) (l : List StackItem) : (h.setStack t l).stack = upd h.stack t fun _ => l := rfl
@[simp] theorem setStack_deferral (h : Hall) (t : Tx) (l : List StackItem) : (h.setStack t l).deferral = h.deferral := rfl
@[simp] theorem setStack_idle (h : Hall) (t : Tx) (l : List StackItem) : (h.setStack t l).idle = h.idle := rfl
@[simp] theorem setStack_adopt (h : Hall) (t : Tx) (l : List StackItem) : (h.setStack t l).adopt = h.adopt := rfl
@[simp] theorem setStack_adoptedS (h : Hall) (t : Tx) (l : List StackItem) : (h.setStack t l).adoptedS = h.adoptedS := rfl
@[simp] theorem setStack_adoptedF (h : Hall) (t : Tx) (l : List StackItem) : (h.setStack t l).adoptedF = h.adoptedF := rfl
@[simp] theorem setStack_alloc (h : Hall) (t : Tx) (l : List StackItem) : (h.setStack t l).alloc = h.alloc := rfl
@[simp] theorem setStack_path (h : Hall) (t : Tx) (l : List StackItem) : (h.setStack t l).path = h.path := rfl
@[simp] theorem setStack_tx (h : Hall) (t : Tx) (l : List StackItem) : (h.setStack t l).tx = h.tx := rfl
@[simp] theorem setStack_sense (h : Hall) (t : Tx) (l : List StackItem) : (h.setStack t l).sense = h.sense := rfl
@[simp] theorem setStack_holds (h : Hall) (t : Tx) (l : List StackItem) : (h.setStack t l).holds = h.holds := rfl
@[simp] theorem setStack_dslot (h : Hall) (t : Tx) (l : List StackItem) : (h.setStack t l).dslot = h.dslot := rfl
@[simp] theorem setStack_running (h : Hall) (t : Tx) (l : List StackItem) : (h.setStack t l).running = h.running := rfl
@[simp] theorem setStack_dlast (h : Hall) (t : Tx) (l : List StackItem) : (h.setStack t l).dlast = h.dlast := rfl
@[simp] theorem setStack_faults (h : Hall) (t : Tx) (l : List StackItem) : (h.setStack t l).faults = h.faults := rfl
@[simp] theorem setStack_clear (h : Hall) (t : Tx) (l : List StackItem) : (h.setStack t l).clear = h.clear := rfl
@[simp] theorem setStack_said (h : Hall) (t : Tx) (l : List StackItem) : (h.setStack t l).said = h.said := rfl
@[simp] theorem setStack_emit (h : Hall) (t : Tx) (l : List StackItem) : (h.setStack t l).emit = h.emit := rfl

@[simp] theorem setPath_mode (h : Hall) (f : Path → Path) : (h.setPath f).mode = h.mode := rfl
@[simp] theorem setPath_banks (h : Hall) (f : Path → Path) : (h.setPath f).banks = h.banks := rfl
@[simp] theorem setPath_changes (h : Hall) (f : Path → Path) : (h.setPath f).changes = h.changes := rfl
@[simp] theorem setPath_asg (h : Hall) (f : Path → Path) : (h.setPath f).asg = h.asg := rfl
@[simp] theorem setPath_stack (h : Hall) (f : Path → Path) : (h.setPath f).stack = h.stack := rfl
@[simp] theorem setPath_deferral (h : Hall) (f : Path → Path) : (h.setPath f).deferral = h.deferral := rfl
@[simp] theorem setPath_idle (h : Hall) (f : Path → Path) : (h.setPath f).idle = h.idle := rfl
@[simp] theorem setPath_adopt (h : Hall) (f : Path → Path) : (h.setPath f).adopt = h.adopt := rfl
@[simp] theorem setPath_adoptedS (h : Hall) (f : Path → Path) : (h.setPath f).adoptedS = h.adoptedS := rfl
@[simp] theorem setPath_adoptedF (h : Hall) (f : Path → Path) : (h.setPath f).adoptedF = h.adoptedF := rfl
@[simp] theorem setPath_alloc (h : Hall) (f : Path → Path) : (h.setPath f).alloc = h.alloc := rfl
@[simp] theorem setPath_path (h : Hall) (f : Path → Path) : (h.setPath f).path = f h.path := rfl
@[simp] theorem setPath_tx (h : Hall) (f : Path → Path) : (h.setPath f).tx = h.tx := rfl
@[simp] theorem setPath_sense (h : Hall) (f : Path → Path) : (h.setPath f).sense = h.sense := rfl
@[simp] theorem setPath_holds (h : Hall) (f : Path → Path) : (h.setPath f).holds = h.holds := rfl
@[simp] theorem setPath_dslot (h : Hall) (f : Path → Path) : (h.setPath f).dslot = h.dslot := rfl
@[simp] theorem setPath_running (h : Hall) (f : Path → Path) : (h.setPath f).running = h.running := rfl
@[simp] theorem setPath_dlast (h : Hall) (f : Path → Path) : (h.setPath f).dlast = h.dlast := rfl
@[simp] theorem setPath_faults (h : Hall) (f : Path → Path) : (h.setPath f).faults = h.faults := rfl
@[simp] theorem setPath_clear (h : Hall) (f : Path → Path) : (h.setPath f).clear = h.clear := rfl
@[simp] theorem setPath_said (h : Hall) (f : Path → Path) : (h.setPath f).said = h.said := rfl
@[simp] theorem setPath_emit (h : Hall) (f : Path → Path) : (h.setPath f).emit = h.emit := rfl

@[simp] theorem setSeq_mode (h : Hall) (t : Tx) (f : PathSeq → PathSeq) : (h.setSeq t f).mode = h.mode := rfl
@[simp] theorem setSeq_banks (h : Hall) (t : Tx) (f : PathSeq → PathSeq) : (h.setSeq t f).banks = h.banks := rfl
@[simp] theorem setSeq_changes (h : Hall) (t : Tx) (f : PathSeq → PathSeq) : (h.setSeq t f).changes = h.changes := rfl
@[simp] theorem setSeq_asg (h : Hall) (t : Tx) (f : PathSeq → PathSeq) : (h.setSeq t f).asg = h.asg := rfl
@[simp] theorem setSeq_stack (h : Hall) (t : Tx) (f : PathSeq → PathSeq) : (h.setSeq t f).stack = h.stack := rfl
@[simp] theorem setSeq_deferral (h : Hall) (t : Tx) (f : PathSeq → PathSeq) : (h.setSeq t f).deferral = h.deferral := rfl
@[simp] theorem setSeq_idle (h : Hall) (t : Tx) (f : PathSeq → PathSeq) : (h.setSeq t f).idle = h.idle := rfl
@[simp] theorem setSeq_adopt (h : Hall) (t : Tx) (f : PathSeq → PathSeq) : (h.setSeq t f).adopt = h.adopt := rfl
@[simp] theorem setSeq_adoptedS (h : Hall) (t : Tx) (f : PathSeq → PathSeq) : (h.setSeq t f).adoptedS = h.adoptedS := rfl
@[simp] theorem setSeq_adoptedF (h : Hall) (t : Tx) (f : PathSeq → PathSeq) : (h.setSeq t f).adoptedF = h.adoptedF := rfl
@[simp] theorem setSeq_alloc (h : Hall) (t : Tx) (f : PathSeq → PathSeq) : (h.setSeq t f).alloc = h.alloc := rfl
@[simp] theorem setSeq_path (h : Hall) (t : Tx) (f : PathSeq → PathSeq) : (h.setSeq t f).path = { h.path with seqs := upd h.path.seqs t f } := rfl
@[simp] theorem setSeq_tx (h : Hall) (t : Tx) (f : PathSeq → PathSeq) : (h.setSeq t f).tx = h.tx := rfl
@[simp] theorem setSeq_sense (h : Hall) (t : Tx) (f : PathSeq → PathSeq) : (h.setSeq t f).sense = h.sense := rfl
@[simp] theorem setSeq_holds (h : Hall) (t : Tx) (f : PathSeq → PathSeq) : (h.setSeq t f).holds = h.holds := rfl
@[simp] theorem setSeq_dslot (h : Hall) (t : Tx) (f : PathSeq → PathSeq) : (h.setSeq t f).dslot = h.dslot := rfl
@[simp] theorem setSeq_running (h : Hall) (t : Tx) (f : PathSeq → PathSeq) : (h.setSeq t f).running = h.running := rfl
@[simp] theorem setSeq_dlast (h : Hall) (t : Tx) (f : PathSeq → PathSeq) : (h.setSeq t f).dlast = h.dlast := rfl
@[simp] theorem setSeq_faults (h : Hall) (t : Tx) (f : PathSeq → PathSeq) : (h.setSeq t f).faults = h.faults := rfl
@[simp] theorem setSeq_clear (h : Hall) (t : Tx) (f : PathSeq → PathSeq) : (h.setSeq t f).clear = h.clear := rfl
@[simp] theorem setSeq_said (h : Hall) (t : Tx) (f : PathSeq → PathSeq) : (h.setSeq t f).said = h.said := rfl
@[simp] theorem setSeq_emit (h : Hall) (t : Tx) (f : PathSeq → PathSeq) : (h.setSeq t f).emit = h.emit := rfl

@[simp] theorem setOwner_mode (h : Hall) (o : Out) (w : Option Tx) : (h.setOwner o w).mode = h.mode := rfl
@[simp] theorem setOwner_banks (h : Hall) (o : Out) (w : Option Tx) : (h.setOwner o w).banks = h.banks := rfl
@[simp] theorem setOwner_changes (h : Hall) (o : Out) (w : Option Tx) : (h.setOwner o w).changes = h.changes := rfl
@[simp] theorem setOwner_asg (h : Hall) (o : Out) (w : Option Tx) : (h.setOwner o w).asg = h.asg := rfl
@[simp] theorem setOwner_stack (h : Hall) (o : Out) (w : Option Tx) : (h.setOwner o w).stack = h.stack := rfl
@[simp] theorem setOwner_deferral (h : Hall) (o : Out) (w : Option Tx) : (h.setOwner o w).deferral = h.deferral := rfl
@[simp] theorem setOwner_idle (h : Hall) (o : Out) (w : Option Tx) : (h.setOwner o w).idle = h.idle := rfl
@[simp] theorem setOwner_adopt (h : Hall) (o : Out) (w : Option Tx) : (h.setOwner o w).adopt = h.adopt := rfl
@[simp] theorem setOwner_adoptedS (h : Hall) (o : Out) (w : Option Tx) : (h.setOwner o w).adoptedS = h.adoptedS := rfl
@[simp] theorem setOwner_adoptedF (h : Hall) (o : Out) (w : Option Tx) : (h.setOwner o w).adoptedF = h.adoptedF := rfl
@[simp] theorem setOwner_alloc (h : Hall) (o : Out) (w : Option Tx) : (h.setOwner o w).alloc = h.alloc := rfl
@[simp] theorem setOwner_path (h : Hall) (o : Out) (w : Option Tx) : (h.setOwner o w).path = { h.path with owner := upd h.path.owner o fun _ => w } := rfl
@[simp] theorem setOwner_tx (h : Hall) (o : Out) (w : Option Tx) : (h.setOwner o w).tx = h.tx := rfl
@[simp] theorem setOwner_sense (h : Hall) (o : Out) (w : Option Tx) : (h.setOwner o w).sense = h.sense := rfl
@[simp] theorem setOwner_holds (h : Hall) (o : Out) (w : Option Tx) : (h.setOwner o w).holds = h.holds := rfl
@[simp] theorem setOwner_dslot (h : Hall) (o : Out) (w : Option Tx) : (h.setOwner o w).dslot = h.dslot := rfl
@[simp] theorem setOwner_running (h : Hall) (o : Out) (w : Option Tx) : (h.setOwner o w).running = h.running := rfl
@[simp] theorem setOwner_dlast (h : Hall) (o : Out) (w : Option Tx) : (h.setOwner o w).dlast = h.dlast := rfl
@[simp] theorem setOwner_faults (h : Hall) (o : Out) (w : Option Tx) : (h.setOwner o w).faults = h.faults := rfl
@[simp] theorem setOwner_clear (h : Hall) (o : Out) (w : Option Tx) : (h.setOwner o w).clear = h.clear := rfl
@[simp] theorem setOwner_said (h : Hall) (o : Out) (w : Option Tx) : (h.setOwner o w).said = h.said := rfl
@[simp] theorem setOwner_emit (h : Hall) (o : Out) (w : Option Tx) : (h.setOwner o w).emit = h.emit := rfl

@[simp] theorem setCol_mode (h : Hall) (o : Out) (f : Col → Col) : (h.setCol o f).mode = h.mode := rfl
@[simp] theorem setCol_banks (h : Hall) (o : Out) (f : Col → Col) : (h.setCol o f).banks = h.banks := rfl
@[simp] theorem setCol_changes (h : Hall) (o : Out) (f : Col → Col) : (h.setCol o f).changes = h.changes := rfl
@[simp] theorem setCol_asg (h : Hall) (o : Out) (f : Col → Col) : (h.setCol o f).asg = h.asg := rfl
@[simp] theorem setCol_stack (h : Hall) (o : Out) (f : Col → Col) : (h.setCol o f).stack = h.stack := rfl
@[simp] theorem setCol_deferral (h : Hall) (o : Out) (f : Col → Col) : (h.setCol o f).deferral = h.deferral := rfl
@[simp] theorem setCol_idle (h : Hall) (o : Out) (f : Col → Col) : (h.setCol o f).idle = h.idle := rfl
@[simp] theorem setCol_adopt (h : Hall) (o : Out) (f : Col → Col) : (h.setCol o f).adopt = h.adopt := rfl
@[simp] theorem setCol_adoptedS (h : Hall) (o : Out) (f : Col → Col) : (h.setCol o f).adoptedS = h.adoptedS := rfl
@[simp] theorem setCol_adoptedF (h : Hall) (o : Out) (f : Col → Col) : (h.setCol o f).adoptedF = h.adoptedF := rfl
@[simp] theorem setCol_alloc (h : Hall) (o : Out) (f : Col → Col) : (h.setCol o f).alloc = h.alloc := rfl
@[simp] theorem setCol_path (h : Hall) (o : Out) (f : Col → Col) : (h.setCol o f).path = { h.path with cols := upd h.path.cols o f } := rfl
@[simp] theorem setCol_tx (h : Hall) (o : Out) (f : Col → Col) : (h.setCol o f).tx = h.tx := rfl
@[simp] theorem setCol_sense (h : Hall) (o : Out) (f : Col → Col) : (h.setCol o f).sense = h.sense := rfl
@[simp] theorem setCol_holds (h : Hall) (o : Out) (f : Col → Col) : (h.setCol o f).holds = h.holds := rfl
@[simp] theorem setCol_dslot (h : Hall) (o : Out) (f : Col → Col) : (h.setCol o f).dslot = h.dslot := rfl
@[simp] theorem setCol_running (h : Hall) (o : Out) (f : Col → Col) : (h.setCol o f).running = h.running := rfl
@[simp] theorem setCol_dlast (h : Hall) (o : Out) (f : Col → Col) : (h.setCol o f).dlast = h.dlast := rfl
@[simp] theorem setCol_faults (h : Hall) (o : Out) (f : Col → Col) : (h.setCol o f).faults = h.faults := rfl
@[simp] theorem setCol_clear (h : Hall) (o : Out) (f : Col → Col) : (h.setCol o f).clear = h.clear := rfl
@[simp] theorem setCol_said (h : Hall) (o : Out) (f : Col → Col) : (h.setCol o f).said = h.said := rfl
@[simp] theorem setCol_emit (h : Hall) (o : Out) (f : Col → Col) : (h.setCol o f).emit = h.emit := rfl

@[simp] theorem setColCmd_mode (h : Hall) (o : Out) (c : ColCmd) : (h.setColCmd o c).mode = h.mode := rfl
@[simp] theorem setColCmd_banks (h : Hall) (o : Out) (c : ColCmd) : (h.setColCmd o c).banks = h.banks := rfl
@[simp] theorem setColCmd_changes (h : Hall) (o : Out) (c : ColCmd) : (h.setColCmd o c).changes = h.changes := rfl
@[simp] theorem setColCmd_asg (h : Hall) (o : Out) (c : ColCmd) : (h.setColCmd o c).asg = h.asg := rfl
@[simp] theorem setColCmd_stack (h : Hall) (o : Out) (c : ColCmd) : (h.setColCmd o c).stack = h.stack := rfl
@[simp] theorem setColCmd_deferral (h : Hall) (o : Out) (c : ColCmd) : (h.setColCmd o c).deferral = h.deferral := rfl
@[simp] theorem setColCmd_idle (h : Hall) (o : Out) (c : ColCmd) : (h.setColCmd o c).idle = h.idle := rfl
@[simp] theorem setColCmd_adopt (h : Hall) (o : Out) (c : ColCmd) : (h.setColCmd o c).adopt = h.adopt := rfl
@[simp] theorem setColCmd_adoptedS (h : Hall) (o : Out) (c : ColCmd) : (h.setColCmd o c).adoptedS = h.adoptedS := rfl
@[simp] theorem setColCmd_adoptedF (h : Hall) (o : Out) (c : ColCmd) : (h.setColCmd o c).adoptedF = h.adoptedF := rfl
@[simp] theorem setColCmd_alloc (h : Hall) (o : Out) (c : ColCmd) : (h.setColCmd o c).alloc = h.alloc := rfl
@[simp] theorem setColCmd_path (h : Hall) (o : Out) (c : ColCmd) : (h.setColCmd o c).path = { h.path with colCmd := upd h.path.colCmd o fun _ => some c } := rfl
@[simp] theorem setColCmd_tx (h : Hall) (o : Out) (c : ColCmd) : (h.setColCmd o c).tx = h.tx := rfl
@[simp] theorem setColCmd_sense (h : Hall) (o : Out) (c : ColCmd) : (h.setColCmd o c).sense = h.sense := rfl
@[simp] theorem setColCmd_holds (h : Hall) (o : Out) (c : ColCmd) : (h.setColCmd o c).holds = h.holds := rfl
@[simp] theorem setColCmd_dslot (h : Hall) (o : Out) (c : ColCmd) : (h.setColCmd o c).dslot = h.dslot := rfl
@[simp] theorem setColCmd_running (h : Hall) (o : Out) (c : ColCmd) : (h.setColCmd o c).running = h.running := rfl
@[simp] theorem setColCmd_dlast (h : Hall) (o : Out) (c : ColCmd) : (h.setColCmd o c).dlast = h.dlast := rfl
@[simp] theorem setColCmd_faults (h : Hall) (o : Out) (c : ColCmd) : (h.setColCmd o c).faults = h.faults := rfl
@[simp] theorem setColCmd_clear (h : Hall) (o : Out) (c : ColCmd) : (h.setColCmd o c).clear = h.clear := rfl
@[simp] theorem setColCmd_said (h : Hall) (o : Out) (c : ColCmd) : (h.setColCmd o c).said = h.said := rfl
@[simp] theorem setColCmd_emit (h : Hall) (o : Out) (c : ColCmd) : (h.setColCmd o c).emit = h.emit := rfl

@[simp] theorem setXpt_mode (h : Hall) (t : Tx) (o : Out) (f : Xpt → Xpt) : (h.setXpt t o f).mode = h.mode := rfl
@[simp] theorem setXpt_banks (h : Hall) (t : Tx) (o : Out) (f : Xpt → Xpt) : (h.setXpt t o f).banks = h.banks := rfl
@[simp] theorem setXpt_changes (h : Hall) (t : Tx) (o : Out) (f : Xpt → Xpt) : (h.setXpt t o f).changes = h.changes := rfl
@[simp] theorem setXpt_asg (h : Hall) (t : Tx) (o : Out) (f : Xpt → Xpt) : (h.setXpt t o f).asg = h.asg := rfl
@[simp] theorem setXpt_stack (h : Hall) (t : Tx) (o : Out) (f : Xpt → Xpt) : (h.setXpt t o f).stack = h.stack := rfl
@[simp] theorem setXpt_deferral (h : Hall) (t : Tx) (o : Out) (f : Xpt → Xpt) : (h.setXpt t o f).deferral = h.deferral := rfl
@[simp] theorem setXpt_idle (h : Hall) (t : Tx) (o : Out) (f : Xpt → Xpt) : (h.setXpt t o f).idle = h.idle := rfl
@[simp] theorem setXpt_adopt (h : Hall) (t : Tx) (o : Out) (f : Xpt → Xpt) : (h.setXpt t o f).adopt = h.adopt := rfl
@[simp] theorem setXpt_adoptedS (h : Hall) (t : Tx) (o : Out) (f : Xpt → Xpt) : (h.setXpt t o f).adoptedS = h.adoptedS := rfl
@[simp] theorem setXpt_adoptedF (h : Hall) (t : Tx) (o : Out) (f : Xpt → Xpt) : (h.setXpt t o f).adoptedF = h.adoptedF := rfl
@[simp] theorem setXpt_alloc (h : Hall) (t : Tx) (o : Out) (f : Xpt → Xpt) : (h.setXpt t o f).alloc = h.alloc := rfl
@[simp] theorem setXpt_path (h : Hall) (t : Tx) (o : Out) (f : Xpt → Xpt) : (h.setXpt t o f).path = { h.path with xpt := upd h.path.xpt o fun col => upd col t f } := rfl
@[simp] theorem setXpt_tx (h : Hall) (t : Tx) (o : Out) (f : Xpt → Xpt) : (h.setXpt t o f).tx = h.tx := rfl
@[simp] theorem setXpt_sense (h : Hall) (t : Tx) (o : Out) (f : Xpt → Xpt) : (h.setXpt t o f).sense = h.sense := rfl
@[simp] theorem setXpt_holds (h : Hall) (t : Tx) (o : Out) (f : Xpt → Xpt) : (h.setXpt t o f).holds = h.holds := rfl
@[simp] theorem setXpt_dslot (h : Hall) (t : Tx) (o : Out) (f : Xpt → Xpt) : (h.setXpt t o f).dslot = h.dslot := rfl
@[simp] theorem setXpt_running (h : Hall) (t : Tx) (o : Out) (f : Xpt → Xpt) : (h.setXpt t o f).running = h.running := rfl
@[simp] theorem setXpt_dlast (h : Hall) (t : Tx) (o : Out) (f : Xpt → Xpt) : (h.setXpt t o f).dlast = h.dlast := rfl
@[simp] theorem setXpt_faults (h : Hall) (t : Tx) (o : Out) (f : Xpt → Xpt) : (h.setXpt t o f).faults = h.faults := rfl
@[simp] theorem setXpt_clear (h : Hall) (t : Tx) (o : Out) (f : Xpt → Xpt) : (h.setXpt t o f).clear = h.clear := rfl
@[simp] theorem setXpt_said (h : Hall) (t : Tx) (o : Out) (f : Xpt → Xpt) : (h.setXpt t o f).said = h.said := rfl
@[simp] theorem setXpt_emit (h : Hall) (t : Tx) (o : Out) (f : Xpt → Xpt) : (h.setXpt t o f).emit = h.emit := rfl

@[simp] theorem setPos_mode (h : Hall) (o : Out) (p : Option Pos) : (h.setPos o p).mode = h.mode := rfl
@[simp] theorem setPos_banks (h : Hall) (o : Out) (p : Option Pos) : (h.setPos o p).banks = h.banks := rfl
@[simp] theorem setPos_changes (h : Hall) (o : Out) (p : Option Pos) : (h.setPos o p).changes = h.changes := rfl
@[simp] theorem setPos_asg (h : Hall) (o : Out) (p : Option Pos) : (h.setPos o p).asg = h.asg := rfl
@[simp] theorem setPos_stack (h : Hall) (o : Out) (p : Option Pos) : (h.setPos o p).stack = h.stack := rfl
@[simp] theorem setPos_deferral (h : Hall) (o : Out) (p : Option Pos) : (h.setPos o p).deferral = h.deferral := rfl
@[simp] theorem setPos_idle (h : Hall) (o : Out) (p : Option Pos) : (h.setPos o p).idle = h.idle := rfl
@[simp] theorem setPos_adopt (h : Hall) (o : Out) (p : Option Pos) : (h.setPos o p).adopt = h.adopt := rfl
@[simp] theorem setPos_adoptedS (h : Hall) (o : Out) (p : Option Pos) : (h.setPos o p).adoptedS = h.adoptedS := rfl
@[simp] theorem setPos_adoptedF (h : Hall) (o : Out) (p : Option Pos) : (h.setPos o p).adoptedF = h.adoptedF := rfl
@[simp] theorem setPos_alloc (h : Hall) (o : Out) (p : Option Pos) : (h.setPos o p).alloc = h.alloc := rfl
@[simp] theorem setPos_path (h : Hall) (o : Out) (p : Option Pos) : (h.setPos o p).path = { h.path with pos := upd h.path.pos o fun _ => p } := rfl
@[simp] theorem setPos_tx (h : Hall) (o : Out) (p : Option Pos) : (h.setPos o p).tx = h.tx := rfl
@[simp] theorem setPos_sense (h : Hall) (o : Out) (p : Option Pos) : (h.setPos o p).sense = h.sense := rfl
@[simp] theorem setPos_holds (h : Hall) (o : Out) (p : Option Pos) : (h.setPos o p).holds = h.holds := rfl
@[simp] theorem setPos_dslot (h : Hall) (o : Out) (p : Option Pos) : (h.setPos o p).dslot = h.dslot := rfl
@[simp] theorem setPos_running (h : Hall) (o : Out) (p : Option Pos) : (h.setPos o p).running = h.running := rfl
@[simp] theorem setPos_dlast (h : Hall) (o : Out) (p : Option Pos) : (h.setPos o p).dlast = h.dlast := rfl
@[simp] theorem setPos_faults (h : Hall) (o : Out) (p : Option Pos) : (h.setPos o p).faults = h.faults := rfl
@[simp] theorem setPos_clear (h : Hall) (o : Out) (p : Option Pos) : (h.setPos o p).clear = h.clear := rfl
@[simp] theorem setPos_said (h : Hall) (o : Out) (p : Option Pos) : (h.setPos o p).said = h.said := rfl
@[simp] theorem setPos_emit (h : Hall) (o : Out) (p : Option Pos) : (h.setPos o p).emit = h.emit := rfl

@[simp] theorem mapPos_mode (h : Hall) (o : Out) (f : Pos → Pos) : (h.mapPos o f).mode = h.mode := rfl
@[simp] theorem mapPos_banks (h : Hall) (o : Out) (f : Pos → Pos) : (h.mapPos o f).banks = h.banks := rfl
@[simp] theorem mapPos_changes (h : Hall) (o : Out) (f : Pos → Pos) : (h.mapPos o f).changes = h.changes := rfl
@[simp] theorem mapPos_asg (h : Hall) (o : Out) (f : Pos → Pos) : (h.mapPos o f).asg = h.asg := rfl
@[simp] theorem mapPos_stack (h : Hall) (o : Out) (f : Pos → Pos) : (h.mapPos o f).stack = h.stack := rfl
@[simp] theorem mapPos_deferral (h : Hall) (o : Out) (f : Pos → Pos) : (h.mapPos o f).deferral = h.deferral := rfl
@[simp] theorem mapPos_idle (h : Hall) (o : Out) (f : Pos → Pos) : (h.mapPos o f).idle = h.idle := rfl
@[simp] theorem mapPos_adopt (h : Hall) (o : Out) (f : Pos → Pos) : (h.mapPos o f).adopt = h.adopt := rfl
@[simp] theorem mapPos_adoptedS (h : Hall) (o : Out) (f : Pos → Pos) : (h.mapPos o f).adoptedS = h.adoptedS := rfl
@[simp] theorem mapPos_adoptedF (h : Hall) (o : Out) (f : Pos → Pos) : (h.mapPos o f).adoptedF = h.adoptedF := rfl
@[simp] theorem mapPos_alloc (h : Hall) (o : Out) (f : Pos → Pos) : (h.mapPos o f).alloc = h.alloc := rfl
@[simp] theorem mapPos_path (h : Hall) (o : Out) (f : Pos → Pos) : (h.mapPos o f).path = { h.path with pos := upd h.path.pos o (Option.map f) } := rfl
@[simp] theorem mapPos_tx (h : Hall) (o : Out) (f : Pos → Pos) : (h.mapPos o f).tx = h.tx := rfl
@[simp] theorem mapPos_sense (h : Hall) (o : Out) (f : Pos → Pos) : (h.mapPos o f).sense = h.sense := rfl
@[simp] theorem mapPos_holds (h : Hall) (o : Out) (f : Pos → Pos) : (h.mapPos o f).holds = h.holds := rfl
@[simp] theorem mapPos_dslot (h : Hall) (o : Out) (f : Pos → Pos) : (h.mapPos o f).dslot = h.dslot := rfl
@[simp] theorem mapPos_running (h : Hall) (o : Out) (f : Pos → Pos) : (h.mapPos o f).running = h.running := rfl
@[simp] theorem mapPos_dlast (h : Hall) (o : Out) (f : Pos → Pos) : (h.mapPos o f).dlast = h.dlast := rfl
@[simp] theorem mapPos_faults (h : Hall) (o : Out) (f : Pos → Pos) : (h.mapPos o f).faults = h.faults := rfl
@[simp] theorem mapPos_clear (h : Hall) (o : Out) (f : Pos → Pos) : (h.mapPos o f).clear = h.clear := rfl
@[simp] theorem mapPos_said (h : Hall) (o : Out) (f : Pos → Pos) : (h.mapPos o f).said = h.said := rfl
@[simp] theorem mapPos_emit (h : Hall) (o : Out) (f : Pos → Pos) : (h.mapPos o f).emit = h.emit := rfl

@[simp] theorem setDrvCmd_mode (h : Hall) (l : Fin 8) (c : DriveCmd) : (h.setDrvCmd l c).mode = h.mode := rfl
@[simp] theorem setDrvCmd_banks (h : Hall) (l : Fin 8) (c : DriveCmd) : (h.setDrvCmd l c).banks = h.banks := rfl
@[simp] theorem setDrvCmd_changes (h : Hall) (l : Fin 8) (c : DriveCmd) : (h.setDrvCmd l c).changes = h.changes := rfl
@[simp] theorem setDrvCmd_asg (h : Hall) (l : Fin 8) (c : DriveCmd) : (h.setDrvCmd l c).asg = h.asg := rfl
@[simp] theorem setDrvCmd_stack (h : Hall) (l : Fin 8) (c : DriveCmd) : (h.setDrvCmd l c).stack = h.stack := rfl
@[simp] theorem setDrvCmd_deferral (h : Hall) (l : Fin 8) (c : DriveCmd) : (h.setDrvCmd l c).deferral = h.deferral := rfl
@[simp] theorem setDrvCmd_idle (h : Hall) (l : Fin 8) (c : DriveCmd) : (h.setDrvCmd l c).idle = h.idle := rfl
@[simp] theorem setDrvCmd_adopt (h : Hall) (l : Fin 8) (c : DriveCmd) : (h.setDrvCmd l c).adopt = h.adopt := rfl
@[simp] theorem setDrvCmd_adoptedS (h : Hall) (l : Fin 8) (c : DriveCmd) : (h.setDrvCmd l c).adoptedS = h.adoptedS := rfl
@[simp] theorem setDrvCmd_adoptedF (h : Hall) (l : Fin 8) (c : DriveCmd) : (h.setDrvCmd l c).adoptedF = h.adoptedF := rfl
@[simp] theorem setDrvCmd_alloc (h : Hall) (l : Fin 8) (c : DriveCmd) : (h.setDrvCmd l c).alloc = h.alloc := rfl
@[simp] theorem setDrvCmd_path (h : Hall) (l : Fin 8) (c : DriveCmd) : (h.setDrvCmd l c).path = { h.path with drvCmd := upd h.path.drvCmd l fun _ => some c } := rfl
@[simp] theorem setDrvCmd_tx (h : Hall) (l : Fin 8) (c : DriveCmd) : (h.setDrvCmd l c).tx = h.tx := rfl
@[simp] theorem setDrvCmd_sense (h : Hall) (l : Fin 8) (c : DriveCmd) : (h.setDrvCmd l c).sense = h.sense := rfl
@[simp] theorem setDrvCmd_holds (h : Hall) (l : Fin 8) (c : DriveCmd) : (h.setDrvCmd l c).holds = h.holds := rfl
@[simp] theorem setDrvCmd_dslot (h : Hall) (l : Fin 8) (c : DriveCmd) : (h.setDrvCmd l c).dslot = h.dslot := rfl
@[simp] theorem setDrvCmd_running (h : Hall) (l : Fin 8) (c : DriveCmd) : (h.setDrvCmd l c).running = h.running := rfl
@[simp] theorem setDrvCmd_dlast (h : Hall) (l : Fin 8) (c : DriveCmd) : (h.setDrvCmd l c).dlast = h.dlast := rfl
@[simp] theorem setDrvCmd_faults (h : Hall) (l : Fin 8) (c : DriveCmd) : (h.setDrvCmd l c).faults = h.faults := rfl
@[simp] theorem setDrvCmd_clear (h : Hall) (l : Fin 8) (c : DriveCmd) : (h.setDrvCmd l c).clear = h.clear := rfl
@[simp] theorem setDrvCmd_said (h : Hall) (l : Fin 8) (c : DriveCmd) : (h.setDrvCmd l c).said = h.said := rfl
@[simp] theorem setDrvCmd_emit (h : Hall) (l : Fin 8) (c : DriveCmd) : (h.setDrvCmd l c).emit = h.emit := rfl

@[simp] theorem setQueue_mode (h : Hall) (l : List Motion) : (h.setQueue l).mode = h.mode := rfl
@[simp] theorem setQueue_banks (h : Hall) (l : List Motion) : (h.setQueue l).banks = h.banks := rfl
@[simp] theorem setQueue_changes (h : Hall) (l : List Motion) : (h.setQueue l).changes = h.changes := rfl
@[simp] theorem setQueue_asg (h : Hall) (l : List Motion) : (h.setQueue l).asg = h.asg := rfl
@[simp] theorem setQueue_stack (h : Hall) (l : List Motion) : (h.setQueue l).stack = h.stack := rfl
@[simp] theorem setQueue_deferral (h : Hall) (l : List Motion) : (h.setQueue l).deferral = h.deferral := rfl
@[simp] theorem setQueue_idle (h : Hall) (l : List Motion) : (h.setQueue l).idle = h.idle := rfl
@[simp] theorem setQueue_adopt (h : Hall) (l : List Motion) : (h.setQueue l).adopt = h.adopt := rfl
@[simp] theorem setQueue_adoptedS (h : Hall) (l : List Motion) : (h.setQueue l).adoptedS = h.adoptedS := rfl
@[simp] theorem setQueue_adoptedF (h : Hall) (l : List Motion) : (h.setQueue l).adoptedF = h.adoptedF := rfl
@[simp] theorem setQueue_alloc (h : Hall) (l : List Motion) : (h.setQueue l).alloc = h.alloc := rfl
@[simp] theorem setQueue_path (h : Hall) (l : List Motion) : (h.setQueue l).path = { h.path with queue := l } := rfl
@[simp] theorem setQueue_tx (h : Hall) (l : List Motion) : (h.setQueue l).tx = h.tx := rfl
@[simp] theorem setQueue_sense (h : Hall) (l : List Motion) : (h.setQueue l).sense = h.sense := rfl
@[simp] theorem setQueue_holds (h : Hall) (l : List Motion) : (h.setQueue l).holds = h.holds := rfl
@[simp] theorem setQueue_dslot (h : Hall) (l : List Motion) : (h.setQueue l).dslot = h.dslot := rfl
@[simp] theorem setQueue_running (h : Hall) (l : List Motion) : (h.setQueue l).running = h.running := rfl
@[simp] theorem setQueue_dlast (h : Hall) (l : List Motion) : (h.setQueue l).dlast = h.dlast := rfl
@[simp] theorem setQueue_faults (h : Hall) (l : List Motion) : (h.setQueue l).faults = h.faults := rfl
@[simp] theorem setQueue_clear (h : Hall) (l : List Motion) : (h.setQueue l).clear = h.clear := rfl
@[simp] theorem setQueue_said (h : Hall) (l : List Motion) : (h.setQueue l).said = h.said := rfl
@[simp] theorem setQueue_emit (h : Hall) (l : List Motion) : (h.setQueue l).emit = h.emit := rfl

@[simp] theorem setSlot_mode (h : Hall) (i : Fin 4) (x : Option Slot) : (h.setSlot i x).mode = h.mode := rfl
@[simp] theorem setSlot_banks (h : Hall) (i : Fin 4) (x : Option Slot) : (h.setSlot i x).banks = h.banks := rfl
@[simp] theorem setSlot_changes (h : Hall) (i : Fin 4) (x : Option Slot) : (h.setSlot i x).changes = h.changes := rfl
@[simp] theorem setSlot_asg (h : Hall) (i : Fin 4) (x : Option Slot) : (h.setSlot i x).asg = h.asg := rfl
@[simp] theorem setSlot_stack (h : Hall) (i : Fin 4) (x : Option Slot) : (h.setSlot i x).stack = h.stack := rfl
@[simp] theorem setSlot_deferral (h : Hall) (i : Fin 4) (x : Option Slot) : (h.setSlot i x).deferral = h.deferral := rfl
@[simp] theorem setSlot_idle (h : Hall) (i : Fin 4) (x : Option Slot) : (h.setSlot i x).idle = h.idle := rfl
@[simp] theorem setSlot_adopt (h : Hall) (i : Fin 4) (x : Option Slot) : (h.setSlot i x).adopt = h.adopt := rfl
@[simp] theorem setSlot_adoptedS (h : Hall) (i : Fin 4) (x : Option Slot) : (h.setSlot i x).adoptedS = h.adoptedS := rfl
@[simp] theorem setSlot_adoptedF (h : Hall) (i : Fin 4) (x : Option Slot) : (h.setSlot i x).adoptedF = h.adoptedF := rfl
@[simp] theorem setSlot_alloc (h : Hall) (i : Fin 4) (x : Option Slot) : (h.setSlot i x).alloc = h.alloc := rfl
@[simp] theorem setSlot_path (h : Hall) (i : Fin 4) (x : Option Slot) : (h.setSlot i x).path = { h.path with slots := upd h.path.slots i fun _ => x } := rfl
@[simp] theorem setSlot_tx (h : Hall) (i : Fin 4) (x : Option Slot) : (h.setSlot i x).tx = h.tx := rfl
@[simp] theorem setSlot_sense (h : Hall) (i : Fin 4) (x : Option Slot) : (h.setSlot i x).sense = h.sense := rfl
@[simp] theorem setSlot_holds (h : Hall) (i : Fin 4) (x : Option Slot) : (h.setSlot i x).holds = h.holds := rfl
@[simp] theorem setSlot_dslot (h : Hall) (i : Fin 4) (x : Option Slot) : (h.setSlot i x).dslot = h.dslot := rfl
@[simp] theorem setSlot_running (h : Hall) (i : Fin 4) (x : Option Slot) : (h.setSlot i x).running = h.running := rfl
@[simp] theorem setSlot_dlast (h : Hall) (i : Fin 4) (x : Option Slot) : (h.setSlot i x).dlast = h.dlast := rfl
@[simp] theorem setSlot_faults (h : Hall) (i : Fin 4) (x : Option Slot) : (h.setSlot i x).faults = h.faults := rfl
@[simp] theorem setSlot_clear (h : Hall) (i : Fin 4) (x : Option Slot) : (h.setSlot i x).clear = h.clear := rfl
@[simp] theorem setSlot_said (h : Hall) (i : Fin 4) (x : Option Slot) : (h.setSlot i x).said = h.said := rfl
@[simp] theorem setSlot_emit (h : Hall) (i : Fin 4) (x : Option Slot) : (h.setSlot i x).emit = h.emit := rfl

@[simp] theorem mapSlots_mode (h : Hall) (f : Slot → Option Slot) : (h.mapSlots f).mode = h.mode := rfl
@[simp] theorem mapSlots_banks (h : Hall) (f : Slot → Option Slot) : (h.mapSlots f).banks = h.banks := rfl
@[simp] theorem mapSlots_changes (h : Hall) (f : Slot → Option Slot) : (h.mapSlots f).changes = h.changes := rfl
@[simp] theorem mapSlots_asg (h : Hall) (f : Slot → Option Slot) : (h.mapSlots f).asg = h.asg := rfl
@[simp] theorem mapSlots_stack (h : Hall) (f : Slot → Option Slot) : (h.mapSlots f).stack = h.stack := rfl
@[simp] theorem mapSlots_deferral (h : Hall) (f : Slot → Option Slot) : (h.mapSlots f).deferral = h.deferral := rfl
@[simp] theorem mapSlots_idle (h : Hall) (f : Slot → Option Slot) : (h.mapSlots f).idle = h.idle := rfl
@[simp] theorem mapSlots_adopt (h : Hall) (f : Slot → Option Slot) : (h.mapSlots f).adopt = h.adopt := rfl
@[simp] theorem mapSlots_adoptedS (h : Hall) (f : Slot → Option Slot) : (h.mapSlots f).adoptedS = h.adoptedS := rfl
@[simp] theorem mapSlots_adoptedF (h : Hall) (f : Slot → Option Slot) : (h.mapSlots f).adoptedF = h.adoptedF := rfl
@[simp] theorem mapSlots_alloc (h : Hall) (f : Slot → Option Slot) : (h.mapSlots f).alloc = h.alloc := rfl
@[simp] theorem mapSlots_path (h : Hall) (f : Slot → Option Slot) : (h.mapSlots f).path = { h.path with slots := h.path.slots.map fun x => x.bind f } := rfl
@[simp] theorem mapSlots_tx (h : Hall) (f : Slot → Option Slot) : (h.mapSlots f).tx = h.tx := rfl
@[simp] theorem mapSlots_sense (h : Hall) (f : Slot → Option Slot) : (h.mapSlots f).sense = h.sense := rfl
@[simp] theorem mapSlots_holds (h : Hall) (f : Slot → Option Slot) : (h.mapSlots f).holds = h.holds := rfl
@[simp] theorem mapSlots_dslot (h : Hall) (f : Slot → Option Slot) : (h.mapSlots f).dslot = h.dslot := rfl
@[simp] theorem mapSlots_running (h : Hall) (f : Slot → Option Slot) : (h.mapSlots f).running = h.running := rfl
@[simp] theorem mapSlots_dlast (h : Hall) (f : Slot → Option Slot) : (h.mapSlots f).dlast = h.dlast := rfl
@[simp] theorem mapSlots_faults (h : Hall) (f : Slot → Option Slot) : (h.mapSlots f).faults = h.faults := rfl
@[simp] theorem mapSlots_clear (h : Hall) (f : Slot → Option Slot) : (h.mapSlots f).clear = h.clear := rfl
@[simp] theorem mapSlots_said (h : Hall) (f : Slot → Option Slot) : (h.mapSlots f).said = h.said := rfl
@[simp] theorem mapSlots_emit (h : Hall) (f : Slot → Option Slot) : (h.mapSlots f).emit = h.emit := rfl

@[simp] theorem setHold_mode (h : Hall) (t : Tx) (f : Hold → Hold) : (h.setHold t f).mode = h.mode := rfl
@[simp] theorem setHold_banks (h : Hall) (t : Tx) (f : Hold → Hold) : (h.setHold t f).banks = h.banks := rfl
@[simp] theorem setHold_changes (h : Hall) (t : Tx) (f : Hold → Hold) : (h.setHold t f).changes = h.changes := rfl
@[simp] theorem setHold_asg (h : Hall) (t : Tx) (f : Hold → Hold) : (h.setHold t f).asg = h.asg := rfl
@[simp] theorem setHold_stack (h : Hall) (t : Tx) (f : Hold → Hold) : (h.setHold t f).stack = h.stack := rfl
@[simp] theorem setHold_deferral (h : Hall) (t : Tx) (f : Hold → Hold) : (h.setHold t f).deferral = h.deferral := rfl
@[simp] theorem setHold_idle (h : Hall) (t : Tx) (f : Hold → Hold) : (h.setHold t f).idle = h.idle := rfl
@[simp] theorem setHold_adopt (h : Hall) (t : Tx) (f : Hold → Hold) : (h.setHold t f).adopt = h.adopt := rfl
@[simp] theorem setHold_adoptedS (h : Hall) (t : Tx) (f : Hold → Hold) : (h.setHold t f).adoptedS = h.adoptedS := rfl
@[simp] theorem setHold_adoptedF (h : Hall) (t : Tx) (f : Hold → Hold) : (h.setHold t f).adoptedF = h.adoptedF := rfl
@[simp] theorem setHold_alloc (h : Hall) (t : Tx) (f : Hold → Hold) : (h.setHold t f).alloc = h.alloc := rfl
@[simp] theorem setHold_path (h : Hall) (t : Tx) (f : Hold → Hold) : (h.setHold t f).path = h.path := rfl
@[simp] theorem setHold_tx (h : Hall) (t : Tx) (f : Hold → Hold) : (h.setHold t f).tx = h.tx := rfl
@[simp] theorem setHold_sense (h : Hall) (t : Tx) (f : Hold → Hold) : (h.setHold t f).sense = h.sense := rfl
@[simp] theorem setHold_holds (h : Hall) (t : Tx) (f : Hold → Hold) : (h.setHold t f).holds = upd h.holds t f := rfl
@[simp] theorem setHold_dslot (h : Hall) (t : Tx) (f : Hold → Hold) : (h.setHold t f).dslot = h.dslot := rfl
@[simp] theorem setHold_running (h : Hall) (t : Tx) (f : Hold → Hold) : (h.setHold t f).running = h.running := rfl
@[simp] theorem setHold_dlast (h : Hall) (t : Tx) (f : Hold → Hold) : (h.setHold t f).dlast = h.dlast := rfl
@[simp] theorem setHold_faults (h : Hall) (t : Tx) (f : Hold → Hold) : (h.setHold t f).faults = h.faults := rfl
@[simp] theorem setHold_clear (h : Hall) (t : Tx) (f : Hold → Hold) : (h.setHold t f).clear = h.clear := rfl
@[simp] theorem setHold_said (h : Hall) (t : Tx) (f : Hold → Hold) : (h.setHold t f).said = h.said := rfl
@[simp] theorem setHold_emit (h : Hall) (t : Tx) (f : Hold → Hold) : (h.setHold t f).emit = h.emit := rfl

@[simp] theorem setSense_mode (h : Hall) (l : SenseLine) (f : Sense → Sense) : (h.setSense l f).mode = h.mode := rfl
@[simp] theorem setSense_banks (h : Hall) (l : SenseLine) (f : Sense → Sense) : (h.setSense l f).banks = h.banks := rfl
@[simp] theorem setSense_changes (h : Hall) (l : SenseLine) (f : Sense → Sense) : (h.setSense l f).changes = h.changes := rfl
@[simp] theorem setSense_asg (h : Hall) (l : SenseLine) (f : Sense → Sense) : (h.setSense l f).asg = h.asg := rfl
@[simp] theorem setSense_stack (h : Hall) (l : SenseLine) (f : Sense → Sense) : (h.setSense l f).stack = h.stack := rfl
@[simp] theorem setSense_deferral (h : Hall) (l : SenseLine) (f : Sense → Sense) : (h.setSense l f).deferral = h.deferral := rfl
@[simp] theorem setSense_idle (h : Hall) (l : SenseLine) (f : Sense → Sense) : (h.setSense l f).idle = h.idle := rfl
@[simp] theorem setSense_adopt (h : Hall) (l : SenseLine) (f : Sense → Sense) : (h.setSense l f).adopt = h.adopt := rfl
@[simp] theorem setSense_adoptedS (h : Hall) (l : SenseLine) (f : Sense → Sense) : (h.setSense l f).adoptedS = h.adoptedS := rfl
@[simp] theorem setSense_adoptedF (h : Hall) (l : SenseLine) (f : Sense → Sense) : (h.setSense l f).adoptedF = h.adoptedF := rfl
@[simp] theorem setSense_alloc (h : Hall) (l : SenseLine) (f : Sense → Sense) : (h.setSense l f).alloc = h.alloc := rfl
@[simp] theorem setSense_path (h : Hall) (l : SenseLine) (f : Sense → Sense) : (h.setSense l f).path = h.path := rfl
@[simp] theorem setSense_tx (h : Hall) (l : SenseLine) (f : Sense → Sense) : (h.setSense l f).tx = h.tx := rfl
@[simp] theorem setSense_sense (h : Hall) (l : SenseLine) (f : Sense → Sense) : (h.setSense l f).sense = upd h.sense (senseIx l) f := rfl
@[simp] theorem setSense_holds (h : Hall) (l : SenseLine) (f : Sense → Sense) : (h.setSense l f).holds = h.holds := rfl
@[simp] theorem setSense_dslot (h : Hall) (l : SenseLine) (f : Sense → Sense) : (h.setSense l f).dslot = h.dslot := rfl
@[simp] theorem setSense_running (h : Hall) (l : SenseLine) (f : Sense → Sense) : (h.setSense l f).running = h.running := rfl
@[simp] theorem setSense_dlast (h : Hall) (l : SenseLine) (f : Sense → Sense) : (h.setSense l f).dlast = h.dlast := rfl
@[simp] theorem setSense_faults (h : Hall) (l : SenseLine) (f : Sense → Sense) : (h.setSense l f).faults = h.faults := rfl
@[simp] theorem setSense_clear (h : Hall) (l : SenseLine) (f : Sense → Sense) : (h.setSense l f).clear = h.clear := rfl
@[simp] theorem setSense_said (h : Hall) (l : SenseLine) (f : Sense → Sense) : (h.setSense l f).said = h.said := rfl
@[simp] theorem setSense_emit (h : Hall) (l : SenseLine) (f : Sense → Sense) : (h.setSense l f).emit = h.emit := rfl

@[simp] theorem setBank_mode (h : Hall) (n : BankNo) (f : Bank → Bank) : (h.setBank n f).mode = h.mode := rfl
@[simp] theorem setBank_banks (h : Hall) (n : BankNo) (f : Bank → Bank) : (h.setBank n f).banks = upd h.banks n f := rfl
@[simp] theorem setBank_changes (h : Hall) (n : BankNo) (f : Bank → Bank) : (h.setBank n f).changes = h.changes := rfl
@[simp] theorem setBank_asg (h : Hall) (n : BankNo) (f : Bank → Bank) : (h.setBank n f).asg = h.asg := rfl
@[simp] theorem setBank_stack (h : Hall) (n : BankNo) (f : Bank → Bank) : (h.setBank n f).stack = h.stack := rfl
@[simp] theorem setBank_deferral (h : Hall) (n : BankNo) (f : Bank → Bank) : (h.setBank n f).deferral = h.deferral := rfl
@[simp] theorem setBank_idle (h : Hall) (n : BankNo) (f : Bank → Bank) : (h.setBank n f).idle = h.idle := rfl
@[simp] theorem setBank_adopt (h : Hall) (n : BankNo) (f : Bank → Bank) : (h.setBank n f).adopt = h.adopt := rfl
@[simp] theorem setBank_adoptedS (h : Hall) (n : BankNo) (f : Bank → Bank) : (h.setBank n f).adoptedS = h.adoptedS := rfl
@[simp] theorem setBank_adoptedF (h : Hall) (n : BankNo) (f : Bank → Bank) : (h.setBank n f).adoptedF = h.adoptedF := rfl
@[simp] theorem setBank_alloc (h : Hall) (n : BankNo) (f : Bank → Bank) : (h.setBank n f).alloc = h.alloc := rfl
@[simp] theorem setBank_path (h : Hall) (n : BankNo) (f : Bank → Bank) : (h.setBank n f).path = h.path := rfl
@[simp] theorem setBank_tx (h : Hall) (n : BankNo) (f : Bank → Bank) : (h.setBank n f).tx = h.tx := rfl
@[simp] theorem setBank_sense (h : Hall) (n : BankNo) (f : Bank → Bank) : (h.setBank n f).sense = h.sense := rfl
@[simp] theorem setBank_holds (h : Hall) (n : BankNo) (f : Bank → Bank) : (h.setBank n f).holds = h.holds := rfl
@[simp] theorem setBank_dslot (h : Hall) (n : BankNo) (f : Bank → Bank) : (h.setBank n f).dslot = h.dslot := rfl
@[simp] theorem setBank_running (h : Hall) (n : BankNo) (f : Bank → Bank) : (h.setBank n f).running = h.running := rfl
@[simp] theorem setBank_dlast (h : Hall) (n : BankNo) (f : Bank → Bank) : (h.setBank n f).dlast = h.dlast := rfl
@[simp] theorem setBank_faults (h : Hall) (n : BankNo) (f : Bank → Bank) : (h.setBank n f).faults = h.faults := rfl
@[simp] theorem setBank_clear (h : Hall) (n : BankNo) (f : Bank → Bank) : (h.setBank n f).clear = h.clear := rfl
@[simp] theorem setBank_said (h : Hall) (n : BankNo) (f : Bank → Bank) : (h.setBank n f).said = h.said := rfl
@[simp] theorem setBank_emit (h : Hall) (n : BankNo) (f : Bank → Bank) : (h.setBank n f).emit = h.emit := rfl

@[simp] theorem setIdle_mode (h : Hall) (t : Tx) (i : Idle) : (h.setIdle t i).mode = h.mode := rfl
@[simp] theorem setIdle_banks (h : Hall) (t : Tx) (i : Idle) : (h.setIdle t i).banks = h.banks := rfl
@[simp] theorem setIdle_changes (h : Hall) (t : Tx) (i : Idle) : (h.setIdle t i).changes = h.changes := rfl
@[simp] theorem setIdle_asg (h : Hall) (t : Tx) (i : Idle) : (h.setIdle t i).asg = h.asg := rfl
@[simp] theorem setIdle_stack (h : Hall) (t : Tx) (i : Idle) : (h.setIdle t i).stack = h.stack := rfl
@[simp] theorem setIdle_deferral (h : Hall) (t : Tx) (i : Idle) : (h.setIdle t i).deferral = h.deferral := rfl
@[simp] theorem setIdle_idle (h : Hall) (t : Tx) (i : Idle) : (h.setIdle t i).idle = upd h.idle t fun _ => i := rfl
@[simp] theorem setIdle_adopt (h : Hall) (t : Tx) (i : Idle) : (h.setIdle t i).adopt = h.adopt := rfl
@[simp] theorem setIdle_adoptedS (h : Hall) (t : Tx) (i : Idle) : (h.setIdle t i).adoptedS = h.adoptedS := rfl
@[simp] theorem setIdle_adoptedF (h : Hall) (t : Tx) (i : Idle) : (h.setIdle t i).adoptedF = h.adoptedF := rfl
@[simp] theorem setIdle_alloc (h : Hall) (t : Tx) (i : Idle) : (h.setIdle t i).alloc = h.alloc := rfl
@[simp] theorem setIdle_path (h : Hall) (t : Tx) (i : Idle) : (h.setIdle t i).path = h.path := rfl
@[simp] theorem setIdle_tx (h : Hall) (t : Tx) (i : Idle) : (h.setIdle t i).tx = h.tx := rfl
@[simp] theorem setIdle_sense (h : Hall) (t : Tx) (i : Idle) : (h.setIdle t i).sense = h.sense := rfl
@[simp] theorem setIdle_holds (h : Hall) (t : Tx) (i : Idle) : (h.setIdle t i).holds = h.holds := rfl
@[simp] theorem setIdle_dslot (h : Hall) (t : Tx) (i : Idle) : (h.setIdle t i).dslot = h.dslot := rfl
@[simp] theorem setIdle_running (h : Hall) (t : Tx) (i : Idle) : (h.setIdle t i).running = h.running := rfl
@[simp] theorem setIdle_dlast (h : Hall) (t : Tx) (i : Idle) : (h.setIdle t i).dlast = h.dlast := rfl
@[simp] theorem setIdle_faults (h : Hall) (t : Tx) (i : Idle) : (h.setIdle t i).faults = h.faults := rfl
@[simp] theorem setIdle_clear (h : Hall) (t : Tx) (i : Idle) : (h.setIdle t i).clear = h.clear := rfl
@[simp] theorem setIdle_said (h : Hall) (t : Tx) (i : Idle) : (h.setIdle t i).said = h.said := rfl
@[simp] theorem setIdle_emit (h : Hall) (t : Tx) (i : Idle) : (h.setIdle t i).emit = h.emit := rfl

/-- A new assignment in the spelling of the two updates it makes. -/
@[simp] theorem beginAsg_eq (h : Hall) (t : Tx) (a : Asg) : h.beginAsg t a = (h.setAsg t (some a)).setIdle t .stopped := rfl

@[simp] theorem setAdopt_mode (h : Hall) (t : Tx) (f : Adopt → Adopt) : (h.setAdopt t f).mode = h.mode := rfl
@[simp] theorem setAdopt_banks (h : Hall) (t : Tx) (f : Adopt → Adopt) : (h.setAdopt t f).banks = h.banks := rfl
@[simp] theorem setAdopt_changes (h : Hall) (t : Tx) (f : Adopt → Adopt) : (h.setAdopt t f).changes = h.changes := rfl
@[simp] theorem setAdopt_asg (h : Hall) (t : Tx) (f : Adopt → Adopt) : (h.setAdopt t f).asg = h.asg := rfl
@[simp] theorem setAdopt_stack (h : Hall) (t : Tx) (f : Adopt → Adopt) : (h.setAdopt t f).stack = h.stack := rfl
@[simp] theorem setAdopt_deferral (h : Hall) (t : Tx) (f : Adopt → Adopt) : (h.setAdopt t f).deferral = h.deferral := rfl
@[simp] theorem setAdopt_idle (h : Hall) (t : Tx) (f : Adopt → Adopt) : (h.setAdopt t f).idle = h.idle := rfl
@[simp] theorem setAdopt_adopt (h : Hall) (t : Tx) (f : Adopt → Adopt) : (h.setAdopt t f).adopt = upd h.adopt t f := rfl
@[simp] theorem setAdopt_adoptedS (h : Hall) (t : Tx) (f : Adopt → Adopt) : (h.setAdopt t f).adoptedS = h.adoptedS := rfl
@[simp] theorem setAdopt_adoptedF (h : Hall) (t : Tx) (f : Adopt → Adopt) : (h.setAdopt t f).adoptedF = h.adoptedF := rfl
@[simp] theorem setAdopt_alloc (h : Hall) (t : Tx) (f : Adopt → Adopt) : (h.setAdopt t f).alloc = h.alloc := rfl
@[simp] theorem setAdopt_path (h : Hall) (t : Tx) (f : Adopt → Adopt) : (h.setAdopt t f).path = h.path := rfl
@[simp] theorem setAdopt_tx (h : Hall) (t : Tx) (f : Adopt → Adopt) : (h.setAdopt t f).tx = h.tx := rfl
@[simp] theorem setAdopt_sense (h : Hall) (t : Tx) (f : Adopt → Adopt) : (h.setAdopt t f).sense = h.sense := rfl
@[simp] theorem setAdopt_holds (h : Hall) (t : Tx) (f : Adopt → Adopt) : (h.setAdopt t f).holds = h.holds := rfl
@[simp] theorem setAdopt_dslot (h : Hall) (t : Tx) (f : Adopt → Adopt) : (h.setAdopt t f).dslot = h.dslot := rfl
@[simp] theorem setAdopt_running (h : Hall) (t : Tx) (f : Adopt → Adopt) : (h.setAdopt t f).running = h.running := rfl
@[simp] theorem setAdopt_dlast (h : Hall) (t : Tx) (f : Adopt → Adopt) : (h.setAdopt t f).dlast = h.dlast := rfl
@[simp] theorem setAdopt_faults (h : Hall) (t : Tx) (f : Adopt → Adopt) : (h.setAdopt t f).faults = h.faults := rfl
@[simp] theorem setAdopt_clear (h : Hall) (t : Tx) (f : Adopt → Adopt) : (h.setAdopt t f).clear = h.clear := rfl
@[simp] theorem setAdopt_said (h : Hall) (t : Tx) (f : Adopt → Adopt) : (h.setAdopt t f).said = h.said := rfl
@[simp] theorem setAdopt_emit (h : Hall) (t : Tx) (f : Adopt → Adopt) : (h.setAdopt t f).emit = h.emit := rfl

@[simp] theorem each_nil {α : Type} (h : Hall) (f : α → Hall → Hall) : h.each [] f = h := rfl

@[simp] theorem each_cons {α : Type} (h : Hall) (a : α) (l : List α) (f : α → Hall → Hall) :
    h.each (a :: l) f = (f a h).each l f := rfl

end Hall

namespace State

@[simp] theorem setBank_tables (s : State) (n : BankNo) (f : Bank → Bank) : (s.setBank n f).tables = s.tables := rfl
@[simp] theorem setBank_time (s : State) (n : BankNo) (f : Bank → Bank) : (s.setBank n f).time = s.time := rfl
@[simp] theorem setBank_hall (s : State) (n : BankNo) (f : Bank → Bank) : (s.setBank n f).hall = s.hall.setBank n f := rfl
@[simp] theorem setBank_link (s : State) (n : BankNo) (f : Bank → Bank) : (s.setBank n f).link = s.link := rfl
@[simp] theorem setBank_pending (s : State) (n : BankNo) (f : Bank → Bank) : (s.setBank n f).pending = s.pending := rfl

@[simp] theorem setTables_tables (s : State) (f : Tables → Tables) : (s.setTables f).tables = f s.tables := rfl
@[simp] theorem setTables_time (s : State) (f : Tables → Tables) : (s.setTables f).time = s.time := rfl
@[simp] theorem setTables_hall (s : State) (f : Tables → Tables) : (s.setTables f).hall = s.hall := rfl
@[simp] theorem setTables_link (s : State) (f : Tables → Tables) : (s.setTables f).link = s.link := rfl
@[simp] theorem setTables_pending (s : State) (f : Tables → Tables) : (s.setTables f).pending = s.pending := rfl

@[simp] theorem setTime_tables (s : State) (f : TimeBase → TimeBase) : (s.setTime f).tables = s.tables := rfl
@[simp] theorem setTime_time (s : State) (f : TimeBase → TimeBase) : (s.setTime f).time = f s.time := rfl
@[simp] theorem setTime_hall (s : State) (f : TimeBase → TimeBase) : (s.setTime f).hall = s.hall := rfl
@[simp] theorem setTime_link (s : State) (f : TimeBase → TimeBase) : (s.setTime f).link = s.link := rfl
@[simp] theorem setTime_pending (s : State) (f : TimeBase → TimeBase) : (s.setTime f).pending = s.pending := rfl

@[simp] theorem note_tables (s : State) (b : NoticeBody) : (s.note b).tables = s.tables := rfl
@[simp] theorem note_time (s : State) (b : NoticeBody) : (s.note b).time = s.time := rfl
@[simp] theorem note_hall (s : State) (b : NoticeBody) : (s.note b).hall = s.hall.note b := rfl
@[simp] theorem note_link (s : State) (b : NoticeBody) : (s.note b).link = s.link := rfl
@[simp] theorem note_pending (s : State) (b : NoticeBody) : (s.note b).pending = s.pending := rfl

@[simp] theorem say_tables (s : State) (tag : Nat) (r : Option Req) (st : Status) (b : ReplyBody) : (s.say tag r st b).tables = s.tables := rfl
@[simp] theorem say_time (s : State) (tag : Nat) (r : Option Req) (st : Status) (b : ReplyBody) : (s.say tag r st b).time = s.time := rfl
@[simp] theorem say_hall (s : State) (tag : Nat) (r : Option Req) (st : Status) (b : ReplyBody) : (s.say tag r st b).hall = s.hall.say ⟨tag, r, st, b⟩ := rfl
@[simp] theorem say_link (s : State) (tag : Nat) (r : Option Req) (st : Status) (b : ReplyBody) : (s.say tag r st b).link = s.link := rfl
@[simp] theorem say_pending (s : State) (tag : Nat) (r : Option Req) (st : Status) (b : ReplyBody) : (s.say tag r st b).pending = s.pending := rfl

@[simp] theorem onHall_tables (s : State) (f : Env → Hall → Hall) : (s.onHall f).tables = s.tables := rfl
@[simp] theorem onHall_time (s : State) (f : Env → Hall → Hall) : (s.onHall f).time = s.time := rfl
@[simp] theorem onHall_hall (s : State) (f : Env → Hall → Hall) : (s.onHall f).hall = f s.env s.hall := rfl
@[simp] theorem onHall_link (s : State) (f : Env → Hall → Hall) : (s.onHall f).link = s.link := rfl
@[simp] theorem onHall_pending (s : State) (f : Env → Hall → Hall) : (s.onHall f).pending = s.pending := rfl

@[simp] theorem setPlan_tables (s : State) (n : Fin 32) (p : Option (List PlanStep)) : (s.setPlan n p).tables = { s.tables with plans := upd s.tables.plans n fun _ => p } := rfl
@[simp] theorem setPlan_time (s : State) (n : Fin 32) (p : Option (List PlanStep)) : (s.setPlan n p).time = s.time := rfl
@[simp] theorem setPlan_hall (s : State) (n : Fin 32) (p : Option (List PlanStep)) : (s.setPlan n p).hall = s.hall := rfl
@[simp] theorem setPlan_link (s : State) (n : Fin 32) (p : Option (List PlanStep)) : (s.setPlan n p).link = s.link := rfl
@[simp] theorem setPlan_pending (s : State) (n : Fin 32) (p : Option (List PlanStep)) : (s.setPlan n p).pending = s.pending := rfl

@[simp] theorem env_k (s : State) : s.env.k = s.tables := rfl

@[simp] theorem env_tm (s : State) : s.env.tm = s.time := rfl

@[simp] theorem env_now (s : State) : s.env.now = s.time.now := rfl

@[simp] theorem env_sec (s : State) : s.env.sec = s.time.clock / ticksPerSec := rfl

end State

end Sys2Proof.Machine
end

