-- ==== Sys2Proof/Laws/Moves.lean ====
section
/-! SUPPORT. What a shared operation of the hall can do, said once: it makes no reply, leaves the sense lines and the
FAULT-CLEAR in hand alone, only adds notices, and keeps every list within its bound. `Moves g h`: from `g` to `h` by such
operations. Each lemma carries a move through one operation; a proof about an event composes them. -/

set_option linter.unusedTactic false
set_option linter.unreachableTactic false

namespace Sys2Proof.Machine

/-- From `g` to `h` by shared operations of the hall. -/
structure Moves (g h : Hall) : Prop where
  said : h.said = g.said
  clear : h.clear = g.clear
  sense : h.sense = g.sense
  emit : g.emit <+: h.emit
  sizes : g.sizesOk → h.sizesOk

/-- The rule's next state, if it has one, is a move. -/
def OMoves (g : Hall) (o : Option Hall) : Prop := ∀ h, o = some h → Moves g h

namespace Moves

theorem refl (h : Hall) : Moves h h := ⟨rfl, rfl, rfl, List.prefix_rfl, id⟩

theorem trans {a b c : Hall} (x : Moves a b) (y : Moves b c) : Moves a c :=
  ⟨y.said.trans x.said, y.clear.trans x.clear, y.sense.trans x.sense, x.emit.trans y.emit, y.sizes ∘ x.sizes⟩

variable {g h : Hall}

/-- An update of what no bound speaks of. -/
theorem plain (x : Moves g h) {h' : Hall} (said : h'.said = h.said) (clear : h'.clear = h.clear)
    (sense : h'.sense = h.sense) (emit : h'.emit = h.emit) (banks : h'.banks = h.banks) (changes : h'.changes = h.changes)
    (deferral : h'.deferral = h.deferral) (stack : h'.stack = h.stack) (tx : h'.tx = h.tx)
    (faults : h'.faults = h.faults) : Moves g h' where
  said := said.trans x.said
  clear := clear.trans x.clear
  sense := sense.trans x.sense
  emit := emit ▸ x.emit
  sizes s := by
    have w := x.sizes s
    exact ⟨banks ▸ w.banks, changes ▸ w.changes, changes ▸ w.changeIds, deferral ▸ w.deferral, stack ▸ w.stack, tx ▸ w.windows, faults ▸ w.faults⟩

theorem alloc
    (x : Moves g h) {b : Bool} : Moves g { h with alloc := b } := x.plain rfl rfl rfl rfl rfl rfl rfl rfl rfl rfl

theorem mode (x : Moves g h) {m : HallMode} : Moves g { h with mode := m } :=
  x.plain rfl rfl rfl rfl rfl rfl rfl rfl rfl rfl

theorem running (x : Moves g h) {r : Option Running} : Moves g { h with running := r } :=
  x.plain rfl rfl rfl rfl rfl rfl rfl rfl rfl rfl

theorem slotLast (x : Moves g h) {d : Option (Nat × Nat)} {l : Option LastDirective} :
    Moves g { h with dslot := d, dlast := l } := x.plain rfl rfl rfl rfl rfl rfl rfl rfl rfl rfl

theorem adoptedS (x : Moves g h) {n : Nat} : Moves g { h with adoptedS := n } :=
  x.plain rfl rfl rfl rfl rfl rfl rfl rfl rfl rfl

theorem adoptedF (x : Moves g h) {n : Nat} : Moves g { h with adoptedF := n } :=
  x.plain rfl rfl rfl rfl rfl rfl rfl rfl rfl rfl

theorem asgs (x : Moves g h) {a : Tab (Option Asg) 12} : Moves g { h with asg := a } :=
  x.plain rfl rfl rfl rfl rfl rfl rfl rfl rfl rfl

theorem wantAlloc (x : Moves g h) : Moves g h.wantAlloc := x.alloc

theorem setAsg (x : Moves g h) {t : Tx} {a : Option Asg} : Moves g (h.setAsg t a) := x.asgs

theorem mapAsg (x : Moves g h) {t : Tx} {f : Asg → Asg} : Moves g (h.mapAsg t f) := x.asgs

theorem setPath
    (x : Moves g h) {f : Path → Path} : Moves g (h.setPath f) := x.plain rfl rfl rfl rfl rfl rfl rfl rfl rfl rfl

theorem setSeq (x : Moves g h) {t : Tx} {f : PathSeq → PathSeq} : Moves g (h.setSeq t f) := x.setPath

theorem setOwner (x : Moves g h) {o : Out} {w : Option Tx} : Moves g (h.setOwner o w) := x.setPath

theorem setCol (x : Moves g h) {o : Out} {f : Col → Col} : Moves g (h.setCol o f) := x.setPath

theorem setColCmd (x : Moves g h) {o : Out} {c : ColCmd} : Moves g (h.setColCmd o c) := x.setPath

theorem setXpt (x : Moves g h) {t : Tx} {o : Out} {f : Xpt → Xpt} : Moves g (h.setXpt t o f) := x.setPath

theorem setPos (x : Moves g h) {o : Out} {p : Option Pos} : Moves g (h.setPos o p) := x.setPath

theorem mapPos (x : Moves g h) {o : Out} {f : Pos → Pos} : Moves g (h.mapPos o f) := x.setPath

theorem setDrvCmd (x : Moves g h) {l : Fin 8} {c : DriveCmd} : Moves g (h.setDrvCmd l c) := x.setPath

theorem setQueue (x : Moves g h) {l : List Motion} : Moves g (h.setQueue l) := x.setPath

theorem setSlot (x : Moves g h) {i : Fin 4} {s : Option Slot} : Moves g (h.setSlot i s) := x.setPath

theorem mapSlots (x : Moves g h) {f : Slot → Option Slot} : Moves g (h.mapSlots f) := x.setPath

theorem setHold (x : Moves g h) {t : Tx} {f : Hold → Hold} : Moves g (h.setHold t f) :=
  x.plain rfl rfl rfl rfl rfl rfl rfl rfl rfl rfl

theorem setIdle
    (x : Moves g h) {t : Tx} {i : Idle} : Moves g (h.setIdle t i) := x.plain rfl rfl rfl rfl rfl rfl rfl rfl rfl rfl

theorem beginAsg (x : Moves g h) {t : Tx} {a : Asg} : Moves g (h.beginAsg t a) := x.setAsg.setIdle

theorem setAdopt (x : Moves g h) {t : Tx} {f : Adopt → Adopt} : Moves g (h.setAdopt t f) :=
  x.plain rfl rfl rfl rfl rfl rfl rfl rfl rfl rfl

theorem notes (x : Moves g h) {l : List NoticeBody} : Moves g (h.notes l) :=
  ⟨x.said, x.clear, x.sense, x.emit.trans (List.prefix_append _ _), fun s => ⟨(x.sizes s).banks, (x.sizes s).changes,
    (x.sizes s).changeIds, (x.sizes s).deferral, (x.sizes s).stack, (x.sizes s).windows, (x.sizes s).faults⟩⟩

theorem note (x : Moves g h) {b : NoticeBody} : Moves g (h.note b) := x.notes (l := [b])

theorem each {α : Type} {l : List α} {f : α → Hall → Hall} (x : Moves g h) (y : ∀ a k, Moves g k → Moves g (f a k)) :
    Moves g (h.each l f) := by
  induction l generalizing h with
  | nil => exact x
  | cons a l ih => exact ih (y a h x)

/-- A transmitter's record, its trip window within the bound. -/
theorem setTxWin (x : Moves g h) {t : Tx} {f : TxRec → TxRec}
    (w : (h.tx[t]).window.length ≤ Config.maxWindow → (f h.tx[t]).window.length ≤ Config.maxWindow) :
    Moves g (h.setTx t f) :=
  ⟨x.said, x.clear, x.sense, x.emit, fun s => ⟨(x.sizes s).banks, (x.sizes s).changes, (x.sizes s).changeIds,
    (x.sizes s).deferral, (x.sizes s).stack, fun u => by
      have v := (x.sizes s).windows
      simp only [Hall.setTx_tx, get_upd]
      split
      · exact w (v t)
      · exact v u, (x.sizes s).faults⟩⟩

/-- A transmitter's record, its trip window as it was. -/
theorem setTx (x : Moves g h) {t : Tx} {f : TxRec → TxRec} (w : ∀ r, (f r).window = r.window) : Moves g (h.setTx t f) :=
  x.setTxWin fun v => by rw [w]; exact v

/-- A bank, with no more entries than it had. -/
theorem setBank (x : Moves g h) {n : BankNo} {f : Bank → Bank}
    (w : h.sizesOk → (f h.banks[n]).recs.length ≤ Config.maxEntries) : Moves g (h.setBank n f) :=
  ⟨x.said, x.clear, x.sense, x.emit, fun s => ⟨fun m => by
      have v := (x.sizes s).banks
      simp only [Hall.setBank_banks, get_upd]
      split
      · exact w (x.sizes s)
      · exact v m, (x.sizes s).changes, (x.sizes s).changeIds, (x.sizes s).deferral, (x.sizes s).stack, (x.sizes s).windows, (x.sizes s).faults⟩⟩

/-- A stack within the bound. -/
theorem setStack (x : Moves g h) {t : Tx} {l : List StackItem}
    (w : (h.stack[t]).length ≤ Config.maxStack → l.length ≤ Config.maxStack) : Moves g (h.setStack t l) :=
  ⟨x.said, x.clear, x.sense, x.emit, fun s => ⟨(x.sizes s).banks, (x.sizes s).changes, (x.sizes s).changeIds, (x.sizes s).deferral, fun u => by
      have v := (x.sizes s).stack
      simp only [Hall.setStack_stack, get_upd]
      split
      · exact w (v t)
      · exact v u, (x.sizes s).windows, (x.sizes s).faults⟩⟩

/-- The deferral list within the bound. -/
theorem deferral (x : Moves g h) {l : List DeferItem}
    (w : h.deferral.length ≤ Config.maxDeferral → l.length ≤ Config.maxDeferral) : Moves g { h with deferral := l } :=
  ⟨x.said, x.clear, x.sense, x.emit, fun s => ⟨(x.sizes s).banks, (x.sizes s).changes, (x.sizes s).changeIds,
    w (x.sizes s).deferral, (x.sizes s).stack, (x.sizes s).windows, (x.sizes s).faults⟩⟩

/-- The change queue, no longer than it was. -/
theorem changes (x : Moves g h) {l : List Change}
    (w : h.sizesOk → l.length ≤ h.changes.length ∧ ∀ c ∈ l, c.idOk) : Moves g { h with changes := l } :=
  ⟨x.said, x.clear, x.sense, x.emit, fun s => ⟨(x.sizes s).banks, (w (x.sizes s)).1.trans (x.sizes s).changes,
    (w (x.sizes s)).2, (x.sizes s).deferral,
    (x.sizes s).stack, (x.sizes s).windows, (x.sizes s).faults⟩⟩

/-- The Fault Table within its bound, its numbers apart. -/
theorem faults (x : Moves g h) {f : FaultTable} (w : h.faults.ok → f.ok) : Moves g { h with faults := f } :=
  ⟨x.said, x.clear, x.sense, x.emit, fun s => ⟨(x.sizes s).banks, (x.sizes s).changes, (x.sizes s).changeIds,
    (x.sizes s).deferral, (x.sizes s).stack, (x.sizes s).windows, w (x.sizes s).faults⟩⟩

end Moves

theorem OMoves.none {g : Hall} : OMoves g none := fun _ e => by cases e

theorem OMoves.some {g h : Hall} (x : Moves g h) : OMoves g (some h) := fun _ e => by cases e; exact x

theorem OMoves.of {g h : Hall} {o : Option Hall} (x : OMoves g o) (e : o = Option.some h) : Moves g h := x h e

/-! ### Ops -/

/-- R194: the `i`th number after `n`. -/
theorem iterate_seqSucc (n i : Nat) (hi : i ≤ 65535) :
    seqSucc^[i] n = if n ≤ 65535 then (if n + i ≤ 65535 then n + i else n + i - 65535) else if i = 0 then n else i := by
  induction i with
  | zero => by_cases h : n ≤ 65535 <;> simp [h]
  | succ i ih =>
    rw [Function.iterate_succ_apply', ih (by omega)]
    clear ih
    unfold seqSucc
    split_ifs <;> first | exact False.elim ‹False› | omega

/-- R194: either the number found is held by no record, or every number tried is held. -/
theorem freeSeq_fresh (recs : List FaultRec) (k n : Nat) :
    (∀ r ∈ recs, r.seq ≠ freeSeq recs k n) ∨ ∀ i < k, ∃ r ∈ recs, r.seq = seqSucc^[i] n := by
  induction k generalizing n with
  | zero => exact .inr fun i hi => absurd hi (Nat.not_lt_zero i)
  | succ k ih =>
    unfold freeSeq
    by_cases held : recs.any fun r => decide (r.seq = n)
    · rw [if_pos held]
      rcases ih (seqSucc n) with w | w
      · exact .inl w
      · refine .inr fun i hi => ?_
        match i with
        | 0 => simpa using held
        | i + 1 => exact w i (by omega)
    · rw [if_neg held]
      exact .inl (by simpa using held)

/-- R194: with at most 48 records, the next number is held by none of them. -/
theorem freeSeq_ne {recs : List FaultRec} (w : recs.length ≤ Config.maxFaults) (n : Nat) :
    ∀ r ∈ recs, r.seq ≠ freeSeq recs (recs.length + 1) n := by
  refine (freeSeq_fresh recs (recs.length + 1) n).resolve_right fun all => ?_
  have sub : (List.range (recs.length + 1)).map (fun i => seqSucc^[i] n) ⊆ recs.map FaultRec.seq := by
    intro m hm
    obtain ⟨i, hi, rfl⟩ := List.mem_map.1 hm
    obtain ⟨r, hr, e⟩ := all i (List.mem_range.1 hi)
    exact List.mem_map.2 ⟨r, hr, e⟩
  have nodup : ((List.range (recs.length + 1)).map fun i => seqSucc^[i] n).Nodup := by
    refine List.Nodup.map_on (fun i hi j hj e => ?_) List.nodup_range
    have bi := List.mem_range.1 hi
    have bj := List.mem_range.1 hj
    have bound : Config.maxFaults = 48 := rfl
    rw [iterate_seqSucc n i (by omega), iterate_seqSucc n j (by omega)] at e
    split_ifs at e <;> omega
  have len := (List.subperm_of_subset nodup sub).length_le
  simp at len

theorem addRecord_ok {f : FaultTable} (w : f.recs.length < Config.maxFaults) (d : (f.recs.map FaultRec.seq).Nodup)
    {x : FaultRec} (e : x.seq = freeSeq f.recs (f.recs.length + 1) f.next) {n : Nat} {o : Bool} :
    FaultTable.ok ⟨f.recs ++ [x], n, o⟩ := by
  refine ⟨by simpa using w, ?_⟩
  simp only [List.map_append, List.map_cons, List.map_nil]
  refine List.nodup_append.2 ⟨d, List.nodup_singleton _, fun a ha b hb => ?_⟩
  obtain ⟨r, hr, rfl⟩ := List.mem_map.1 ha
  rw [List.mem_singleton.1 hb, e]
  exact freeSeq_ne w.le _ r hr

theorem addRecord_moves {g₀ h : Hall} {sec : Seconds} {r : Report} {blocking : Bool} {displaced : Option Nat}
    (x : Moves g₀ h) (w : h.faults.recs.length < Config.maxFaults) : Moves g₀ (addRecord sec r blocking displaced h) := by
  unfold addRecord
  exact Moves.note (Moves.faults x fun v => addRecord_ok w v.2 rfl)

theorem oldestOpen_mem {l : List FaultRec} {r : FaultRec} (w : oldestOpen l = some r) : r ∈ l := by
  have key : ∀ (l : List FaultRec) (b : Option FaultRec),
      l.foldl (fun best r => if r.blocking then best else
        match best with
        | none => some r
        | some b => if r.first < b.first then some r else some b) b = some r → b = some r ∨ r ∈ l := by
    intro l
    induction l with
    | nil => intro b e; exact .inl e
    | cons a l ih =>
      intro b e
      rcases ih _ e with e | e
      · by_cases hb : a.blocking
        · simp only [if_pos hb] at e; exact .inl e
        · simp only [if_neg hb] at e
          cases b with
          | none => cases e; exact .inr (.head _)
          | some c =>
            dsimp only at e
            split at e
            · cases e; exact .inr (.head _)
            · exact .inl e
      · exact .inr (.tail _ e)
  rcases key l none w with e | e
  · cases e
  · exact e

theorem report_moves {g₀ h : Hall} {e : Env} {r : Report} (x : Moves g₀ h) : Moves g₀ (report e r h) := by
  unfold report
  extract_lets +onlyGivenNames b
  split
  · extract_lets +onlyGivenNames f
    refine Moves.note (Moves.faults x fun w => ⟨by simpa using w.1, ?_⟩)
    rw [List.map_map, List.map_congr_left fun y _ => ?_]
    · exact w.2
    · simp only [Function.comp_apply]
      split
      · exact (‹y.seq = _›).symm
      · rfl
  · extract_lets +onlyGivenNames c
    split
    · exact addRecord_moves x ‹_›
    · split
      · exact Moves.note (Moves.faults (f := { h.faults with overflow := true }) x fun w => w)
      · split
        · exact Moves.note (Moves.faults (f := { h.faults with overflow := true }) x fun w => w)
        · rename_i old e
          refine Moves.note (Moves.faults x fun w => ?_)
          refine addRecord_ok (f := { h.faults with
            recs := h.faults.recs.filter fun y => decide (y.seq ≠ old.seq), overflow := true }) ?_
            ((List.filter_sublist.map FaultRec.seq).nodup w.2) rfl
          have k : (h.faults.recs.filter fun y => decide (y.seq ≠ old.seq)).length < h.faults.recs.length :=
            List.length_filter_lt_length_iff_exists.2 ⟨old, oldestOpen_mem e, by simp⟩
          exact k.trans_le w.1

theorem reportTx_moves {g₀ h : Hall} {e : Env} {k : FaultKind} {t : Tx} {d : Option Detail} (x : Moves g₀ h) :
    Moves g₀ (reportTx e k t d h) := by
  unfold reportTx
  repeat' first | with_reducible assumption | with_reducible refine report_moves ?_

theorem reportAsg_moves {g₀ h : Hall} {e : Env} {k : FaultKind} {t : Tx} {d : Option Detail} {withFreq : Bool}
    (x : Moves g₀ h) :
    Moves g₀ (reportAsg e k t d withFreq h) := by
  unfold reportAsg
  repeat' first
    | with_reducible assumption | with_reducible refine report_moves ?_
    | with_reducible refine reportTx_moves ?_ | split

theorem reportOut_moves {g₀ h : Hall} {e : Env} {k : FaultKind} {o : Out} {d : Detail} (x : Moves g₀ h) :
    Moves g₀ (reportOut e k o d h) := by
  unfold reportOut
  repeat' first | with_reducible assumption | with_reducible refine report_moves ?_

/-! ### Banks -/

theorem bankNotice_moves {g₀ h : Hall} {n : BankNo} (x : Moves g₀ h) : Moves g₀ (bankNotice n h) := by
  unfold bankNotice
  repeat' first | with_reducible assumption | with_reducible refine Moves.note ?_

theorem spendBank_moves {g₀ h : Hall} {n : BankNo} (x : Moves g₀ h) : Moves g₀ (spendBank n h) := by
  unfold spendBank
  exact bankNotice_moves (Moves.setBank x fun s => s.banks _)

theorem retireNow_moves {g₀ h : Hall} {n : BankNo} (x : Moves g₀ h) : Moves g₀ (retireNow n h) := by
  unfold retireNow
  repeat' first | with_reducible assumption | with_reducible refine spendBank_moves ?_ | split

theorem retireCheck_moves {g₀ h : Hall} {n : BankNo} (x : Moves g₀ h) : Moves g₀ (retireCheck n h) := by
  unfold retireCheck
  repeat' first | with_reducible assumption | with_reducible refine retireNow_moves ?_ | split

/-! ### Supervisor -/

theorem setTxState_moves {g₀ h : Hall} {t : Tx} {new : TxState} {c : TxCause} (x : Moves g₀ h) :
    Moves g₀ (setTxState t new c h) := by
  unfold setTxState
  repeat' first
    | with_reducible assumption
    | (extract_lets +onlyGivenNames k; refine (fun (_ : Moves g₀ k) => ?_) ?_
       (on_goal 1 => clear_value k); (on_goal 2 => subst k))
    | (extract_lets +onlyGivenNames k; clear_value k) | with_reducible refine Moves.note ?_
    | with_reducible refine Moves.wantAlloc ?_ | with_reducible refine Moves.setTx ?_ fun _ => rfl | split

theorem overtaken_moves {g₀ h : Hall} {t : Tx} {o : Order} (x : Moves g₀ h) : Moves g₀ (overtaken t o h) := by
  unfold overtaken
  repeat' first | with_reducible assumption | with_reducible refine Moves.mapAsg ?_ | split

theorem overtakeOut_moves {g₀ h : Hall} {t : Tx} {p : Order → Bool}
    (x : Moves g₀ h) : Moves g₀ (overtakeOut t p h) := by
  unfold overtakeOut
  repeat' first
    | with_reducible assumption | with_reducible refine Moves.setTx ?_ fun _ => rfl
    | with_reducible refine overtaken_moves ?_ | split

theorem overtakePend_moves {g₀ h : Hall} {t : Tx} {p : Order → Bool}
    (x : Moves g₀ h) : Moves g₀ (overtakePend t p h) := by
  unfold overtakePend
  repeat' first
    | with_reducible assumption | with_reducible refine Moves.setTx ?_ fun _ => rfl
    | with_reducible refine overtaken_moves ?_ | split

theorem ordersOver_moves {g₀ h : Hall} {t : Tx} (x : Moves g₀ h) : Moves g₀ (ordersOver t h) :=
  overtakePend_moves (overtakeOut_moves x)

theorem makePending_moves {g₀ h : Hall} {t : Tx} {o : Order} (x : Moves g₀ h) : Moves g₀ (makePending t o h) := by
  unfold makePending
  repeat' first
    | with_reducible assumption | with_reducible refine Moves.setTx ?_ fun _ => rfl
    | with_reducible refine overtakePend_moves ?_

theorem lowerByTrip_moves {g₀ h : Hall} {t : Tx} (x : Moves g₀ h) : Moves g₀ (lowerByTrip t h) :=
  Moves.setTx x fun _ => rfl

theorem queueLower_moves {g₀ h : Hall} {t : Tx} {byTrip : Bool}
    (x : Moves g₀ h) : Moves g₀ (queueLower t byTrip h) := by
  unfold queueLower
  repeat' first
    | with_reducible assumption
    | (extract_lets +onlyGivenNames k; refine (fun (_ : Moves g₀ k) => ?_) ?_
       (on_goal 1 => clear_value k); (on_goal 2 => subst k))
    | (extract_lets +onlyGivenNames k; clear_value k) | with_reducible refine Moves.setTx ?_ fun _ => rfl
    | with_reducible refine overtakeOut_moves ?_ | with_reducible refine overtakePend_moves ?_
    | with_reducible refine makePending_moves ?_ | with_reducible refine lowerByTrip_moves ?_ | split

theorem handLower_moves {g₀ h : Hall} {e : Env} {t : Tx} {byTrip : Bool} (x : Moves g₀ h) :
    Moves g₀ (handLower e t byTrip h) := by
  unfold handLower
  repeat' first | with_reducible assumption | with_reducible refine queueLower_moves ?_ | split

theorem handClear_moves {g₀ h : Hall} {e : Env} {t : Tx} (x : Moves g₀ h) : Moves g₀ (handClear e t h) := by
  unfold handClear
  repeat' first
    | with_reducible assumption
    | (extract_lets +onlyGivenNames k; refine (fun (_ : Moves g₀ k) => ?_) ?_
       (on_goal 1 => clear_value k); (on_goal 2 => subst k))
    | (extract_lets +onlyGivenNames k; clear_value k) | with_reducible refine Moves.setTx ?_ fun _ => rfl
    | with_reducible refine makePending_moves ?_ | split

theorem withdrawRaise_moves {g₀ h : Hall} {t : Tx} (x : Moves g₀ h) : Moves g₀ (withdrawRaise t h) := by
  unfold withdrawRaise
  repeat' first | with_reducible assumption | with_reducible refine Moves.setTx ?_ fun _ => rfl

theorem repower_moves {g₀ h : Hall} {t : Tx} {kw : Nat} (x : Moves g₀ h) : Moves g₀ (repower t kw h) := by
  unfold repower
  dsimp only
  exact Moves.setTx x fun _ => rfl

theorem noHandBack_moves {g₀ h : Hall} {t : Tx} {p : OrderKind → Bool}
    (x : Moves g₀ h) : Moves g₀ (noHandBack t p h) := by
  unfold noHandBack
  repeat' first
    | with_reducible assumption
    | (extract_lets +onlyGivenNames k; refine (fun (_ : Moves g₀ k) => ?_) ?_
       (on_goal 1 => clear_value k); (on_goal 2 => subst k))
    | (extract_lets +onlyGivenNames k; clear_value k) | with_reducible refine Moves.setTx ?_ fun _ => rfl
    | split

theorem dropHandBack_moves {g₀ h : Hall} {t : Tx} (x : Moves g₀ h) : Moves g₀ (dropHandBack t h) := by
  unfold dropHandBack
  repeat' first | with_reducible assumption | with_reducible refine noHandBack_moves ?_

/-! ### Sequences -/

theorem leaveQueued_moves {g₀ h : Hall} {t : Tx} (x : Moves g₀ h) : Moves g₀ (leaveQueued t h) := by
  unfold leaveQueued
  repeat' first | with_reducible assumption | with_reducible refine Moves.setQueue ?_

theorem cancelSeq_moves {g₀ h : Hall} {t : Tx} (x : Moves g₀ h) : Moves g₀ (cancelSeq t h) := by
  unfold cancelSeq
  repeat' first
    | with_reducible assumption
    | (extract_lets +onlyGivenNames k; refine (fun (_ : Moves g₀ k) => ?_) ?_
       (on_goal 1 => clear_value k); (on_goal 2 => subst k))
    | (extract_lets +onlyGivenNames k; clear_value k) | with_reducible refine Moves.setSeq ?_
    | with_reducible refine leaveQueued_moves ?_ | split

theorem outAvailable_moves {g₀ h : Hall} {o : Out} (x : Moves g₀ h) : Moves g₀ (outAvailable o h) := by
  unfold outAvailable
  repeat' first | with_reducible assumption | with_reducible refine Moves.wantAlloc ?_ | split

theorem outBecomes_moves {g₀ h : Hall} {old now : OutState} (x : Moves g₀ h) : Moves g₀ (outBecomes old now h) := by
  unfold outBecomes
  split
  · exact Moves.wantAlloc x
  · exact x

theorem release_moves {g₀ h : Hall} {o : Out} (x : Moves g₀ h) : Moves g₀ (release o h) := by
  unfold release
  repeat' first
    | with_reducible assumption | with_reducible refine Moves.setOwner ?_
    | with_reducible refine outAvailable_moves ?_

theorem rowOpened_moves {g₀ h : Hall} {t : Tx} {o : Out} (x : Moves g₀ h) : Moves g₀ (rowOpened t o h) := by
  unfold rowOpened
  repeat' first
    | with_reducible assumption
    | with_reducible refine release_moves ?_ | split

theorem dropBreak_moves {g₀ h : Hall} {t : Tx} {o : Out} (x : Moves g₀ h) : Moves g₀ (dropBreak t o h) := x.setQueue

theorem xptChangeTo_moves {g₀ h : Hall} {t : Tx} {o : Out} {st : XState} {c : XCause} {after : Hall → OutState}
    (x : Moves g₀ h) :
    Moves g₀ (xptChangeTo t o st c after h) := by
  unfold xptChangeTo
  repeat' first
    | with_reducible assumption
    | (extract_lets +onlyGivenNames k; refine (fun (_ : Moves g₀ k) => ?_) ?_
       (on_goal 1 => clear_value k); (on_goal 2 => subst k))
    | (extract_lets +onlyGivenNames k; clear_value k) | with_reducible refine Moves.note ?_
    | with_reducible refine Moves.setXpt ?_ | with_reducible refine outBecomes_moves ?_
    | with_reducible refine rowOpened_moves ?_ | with_reducible refine dropBreak_moves ?_ | split

theorem xptChange_moves {g₀ h : Hall} {t : Tx} {o : Out} {st : XState} {c : XCause} {fault : Bool} (x : Moves g₀ h) :
    Moves g₀ (xptChange t o st c fault h) := by
  unfold xptChange
  repeat' first | with_reducible assumption | with_reducible refine xptChangeTo_moves ?_

theorem posChangeTo_moves {g₀ h : Hall} {o : Out} {st : PosState} {c : PosCause} {after : Hall → OutState}
    (x : Moves g₀ h) :
    Moves g₀ (posChangeTo o st c after h) := by
  unfold posChangeTo
  repeat' first
    | with_reducible assumption
    | (extract_lets +onlyGivenNames k; refine (fun (_ : Moves g₀ k) => ?_) ?_
       (on_goal 1 => clear_value k); (on_goal 2 => subst k))
    | (extract_lets +onlyGivenNames k; clear_value k) | with_reducible refine Moves.note ?_
    | with_reducible refine Moves.mapPos ?_

theorem posChange_moves {g₀ h : Hall} {o : Out} {st : PosState} {c : PosCause} {fault : Bool} (x : Moves g₀ h) :
    Moves g₀ (posChange o st c fault h) := by
  unfold posChange
  repeat' first | with_reducible assumption | with_reducible refine posChangeTo_moves ?_

/-! ### Ends -/

theorem pushStack_moves {g₀ h : Hall} {e : Env} {t : Tx} {it : Item} {r : StackReason} (x : Moves g₀ h) :
    Moves g₀ (pushStack e t it r h) := by
  unfold pushStack
  extract_lets +onlyGivenNames new l
  split
  · exact Moves.setStack x fun _ => by simpa using ‹l.length < Config.maxStack›
  · extract_lets +onlyGivenNames keep out k
    refine Moves.each ?_ fun a k y => retireCheck_moves (Moves.note y)
    exact Moves.wantAlloc (Moves.setStack x fun _ => by simp [keep, Config.maxStack])

theorem insertItem_length (d : DeferItem) (l : List DeferItem) : (insertItem d l).length = l.length + 1 := by
  induction l with
  | nil => rfl
  | cons a l ih =>
    unfold insertItem
    split
    · rfl
    · simp [ih]

theorem deferItem_moves {g₀ h : Hall} {e : Env} {it : Item} {r : DeferReason} (x : Moves g₀ h) :
    Moves g₀ (deferItem e it r h) := by
  unfold deferItem
  split
  · exact Moves.note (Moves.deferral x fun _ => by rw [insertItem_length]; omega)
  · exact Moves.note (report_moves x)

theorem passClaim_moves {g₀ h : Hall} {t : Tx} {o : Out} (x : Moves g₀ h) : Moves g₀ (passClaim t o h) := by
  unfold passClaim
  repeat' first
    | with_reducible assumption | with_reducible refine Moves.mapAsg ?_
    | with_reducible refine Moves.setOwner ?_ | with_reducible refine release_moves ?_ | split

theorem clearAwaits_moves {g₀ h : Hall} {t : Tx} (x : Moves g₀ h) : Moves g₀ (clearAwaits t h) := by
  unfold clearAwaits
  repeat' first | with_reducible assumption | split | with_reducible refine Moves.asgs ?_

theorem completeEnd_moves {g₀ h : Hall} {e : Env} {t : Tx} (x : Moves g₀ h) : Moves g₀ (completeEnd e t h) := by
  unfold completeEnd
  repeat' first
    | with_reducible assumption
    | (extract_lets +onlyGivenNames k; refine (fun (_ : Moves g₀ k) => ?_) ?_
       (on_goal 1 => clear_value k); (on_goal 2 => subst k))
    | (extract_lets +onlyGivenNames k; clear_value k) | with_reducible refine Moves.note ?_
    | with_reducible refine Moves.wantAlloc ?_ | with_reducible refine Moves.setAsg ?_
    | with_reducible refine Moves.each ?_ fun _ _ _ => ?_ | with_reducible refine retireCheck_moves ?_
    | with_reducible refine pushStack_moves ?_ | with_reducible refine deferItem_moves ?_
    | with_reducible refine passClaim_moves ?_ | with_reducible refine clearAwaits_moves ?_ | split

theorem tryEnd_moves {g₀ h : Hall} {e : Env} {t : Tx} (x : Moves g₀ h) : Moves g₀ (tryEnd e t h) := by
  unfold tryEnd
  repeat' first
    | with_reducible assumption | with_reducible refine handLower_moves ?_
    | with_reducible refine completeEnd_moves ?_ | split

theorem endAsg_moves {g₀ h : Hall} {e : Env} {t : Tx} {o : EndOutcome} {after : After} (x : Moves g₀ h) :
    Moves g₀ (endAsg e t o after h) := by
  unfold endAsg
  repeat' first
    | with_reducible assumption
    | (extract_lets +onlyGivenNames k; refine (fun (_ : Moves g₀ k) => ?_) ?_
       (on_goal 1 => clear_value k); (on_goal 2 => subst k))
    | (extract_lets +onlyGivenNames k; clear_value k) | with_reducible refine Moves.setAsg ?_
    | with_reducible refine withdrawRaise_moves ?_ | with_reducible refine dropHandBack_moves ?_
    | with_reducible refine cancelSeq_moves ?_ | with_reducible refine tryEnd_moves ?_ | split

theorem abortAsg_moves {g₀ h : Hall} {e : Env} {t : Tx} (x : Moves g₀ h) : Moves g₀ (abortAsg e t h) := by
  unfold abortAsg
  repeat' first
    | with_reducible assumption | with_reducible refine Moves.setAsg ?_
    | with_reducible refine endAsg_moves ?_ | split

theorem failSeq_moves {g₀ h : Hall} {e : Env} {t : Tx} (x : Moves g₀ h) : Moves g₀ (failSeq e t h) := by
  unfold failSeq
  repeat' first
    | with_reducible assumption | with_reducible refine cancelSeq_moves ?_
    | with_reducible refine endAsg_moves ?_

theorem pushAsg_moves {g₀ h : Hall} {e : Env} {t : Tx} {a : Asg} {r : StackReason} (x : Moves g₀ h) :
    Moves g₀ (pushAsg e t a r h) := by
  unfold pushAsg
  repeat' first | with_reducible assumption | with_reducible refine pushStack_moves ?_ | split

theorem engineLocal_moves {g₀ h : Hall} {e : Env} {t : Tx} (x : Moves g₀ h) : Moves g₀ (engineLocal e t h) := by
  unfold engineLocal
  repeat' first
    | with_reducible assumption
    | (extract_lets +onlyGivenNames k; refine (fun (_ : Moves g₀ k) => ?_) ?_
       (on_goal 1 => clear_value k); (on_goal 2 => subst k))
    | (extract_lets +onlyGivenNames k; clear_value k) | with_reducible refine Moves.setAsg ?_
    | with_reducible refine dropHandBack_moves ?_ | with_reducible refine cancelSeq_moves ?_
    | with_reducible refine completeEnd_moves ?_ | split

theorem engineLockout_moves {g₀ h : Hall} {e : Env} {t : Tx} (x : Moves g₀ h) : Moves g₀ (engineLockout e t h) := by
  unfold engineLockout
  repeat' first | with_reducible assumption | with_reducible refine endAsg_moves ?_

theorem engineLowerTimeout_moves {g₀ h : Hall} {e : Env} {t : Tx} (x : Moves g₀ h) :
    Moves g₀ (engineLowerTimeout e t h) := by
  unfold engineLowerTimeout
  repeat' first
    | with_reducible assumption | with_reducible refine Moves.mapAsg ?_
    | with_reducible refine tryEnd_moves ?_

theorem itemsLeave_moves {g₀ h : Hall} {n : Occ → NoticeBody} {l : List StackItem} (x : Moves g₀ h) :
    Moves g₀ (itemsLeave n l h) := by
  induction l generalizing h with
  | nil => exact x
  | cons i rest ih =>
    refine ih ?_
    split
    · exact Moves.note x
    · exact retireCheck_moves (Moves.note x)

theorem dropStack_moves {g₀ h : Hall} {t : Tx} {p : Item → Bool} {n : Occ → NoticeBody} (x : Moves g₀ h) :
    Moves g₀ (dropStack t p n h) := by
  unfold dropStack
  extract_lets +onlyGivenNames out
  split
  · exact x
  · exact itemsLeave_moves (Moves.wantAlloc (Moves.setStack x fun w => (List.length_filter_le _ _).trans w))

theorem dropDeferral_moves {g₀ h : Hall} {p : Item → Bool} {n : Occ → NoticeBody} (x : Moves g₀ h) :
    Moves g₀ (dropDeferral p n h) := by
  unfold dropDeferral
  exact Moves.notes (Moves.deferral x fun w => (List.length_filter_le _ _).trans w)

/-! ### Freq -/

theorem reportExcluded_moves {g₀ h : Hall} {e : Env} {occ : Occ} {f : Nat} {p : CheckPoint} {a : CheckAnswer}
    (x : Moves g₀ h) :
    Moves g₀ (reportExcluded e occ f p a h) := by
  unfold reportExcluded
  repeat' first | with_reducible assumption | with_reducible refine report_moves ?_

theorem reportRefusal_moves {g₀ h : Hall} {e : Env} {t : Tx} {p : CheckPoint} {ans : CheckAnswer} (x : Moves g₀ h) :
    Moves g₀ (reportRefusal e t p ans h) := by
  unfold reportRefusal
  repeat' first
    | with_reducible assumption | with_reducible refine report_moves ?_
    | with_reducible refine reportExcluded_moves ?_ | split

theorem endRefused_moves {g₀ h : Hall} {e : Env} {t : Tx} (x : Moves g₀ h) : Moves g₀ (endRefused e t h) :=
  endAsg_moves x

theorem refuseAsg_moves {g₀ h : Hall} {e : Env} {t : Tx} {p : CheckPoint} {ans : CheckAnswer} (x : Moves g₀ h) :
    Moves g₀ (refuseAsg e t p ans h) := by
  exact endRefused_moves (reportRefusal_moves x)

theorem sweepOf_moves {g₀ h : Hall} {e : Env} {l : List (Tx × CheckAnswer)} (x : Moves g₀ h) :
    Moves g₀ (sweepOf e l h) :=
  Moves.each (Moves.each x fun _ _ y => reportRefusal_moves y) fun _ _ y => endRefused_moves y

theorem sweepErased_moves {g₀ h : Hall} {e : Env} (x : Moves g₀ h) : Moves g₀ (sweepErased e h) := sweepOf_moves x

theorem sweep_moves {g₀ h : Hall} {e : Env} (x : Moves g₀ h) : Moves g₀ (sweep e h) := by
  exact sweepOf_moves x

/-! ### Paths -/

theorem pathComplete_moves {g₀ h : Hall} {t : Tx} (x : Moves g₀ h) : Moves g₀ (pathComplete t h) := by
  unfold pathComplete
  repeat' first | with_reducible assumption | with_reducible refine Moves.mapAsg ?_ | split

theorem pathRequest_moves {g₀ h : Hall} {e : Env} {t : Tx} {g : Target} (x : Moves g₀ h) :
    Moves g₀ (pathRequest e t g h) := by
  unfold pathRequest
  repeat' first
    | with_reducible assumption
    | (extract_lets +onlyGivenNames k; refine (fun (_ : Moves g₀ k) => ?_) ?_
       (on_goal 1 => clear_value k); (on_goal 2 => subst k))
    | (extract_lets +onlyGivenNames k; clear_value k) | with_reducible refine Moves.setSeq ?_
    | with_reducible refine leaveQueued_moves ?_ | with_reducible refine failSeq_moves ?_
    | with_reducible refine pathComplete_moves ?_ | split

theorem joinOrQueue_moves {g₀ h : Hall} {t : Tx} {k : MotionKind} (x : Moves g₀ h) : Moves g₀ (joinOrQueue t k h) := by
  unfold joinOrQueue
  repeat' first
    | with_reducible assumption
    | (extract_lets +onlyGivenNames k; refine (fun (_ : Moves g₀ k) => ?_) ?_
       (on_goal 1 => clear_value k); (on_goal 2 => subst k))
    | (extract_lets +onlyGivenNames k; clear_value k) | with_reducible refine Moves.setPath ?_
    | with_reducible refine Moves.setQueue ?_ | with_reducible refine Moves.mapSlots ?_ | split

theorem seqStep_moves {g₀ h : Hall} {e : Env} {t : Tx} (x : Moves g₀ h) : OMoves g₀ (seqStep e t h) := by
  unfold seqStep
  repeat' first
    | with_reducible assumption
    | (extract_lets +onlyGivenNames k; refine (fun (_ : Moves g₀ k) => ?_) ?_
       (on_goal 1 => clear_value k); (on_goal 2 => subst k))
    | (extract_lets +onlyGivenNames k; clear_value k) | with_reducible exact OMoves.none
    | with_reducible refine OMoves.some ?_ | with_reducible refine Moves.setSeq ?_
    | with_reducible refine Moves.each ?_ fun _ _ _ => ?_ | with_reducible refine failSeq_moves ?_
    | with_reducible refine pathComplete_moves ?_ | with_reducible refine joinOrQueue_moves ?_ | split

theorem startMotion_moves {g₀ h : Hall} {e : Env} {k : MotionKind} (x : Moves g₀ h) :
    Moves g₀ (startMotion e k h).1 := by
  unfold startMotion
  split
  · exact outBecomes_moves (Moves.setColCmd (Moves.setXpt x))
  · exact Moves.setColCmd (Moves.setXpt x)
  · split
    · exact x
    · exact Moves.setDrvCmd (Moves.mapPos x)

theorem grantStep_moves {g₀ h : Hall} {e : Env} (x : Moves g₀ h) : OMoves g₀ (grantStep e h) := by
  unfold grantStep
  split
  · exact OMoves.some (Moves.setSlot (startMotion_moves (Moves.setQueue x)))
  · exact OMoves.none

theorem colStep_moves {g₀ h : Hall} {e : Env} {o : Out} (x : Moves g₀ h) : OMoves g₀ (colStep e o h) := by
  unfold colStep
  repeat' first
    | with_reducible assumption
    | (extract_lets +onlyGivenNames k; refine (fun (_ : Moves g₀ k) => ?_) ?_
       (on_goal 1 => clear_value k); (on_goal 2 => subst k))
    | (extract_lets +onlyGivenNames k; clear_value k) | with_reducible exact OMoves.none
    | with_reducible refine OMoves.some ?_ | with_reducible refine Moves.setCol ?_
    | with_reducible refine Moves.setColCmd ?_ | split

theorem queryStep_moves {g₀ h : Hall} {e : Env} {o : Out} (x : Moves g₀ h) : OMoves g₀ (queryStep e o h) := by
  unfold queryStep
  repeat' first
    | with_reducible assumption
    | (extract_lets +onlyGivenNames k; refine (fun (_ : Moves g₀ k) => ?_) ?_
       (on_goal 1 => clear_value k); (on_goal 2 => subst k))
    | (extract_lets +onlyGivenNames k; clear_value k) | with_reducible exact OMoves.none
    | with_reducible refine OMoves.some ?_ | with_reducible refine Moves.mapPos ?_
    | with_reducible refine Moves.setDrvCmd ?_ | split

theorem beginRead_moves {g₀ h : Hall} {o : Out} {clear : Bool} {now : Ms} (x : Moves g₀ h) :
    Moves g₀ (beginRead o clear now h) := by
  unfold beginRead
  repeat' first | with_reducible assumption | with_reducible refine Moves.mapPos ?_

/-! ### Permits -/

theorem waiterFails_moves {g₀ h : Hall} {e : Env} {u : Tx} (x : Moves g₀ h) : Moves g₀ (waiterFails e u h) := by
  unfold waiterFails
  repeat' first | with_reducible assumption | with_reducible refine failSeq_moves ?_ | split

theorem hotWaiters_moves {g₀ h : Hall} {e : Env} {t : Tx} {l : List Tx} (x : Moves g₀ h) :
    Moves g₀ (hotWaiters e t l h) := by
  unfold hotWaiters
  repeat' first
    | with_reducible assumption | with_reducible refine Moves.each ?_ fun _ _ _ => ?_
    | with_reducible refine cancelSeq_moves ?_ | with_reducible refine waiterFails_moves ?_ | split

theorem hotThrows_moves {g₀ h : Hall} {e : Env} {t : Tx} (x : Moves g₀ h) : Moves g₀ (hotThrows e t h) := by
  unfold hotThrows
  repeat' first
    | with_reducible assumption
    | (extract_lets +onlyGivenNames k; refine (fun (_ : Moves g₀ k) => ?_) ?_
       (on_goal 1 => clear_value k); (on_goal 2 => subst k))
    | (extract_lets +onlyGivenNames k; clear_value k) | with_reducible refine Moves.mapSlots ?_
    | with_reducible refine Moves.each ?_ fun _ _ _ => ?_ | with_reducible refine reportOut_moves ?_
    | with_reducible refine xptChange_moves ?_ | with_reducible refine hotWaiters_moves ?_ | split

theorem hotSlews_moves {g₀ h : Hall} {e : Env} {t : Tx} {fed : List Out} (x : Moves g₀ h) :
    Moves g₀ (hotSlews e t fed h) := by
  unfold hotSlews
  repeat' first
    | with_reducible assumption
    | (extract_lets +onlyGivenNames k; refine (fun (_ : Moves g₀ k) => ?_) ?_
       (on_goal 1 => clear_value k); (on_goal 2 => subst k))
    | (extract_lets +onlyGivenNames k; clear_value k) | with_reducible refine Moves.mapSlots ?_
    | with_reducible refine Moves.each ?_ fun _ _ _ => ?_ | with_reducible refine reportOut_moves ?_
    | with_reducible refine posChange_moves ?_ | with_reducible refine hotWaiters_moves ?_ | split

theorem hotSwitch_moves {g₀ h : Hall} {e : Env} {t : Tx} {contact : Bool} (x : Moves g₀ h) :
    Moves g₀ (hotSwitch e t contact h) := by
  unfold hotSwitch
  repeat' first
    | with_reducible assumption
    | (extract_lets +onlyGivenNames k; refine (fun (_ : Moves g₀ k) => ?_) ?_
       (on_goal 1 => clear_value k); (on_goal 2 => subst k))
    | (extract_lets +onlyGivenNames k; clear_value k) | with_reducible refine Moves.setTx ?_ fun _ => rfl
    | with_reducible refine reportTx_moves ?_ | with_reducible refine setTxState_moves ?_
    | with_reducible refine overtakeOut_moves ?_ | with_reducible refine overtakePend_moves ?_
    | with_reducible refine handLower_moves ?_ | with_reducible refine engineLockout_moves ?_
    | with_reducible refine hotThrows_moves ?_ | with_reducible refine hotSlews_moves ?_ | split

theorem lockoutTrips_moves {g₀ h : Hall} {e : Env} {t : Tx} (x : Moves g₀ h) : Moves g₀ (lockoutTrips e t h) := by
  unfold lockoutTrips
  repeat' first
    | with_reducible assumption
    | (extract_lets +onlyGivenNames k; refine (fun (_ : Moves g₀ k) => ?_) ?_
       (on_goal 1 => clear_value k); (on_goal 2 => subst k))
    | (extract_lets +onlyGivenNames k; clear_value k) | with_reducible refine Moves.setTx ?_ fun _ => rfl
    | with_reducible refine report_moves ?_ | with_reducible refine reportAsg_moves ?_
    | with_reducible refine setTxState_moves ?_ | with_reducible refine overtakePend_moves ?_
    | with_reducible refine dropHandBack_moves ?_ | with_reducible refine engineLockout_moves ?_ | split

theorem takeBackPermit_moves {g₀ h : Hall} {e : Env} {t : Tx} (x : Moves g₀ h) : Moves g₀ (takeBackPermit e t h) := by
  unfold takeBackPermit
  repeat' first
    | with_reducible assumption
    | (extract_lets +onlyGivenNames k; refine (fun (_ : Moves g₀ k) => ?_) ?_
       (on_goal 1 => clear_value k); (on_goal 2 => subst k))
    | (extract_lets +onlyGivenNames k; clear_value k) | with_reducible refine Moves.setTx ?_ fun _ => rfl
    | with_reducible refine reportTx_moves ?_ | with_reducible refine hotSwitch_moves ?_ | split

theorem permitStep_moves {g₀ h : Hall} {e : Env} {t : Tx} (x : Moves g₀ h) : OMoves g₀ (permitStep e t h) := by
  unfold permitStep
  dsimp only
  repeat' first
    | with_reducible exact OMoves.none
    | with_reducible exact OMoves.some (Moves.setTx x fun _ => rfl)
    | split

theorem takeBackStep_moves {g₀ h : Hall} {e : Env} {t : Tx} (x : Moves g₀ h) : OMoves g₀ (takeBackStep e t h) := by
  unfold takeBackStep
  split
  · exact OMoves.some (takeBackPermit_moves x)
  · exact OMoves.none

/-! ### Trips -/

theorem windowLeave_moves {g₀ h : Hall} {t : Tx} {out : List TripEntry} (x : Moves g₀ h) :
    Moves g₀ (windowLeave t out h) := by
  unfold windowLeave
  repeat' first | with_reducible assumption | with_reducible refine Moves.mapAsg ?_

theorem addTrip_moves {g₀ h : Hall} {e : Env} {t : Tx} {c : TripCause}
    (x : Moves g₀ h) : Moves g₀ (addTrip e t c h) := by
  unfold addTrip
  extract_lets +onlyGivenNames w n k
  have y : Moves g₀ k := windowLeave_moves x
  refine Moves.setTxWin y fun _ => ?_
  simp only [w, n, List.length_append, List.length_drop, List.length_cons, List.length_nil]
  simp only [Config.maxWindow]
  omega

theorem expireWindow_moves {g₀ h : Hall} {e : Env} {t : Tx} (x : Moves g₀ h) : Moves g₀ (expireWindow e t h) := by
  unfold expireWindow
  extract_lets +onlyGivenNames old w k
  have y : Moves g₀ k := windowLeave_moves x
  exact Moves.setTxWin y fun v => (List.length_filter_le _ _).trans v

theorem emptyWindow_moves {g₀ h : Hall} {t : Tx} (x : Moves g₀ h) : Moves g₀ (emptyWindow t h) := by
  unfold emptyWindow
  exact Moves.setTxWin (windowLeave_moves x) fun _ => by simp

theorem engineTrip_moves {g₀ h : Hall} {e : Env} {t : Tx} {counted : Bool} (x : Moves g₀ h) :
    Moves g₀ (engineTrip e t counted h) := by
  unfold engineTrip
  repeat' first
    | with_reducible assumption
    | (extract_lets +onlyGivenNames k; refine (fun (_ : Moves g₀ k) => ?_) ?_
       (on_goal 1 => clear_value k); (on_goal 2 => subst k))
    | (extract_lets +onlyGivenNames k; clear_value k) | with_reducible refine Moves.mapAsg ?_ | split

theorem trip_moves {g₀ h : Hall} {e : Env} {t : Tx} {c : TripCause} (x : Moves g₀ h) : Moves g₀ (trip e t c h) := by
  unfold trip
  repeat' first
    | with_reducible assumption
    | (extract_lets +onlyGivenNames k; refine (fun (_ : Moves g₀ k) => ?_) ?_
       (on_goal 1 => clear_value k); (on_goal 2 => subst k))
    | (extract_lets +onlyGivenNames k; clear_value k) | with_reducible refine Moves.setTx ?_ fun _ => rfl
    | with_reducible refine reportAsg_moves ?_ | with_reducible refine setTxState_moves ?_
    | with_reducible refine overtakeOut_moves ?_ | with_reducible refine overtakePend_moves ?_
    | with_reducible refine handLower_moves ?_ | with_reducible refine addTrip_moves ?_
    | with_reducible refine engineTrip_moves ?_ | split

theorem tripLowering_moves {g₀ h : Hall} {e : Env} {t : Tx} {c : CabTrip} (x : Moves g₀ h) :
    Moves g₀ (tripLowering e t c h) := by
  unfold tripLowering
  repeat' first
    | with_reducible assumption | with_reducible refine reportTx_moves ?_
    | with_reducible refine setTxState_moves ?_ | with_reducible refine handClear_moves ?_
    | with_reducible refine trip_moves ?_

theorem tripUncounted_moves {g₀ h : Hall} {e : Env} {t : Tx} {c : TxCause} (x : Moves g₀ h) :
    Moves g₀ (tripUncounted e t c h) := by
  unfold tripUncounted
  repeat' first
    | with_reducible assumption | with_reducible refine setTxState_moves ?_
    | with_reducible refine handClear_moves ?_

theorem rfUnexpected_moves {g₀ h : Hall} {e : Env} {t : Tx} (x : Moves g₀ h) : Moves g₀ (rfUnexpected e t h) := by
  unfold rfUnexpected
  repeat' first
    | with_reducible assumption | with_reducible refine reportTx_moves ?_
    | with_reducible refine handLower_moves ?_

theorem rederive_moves {g₀ h : Hall} {e : Env} {t : Tx} {before : Option TxState} {c : TxCause} (x : Moves g₀ h) :
    Moves g₀ (rederive e t before c h) := by
  unfold rederive
  repeat' first
    | with_reducible assumption
    | (extract_lets +onlyGivenNames k; refine (fun (_ : Moves g₀ k) => ?_) ?_
       (on_goal 1 => clear_value k); (on_goal 2 => subst k))
    | (extract_lets +onlyGivenNames k; clear_value k) | with_reducible refine setTxState_moves ?_
    | with_reducible refine trip_moves ?_ | with_reducible refine tripUncounted_moves ?_
    | with_reducible refine rfUnexpected_moves ?_ | with_reducible refine overtakePend_moves ?_
    | with_reducible refine overtakeOut_moves ?_ | split

/-! ### Orders -/

theorem declined_moves {g₀ h : Hall} {e : Env} {t : Tx} {o : Order} {r : DeclineReason} {st : Option TxState}
    (x : Moves g₀ h) :
    Moves g₀ (declined e t o r st h) := by
  unfold declined
  repeat' first
    | with_reducible assumption
    | (extract_lets +onlyGivenNames k; refine (fun (_ : Moves g₀ k) => ?_) ?_
       (on_goal 1 => clear_value k); (on_goal 2 => subst k))
    | (extract_lets +onlyGivenNames k; clear_value k) | with_reducible refine reportTx_moves ?_
    | with_reducible refine endAsg_moves ?_ | split

theorem clearFailed_moves {g₀ h : Hall} {e : Env} {t : Tx} (x : Moves g₀ h) : Moves g₀ (clearFailed e t h) := by
  unfold clearFailed
  repeat' first | with_reducible assumption | with_reducible refine trip_moves ?_ | split

theorem clearDeclined_moves {g₀ h : Hall} {e : Env} {t : Tx} {o : Order} (x : Moves g₀ h) :
    Moves g₀ (clearDeclined e t o h) := by
  unfold clearDeclined
  repeat' first | with_reducible assumption | with_reducible refine clearFailed_moves ?_ | split

theorem declineUnsent_moves {g₀ h : Hall} {e : Env} {t : Tx} {o : Order} (x : Moves g₀ h) :
    Moves g₀ (declineUnsent e t o h) := by
  exact clearDeclined_moves (declined_moves x)

theorem handOrder_moves {g₀ h : Hall} {e : Env} {t : Tx} {k : OrderKind} (x : Moves g₀ h) :
    Moves g₀ (handOrder e t k h) := by
  unfold handOrder
  repeat' first
    | with_reducible assumption
    | (extract_lets +onlyGivenNames k; refine (fun (_ : Moves g₀ k) => ?_) ?_
       (on_goal 1 => clear_value k); (on_goal 2 => subst k))
    | (extract_lets +onlyGivenNames k; clear_value k) | with_reducible refine Moves.setTx ?_ fun _ => rfl
    | with_reducible refine overtaken_moves ?_ | with_reducible refine makePending_moves ?_
    | with_reducible refine declineUnsent_moves ?_ | split

theorem pendStep_moves {g₀ h : Hall} {e : Env} {t : Tx} (x : Moves g₀ h) : OMoves g₀ (pendStep e t h) := by
  unfold pendStep
  repeat' first
    | with_reducible assumption
    | (extract_lets +onlyGivenNames k; refine (fun (_ : Moves g₀ k) => ?_) ?_
       (on_goal 1 => clear_value k); (on_goal 2 => subst k))
    | (extract_lets +onlyGivenNames k; clear_value k) | with_reducible exact OMoves.none
    | with_reducible refine OMoves.some ?_ | with_reducible refine Moves.setTx ?_ fun _ => rfl
    | with_reducible refine overtaken_moves ?_ | with_reducible refine declineUnsent_moves ?_ | split

theorem askPath_moves {g₀ h : Hall} {e : Env} {t : Tx} {a : Asg} (x : Moves g₀ h) : Moves g₀ (askPath e t a h) := by
  unfold askPath
  repeat' first
    | with_reducible assumption
    | (extract_lets +onlyGivenNames k; refine (fun (_ : Moves g₀ k) => ?_) ?_
       (on_goal 1 => clear_value k); (on_goal 2 => subst k))
    | (extract_lets +onlyGivenNames k; clear_value k) | with_reducible refine Moves.mapAsg ?_
    | with_reducible refine pathRequest_moves ?_ | split

theorem askTune_moves {g₀ h : Hall} {e : Env} {t : Tx} {a : Asg} (x : Moves g₀ h) : Moves g₀ (askTune e t a h) := by
  unfold askTune
  repeat' first
    | with_reducible assumption | with_reducible refine Moves.mapAsg ?_
    | with_reducible refine refuseAsg_moves ?_ | with_reducible refine handOrder_moves ?_ | split

theorem askRaise_moves {g₀ h : Hall} {e : Env} {t : Tx} {a : Asg} (x : Moves g₀ h) : Moves g₀ (askRaise e t a h) := by
  unfold askRaise
  repeat' first
    | with_reducible assumption | with_reducible refine Moves.mapAsg ?_
    | with_reducible refine refuseAsg_moves ?_ | with_reducible refine handOrder_moves ?_ | split

theorem goOnAir_moves {g₀ h : Hall} {e : Env} {t : Tx} {late : Bool}
    (x : Moves g₀ h) : Moves g₀ (goOnAir e t late h) := by
  unfold goOnAir
  repeat' first | with_reducible assumption | with_reducible refine Moves.mapAsg ?_ | split

theorem muteAsg_moves {g₀ h : Hall} {e : Env} {t : Tx} {a : Asg} (x : Moves g₀ h) : Moves g₀ (muteAsg e t a h) := by
  unfold muteAsg
  repeat' first
    | with_reducible assumption | with_reducible refine Moves.mapAsg ?_
    | with_reducible refine withdrawRaise_moves ?_ | with_reducible refine endAsg_moves ?_ | split

theorem claimStep_moves {g₀ h : Hall} {t : Tx} {a : Asg} (x : Moves g₀ h) : OMoves g₀ (claimStep t a h) := by
  unfold claimStep
  repeat' first
    | with_reducible assumption | with_reducible exact OMoves.none | with_reducible refine OMoves.some ?_
    | with_reducible refine Moves.mapAsg ?_ | with_reducible refine Moves.setOwner ?_ | split

theorem workStep_moves {g₀ h : Hall} {e : Env} {t : Tx} {a : Asg} (x : Moves g₀ h) : OMoves g₀ (workStep e t a h) := by
  unfold workStep
  repeat' first
    | with_reducible assumption
    | (extract_lets +onlyGivenNames k; refine (fun (_ : Moves g₀ k) => ?_) ?_
       (on_goal 1 => clear_value k); (on_goal 2 => subst k))
    | (extract_lets +onlyGivenNames k; clear_value k) | with_reducible exact OMoves.none
    | with_reducible refine OMoves.some ?_ | with_reducible refine Moves.mapAsg ?_
    | with_reducible refine handOrder_moves ?_ | with_reducible refine askPath_moves ?_
    | with_reducible refine askTune_moves ?_ | with_reducible refine goOnAir_moves ?_ | split

theorem endStep_moves {g₀ h : Hall} {e : Env} {t : Tx} (x : Moves g₀ h) : OMoves g₀ (endStep e t h) := by
  unfold endStep
  repeat' first
    | with_reducible exact OMoves.none | with_reducible exact OMoves.some (completeEnd_moves x) | split

theorem driveStep_moves {g₀ h : Hall} {e : Env} {t : Tx} (x : Moves g₀ h) : OMoves g₀ (driveStep e t h) := by
  unfold driveStep
  repeat' first
    | with_reducible assumption
    | (extract_lets +onlyGivenNames k; refine (fun (_ : Moves g₀ k) => ?_) ?_
       (on_goal 1 => clear_value k); (on_goal 2 => subst k))
    | (extract_lets +onlyGivenNames k; clear_value k) | with_reducible exact OMoves.none
    | with_reducible refine OMoves.some ?_ | with_reducible refine Moves.mapAsg ?_
    | with_reducible refine handLower_moves ?_ | with_reducible refine askRaise_moves ?_ | with_reducible refine goOnAir_moves ?_
    | with_reducible refine muteAsg_moves ?_
    | with_reducible refine OMoves.of (claimStep_moves ?_) (by assumption)
    | with_reducible refine claimStep_moves ?_
    | with_reducible refine OMoves.of (workStep_moves ?_) (by assumption)
    | with_reducible refine workStep_moves ?_ | split

/-! ### Engine -/

theorem takeOff_moves {g₀ h : Hall} {e : Env} {t : Tx} {o : Out} (x : Moves g₀ h) : Moves g₀ (takeOff e t o h) := by
  unfold takeOff
  repeat' first | with_reducible assumption | with_reducible refine endAsg_moves ?_ | split

theorem repowerRetry_moves {g₀ h : Hall} {e : Env} {t : Tx} {viaHold : Bool} {a : Asg} (x : Moves g₀ h) :
    Moves g₀ (repowerRetry e t viaHold a h) := by
  unfold repowerRetry
  repeat' first
    | with_reducible assumption
    | (extract_lets +onlyGivenNames k; clear_value k) | with_reducible refine repower_moves ?_
    | with_reducible refine refuseAsg_moves ?_ | split

theorem recompute_moves {g₀ h : Hall} {e : Env} {t : Tx} {viaHold mayAwait : Bool} (x : Moves g₀ h) :
    Moves g₀ (recompute e t viaHold mayAwait h) := by
  unfold recompute
  split
  · exact x
  · extract_lets +onlyGivenNames new
    split
    · exact x
    · extract_lets +onlyGivenNames o ending
      split
      · extract_lets +onlyGivenNames a awaited b src c d
        have y : Moves g₀ a := by
          unfold a
          split
          · exact release_moves (Moves.mapAsg x)
          · exact x
        clear_value a
        have y : Moves g₀ b := by
          unfold b
          split
          · exact Moves.setOwner y
          · exact y
        clear_value b
        have y : Moves g₀ d := Moves.setAsg y
        split
        · exact withdrawRaise_moves y
        · split
          · exact repowerRetry_moves y
          · exact y
      · exact takeOff_moves (Moves.mapAsg x)

theorem recomputeHold_moves {g₀ h : Hall} {e : Env} {t : Tx} {a : Aspect} {mayAwait : Bool} (x : Moves g₀ h) :
    Moves g₀ (recomputeHold e t a mayAwait h) := by
  unfold recomputeHold
  repeat' first | with_reducible assumption | with_reducible refine recompute_moves ?_ | split

theorem recomputeFold_moves {g₀ h : Hall} {e : Env} (x : Moves g₀ h) : Moves g₀ (recomputeFold e h) := by
  unfold recomputeFold
  repeat' first
    | with_reducible assumption | with_reducible refine Moves.each ?_ fun _ _ _ => ?_
    | with_reducible refine recompute_moves ?_ | split

theorem displace_moves {g₀ h : Hall} {e : Env} {t : Tx} {o : Out} (x : Moves g₀ h) : Moves g₀ (displace e t o h) := by
  unfold displace
  repeat' first | with_reducible assumption | with_reducible refine endAsg_moves ?_ | split

theorem cancelWaits_moves {g₀ h : Hall} {e : Env} {t : Tx} {o : Out}
    (x : Moves g₀ h) : Moves g₀ (cancelWaits e t o h) := by
  unfold cancelWaits
  repeat' first
    | with_reducible assumption | with_reducible refine Moves.each ?_ fun _ _ _ => ?_
    | with_reducible refine takeOff_moves ?_ | split

theorem holdOnForeign_moves {g₀ h : Hall} {e : Env} {t : Tx} {a : Aspect} {enabled : Bool} (x : Moves g₀ h) :
    Moves g₀ (holdOnForeign e t a enabled h) := by
  unfold holdOnForeign
  repeat' first | with_reducible assumption | with_reducible refine endAsg_moves ?_ | split

theorem setHold_moves {g₀ h : Hall} {e : Env} {t : Tx} {v : HoldValue} {c : HoldCause} (x : Moves g₀ h) :
    Moves g₀ (setHold e t v c h) := by
  unfold setHold
  repeat' first
    | with_reducible assumption
    | (extract_lets +onlyGivenNames k; refine (fun (_ : Moves g₀ k) => ?_) ?_
       (on_goal 1 => clear_value k); (on_goal 2 => subst k))
    | (extract_lets +onlyGivenNames k; clear_value k) | with_reducible refine Moves.note ?_
    | with_reducible refine Moves.setHold ?_ | with_reducible refine outAvailable_moves ?_
    | with_reducible refine recomputeHold_moves ?_ | with_reducible refine displace_moves ?_
    | with_reducible refine cancelWaits_moves ?_ | with_reducible refine holdOnForeign_moves ?_
    | with_reducible refine Moves.wantAlloc ?_ | split

theorem clearHold_moves {g₀ h : Hall} {e : Env} {t : Tx} {a : Aspect} {c : HoldCause} (x : Moves g₀ h) :
    Moves g₀ (clearHold e t a c h) := by
  unfold clearHold
  repeat' first
    | with_reducible assumption
    | (extract_lets +onlyGivenNames k; refine (fun (_ : Moves g₀ k) => ?_) ?_
       (on_goal 1 => clear_value k); (on_goal 2 => subst k))
    | (extract_lets +onlyGivenNames k; clear_value k) | with_reducible refine Moves.note ?_
    | with_reducible refine Moves.wantAlloc ?_ | with_reducible refine Moves.setHold ?_
    | with_reducible refine outAvailable_moves ?_ | with_reducible refine recomputeHold_moves ?_
    | split

theorem recomputeReset_moves {g₀ h : Hall} {e : Env} {t : Tx} {power : Bool} (x : Moves g₀ h) :
    Moves g₀ (recomputeReset e t power h) := by
  unfold recomputeReset
  repeat' first | with_reducible assumption | with_reducible refine recompute_moves ?_ | split

theorem resetHold_moves {g₀ h : Hall} {e : Env} {t : Tx} (x : Moves g₀ h) : Moves g₀ (resetHold e t h) := by
  unfold resetHold
  repeat' first
    | with_reducible assumption
    | (extract_lets +onlyGivenNames k; refine (fun (_ : Moves g₀ k) => ?_) ?_
       (on_goal 1 => clear_value k); (on_goal 2 => subst k))
    | (extract_lets +onlyGivenNames k; clear_value k) | with_reducible refine Moves.note ?_
    | with_reducible refine Moves.wantAlloc ?_ | with_reducible refine Moves.setHold ?_
    | with_reducible refine outAvailable_moves ?_ | with_reducible refine recomputeReset_moves ?_
    | with_reducible refine setHold_moves ?_ | split

/-! ### Admission -/

theorem createAsg_moves {g₀ h : Hall} {t : Tx} {it : Item} {base eff : Params} {origin : Origin} (x : Moves g₀ h) :
    Moves g₀ (createAsg t it base eff origin h) := by
  unfold createAsg
  repeat' first
    | with_reducible assumption | with_reducible refine Moves.note ?_
    | with_reducible refine Moves.beginAsg ?_ | with_reducible refine Moves.setOwner ?_

theorem preempt_moves {g₀ h : Hall} {e : Env} {t : Tx} {it : Item} {base eff : Params} (x : Moves g₀ h) :
    Moves g₀ (preempt e t it base eff h) := by
  unfold preempt
  repeat' first
    | with_reducible assumption
    | (extract_lets +onlyGivenNames k; refine (fun (_ : Moves g₀ k) => ?_) ?_
       (on_goal 1 => clear_value k); (on_goal 2 => subst k))
    | (extract_lets +onlyGivenNames k; clear_value k) | with_reducible refine Moves.note ?_
    | with_reducible refine Moves.beginAsg ?_ | with_reducible refine Moves.setOwner ?_
    | with_reducible refine Moves.each ?_ fun _ _ _ => ?_ | with_reducible refine retireCheck_moves ?_
    | with_reducible refine withdrawRaise_moves ?_ | with_reducible refine dropHandBack_moves ?_
    | with_reducible refine cancelSeq_moves ?_ | with_reducible refine release_moves ?_
    | with_reducible refine clearAwaits_moves ?_ | with_reducible refine endAsg_moves ?_
    | with_reducible refine pushAsg_moves ?_ | split

theorem allocateNew_moves {g₀ h : Hall} {e : Env} {it : Item} {en : Entry} (x : Moves g₀ h) :
    Moves g₀ (allocateNew e it en h) := by
  unfold allocateNew
  extract_lets +onlyGivenNames t base eff
  clear_value base eff t
  split
  · split
    · exact deferItem_moves x
    · exact deferItem_moves x
    · exact createAsg_moves x
    · split
      · exact preempt_moves x
      · exact deferItem_moves x
  · exact Moves.note (reportExcluded_moves x)

theorem mark_length (b : Bank) (id : Nat) (m : Minutes) : (b.mark id m).recs.length = b.recs.length := by simp [Bank.mark
   ]

theorem admitCand_moves {g₀ h : Hall} {e : Env} {n : BankNo} {c : Cand} (x : Moves g₀ h) :
    Moves g₀ (admitCand e n c h) := by
  unfold admitCand
  split
  · exact x
  · split
    · exact allocateNew_moves (Moves.setBank x fun s => by rw [mark_length]; exact s.banks _)
    · exact x

theorem scan_moves {g₀ h : Hall} {e : Env} (x : Moves g₀ h) : Moves g₀ (scan e h) := by
  unfold scan
  repeat' first
    | with_reducible assumption
    | (extract_lets +onlyGivenNames k; refine (fun (_ : Moves g₀ k) => ?_) ?_
       (on_goal 1 => clear_value k); (on_goal 2 => subst k))
    | (extract_lets +onlyGivenNames k; clear_value k) | with_reducible refine Moves.each ?_ fun _ _ _ => ?_
    | with_reducible refine admitCand_moves ?_ | split

theorem leaveWait_moves {g₀ h : Hall} {c : RunCand} (x : Moves g₀ h) : Moves g₀ (leaveWait c h) := by
  unfold leaveWait
  split
  · exact Moves.setStack x fun w => by rw [List.length_tail]; omega
  · exact Moves.deferral x fun w => (List.length_filter_le _ _).trans w

theorem reworkReasons_moves {g₀ h : Hall} {k : Tables} (x : Moves g₀ h) : Moves g₀ (reworkReasons k h) := by
  unfold reworkReasons
  exact Moves.deferral x fun w => by simpa using w

theorem runWalk_moves {g₀ h : Hall} {e : Env} (x : Moves g₀ h) : OMoves g₀ (runWalk e h) := by
  unfold runWalk
  repeat' first
    | with_reducible assumption
    | (extract_lets +onlyGivenNames k; refine (fun (_ : Moves g₀ k) => ?_) ?_
       (on_goal 1 => clear_value k); (on_goal 2 => subst k))
    | (extract_lets +onlyGivenNames k; clear_value k) | with_reducible exact OMoves.none
    | with_reducible refine OMoves.some ?_ | with_reducible refine Moves.note ?_
    | with_reducible refine retireCheck_moves ?_ | with_reducible refine reportExcluded_moves ?_
    | with_reducible refine createAsg_moves ?_ | with_reducible refine leaveWait_moves ?_ | split

theorem runStep_moves {g₀ h : Hall} {e : Env} (x : Moves g₀ h) : OMoves g₀ (runStep e h) := by
  unfold runStep
  repeat' first
    | with_reducible assumption
    | (extract_lets +onlyGivenNames k; refine (fun (_ : Moves g₀ k) => ?_) ?_
       (on_goal 1 => clear_value k); (on_goal 2 => subst k))
    | (extract_lets +onlyGivenNames k; clear_value k) | with_reducible exact OMoves.none
    | with_reducible refine OMoves.some ?_ | with_reducible refine reworkReasons_moves ?_
    | with_reducible refine OMoves.of (runWalk_moves ?_) (by assumption)
    | with_reducible refine runWalk_moves ?_ | split | with_reducible refine Moves.alloc ?_

theorem clearRetiring_moves {g₀ h : Hall} {e : Env} (x : Moves g₀ h) : Moves g₀ (clearRetiring e h) := by
  unfold clearRetiring
  split
  · exact x
  · extract_lets +onlyGivenNames mine a b c d
    have y : Moves g₀ a := Moves.setBank x fun s => s.banks _
    have y : Moves g₀ b := Moves.asgs y
    have y : Moves g₀ c := Moves.each y fun t k y => by
      split
      · exact endAsg_moves y
      · exact y
    exact bankNotice_moves (Moves.each y fun t k y => dropStack_moves y)

theorem retireActive_moves {g₀ h : Hall} {e : Env} {n : BankNo} (x : Moves g₀ h) : Moves g₀ (retireActive e n h) := by
  unfold retireActive
  split
  · exact x
  · extract_lets +onlyGivenNames from_ a b
    have y : Moves g₀ a := Moves.each x fun t k y => by
      split
      · exact endAsg_moves y
      · exact y
    clear_value a
    exact bankNotice_moves (Moves.setBank (dropDeferral_moves y) fun s => s.banks _)

theorem changeover_moves {g₀ h : Hall} {e : Env} {n : BankNo} (x : Moves g₀ h) : Moves g₀ (changeover e n h) := by
  unfold changeover
  exact bankNotice_moves (Moves.setBank (retireActive_moves (clearRetiring_moves x)) fun s => s.banks _)

theorem changeovers_moves {g₀ h : Hall} {e : Env} {k : Nat} (x : Moves g₀ h) : Moves g₀ (changeovers e k h) := by
  induction k generalizing h with
  | zero => exact x
  | succ k ih =>
    unfold changeovers
    split
    · exact ih (changeover_moves x)
    · exact x

theorem changeoverScan_moves {g₀ h : Hall} {e : Env} (x : Moves g₀ h) : Moves g₀ (changeoverScan e h) :=
  scan_moves (changeovers_moves x)

theorem changeoverIfDue_moves {g₀ h : Hall} {e : Env} (x : Moves g₀ h) : Moves g₀ (changeoverIfDue e h) := by
  unfold changeoverIfDue
  repeat' first | with_reducible assumption | with_reducible refine changeoverScan_moves ?_ | split

theorem endStopped_moves {g₀ h : Hall} {e : Env} (x : Moves g₀ h) : Moves g₀ (endStopped e h) := by
  unfold endStopped
  repeat' first
    | with_reducible assumption | with_reducible refine Moves.each ?_ fun _ _ _ => ?_
    | with_reducible refine endAsg_moves ?_ | split

theorem expireItems_moves {g₀ h : Hall} {e : Env} (x : Moves g₀ h) : Moves g₀ (expireItems e h) := by
  unfold expireItems
  repeat' first
    | with_reducible assumption
    | (extract_lets +onlyGivenNames k; refine (fun (_ : Moves g₀ k) => ?_) ?_
       (on_goal 1 => clear_value k); (on_goal 2 => subst k))
    | (extract_lets +onlyGivenNames k; clear_value k) | with_reducible refine Moves.each ?_ fun _ _ _ => ?_
    | with_reducible refine dropStack_moves ?_ | with_reducible refine dropDeferral_moves ?_

theorem startWaiting_moves {g₀ h : Hall} {e : Env} {markLate : Bool} (x : Moves g₀ h) :
    Moves g₀ (startWaiting e markLate h) := by
  unfold startWaiting
  repeat' first
    | with_reducible assumption | with_reducible refine Moves.mapAsg ?_
    | with_reducible refine Moves.each ?_ fun _ _ _ => ?_ | split

theorem engineMinute_moves {g₀ h : Hall} {e : Env} (x : Moves g₀ h) : Moves g₀ (engineMinute e h) := by
  unfold engineMinute
  repeat' first
    | with_reducible assumption | with_reducible refine changeoverScan_moves ?_
    | with_reducible refine changeoverIfDue_moves ?_ | with_reducible refine endStopped_moves ?_
    | with_reducible refine expireItems_moves ?_ | with_reducible refine startWaiting_moves ?_ | split

theorem engineStep_moves {g₀ h : Hall} {e : Env} (x : Moves g₀ h) : Moves g₀ (engineStep e h) := by
  unfold engineStep
  repeat' first
    | with_reducible assumption | with_reducible refine changeoverScan_moves ?_
    | with_reducible refine changeoverIfDue_moves ?_ | with_reducible refine endStopped_moves ?_
    | with_reducible refine expireItems_moves ?_ | with_reducible refine startWaiting_moves ?_ | split

/-! ### Changes -/

theorem amendRest_moves {g₀ h : Hall} {e : Env} {t : Tx} {a : Asg} (x : Moves g₀ h) : Moves g₀ (amendRest e t a h) := by
  unfold amendRest
  extract_lets +onlyGivenNames new
  split
  · exact recompute_moves x
  · exact takeOff_moves (Moves.mapAsg x)

theorem amendAsg_moves {g₀ h : Hall} {e : Env} {c : Change} {en : Entry} {t : Tx} (x : Moves g₀ h) :
    Moves g₀ (amendAsg e c en t h) := by
  unfold amendAsg
  repeat' first
    | with_reducible assumption
    | (extract_lets +onlyGivenNames k; refine (fun (_ : Moves g₀ k) => ?_) ?_
       (on_goal 1 => clear_value k); (on_goal 2 => subst k))
    | (extract_lets +onlyGivenNames k; clear_value k) | with_reducible refine Moves.setAsg ?_
    | with_reducible refine endAsg_moves ?_ | with_reducible refine amendRest_moves ?_ | split

theorem amendStack_moves {g₀ h : Hall} {e : Env} {c : Change} {en : Entry} {t : Tx} (x : Moves g₀ h) :
    Moves g₀ (amendStack e c en t h) := by
  unfold amendStack
  extract_lets +onlyGivenNames mine a
  have y : Moves g₀ a := dropStack_moves x
  clear_value a
  split
  · exact Moves.setStack y fun w => by simpa using w
  · extract_lets +onlyGivenNames out
    split
    · exact y
    · extract_lets +onlyGivenNames b
      exact Moves.each (Moves.wantAlloc (Moves.setStack y fun w => (List.length_filter_le _ _).trans w))
        fun _ _ z => deferItem_moves z

theorem insertItems_length (f : DeferItem → DeferItem) (l m : List DeferItem) :
    (l.foldl (fun m i => insertItem (f i) m) m).length = m.length + l.length := by
  induction l generalizing m with
  | nil => rfl
  | cons a l ih => simp only [List.foldl_cons, ih, insertItem_length, List.length_cons]; omega

theorem filter_lengths {α : Type} (p : α → Bool) (l : List α) :
    (l.filter fun i => !p i).length + (l.filter p).length = l.length := by
  induction l with
  | nil => rfl
  | cons a l ih => cases h : p a <;> simp [h] <;> omega

theorem amendDeferral_moves {g₀ h : Hall} {e : Env} {c : Change} {en : Entry} (x : Moves g₀ h) :
    Moves g₀ (amendDeferral e c en h) := by
  unfold amendDeferral
  extract_lets +onlyGivenNames mine a stay moved
  have y : Moves g₀ a := dropDeferral_moves x
  clear_value a
  refine Moves.deferral y fun w => ?_
  rw [insertItems_length fun i => { i with item := i.item.amend en }]
  have := filter_lengths (fun i : DeferItem => mine i.item) a.deferral
  simp only [stay, moved]
  omega

theorem insertRec_length (r : EntryRec) (l : List EntryRec) : (insertRec r l).length = l.length + 1 := by
  induction l with
  | nil => rfl
  | cons a l ih =>
    unfold insertRec
    split
    · rfl
    · simp [ih]

theorem put_length (b : Bank) (en : Entry) (w : (b.find en.id).isSome = true ∨ b.recs.length < Config.maxEntries)
    (v : b.recs.length ≤ Config.maxEntries) : (b.put en).recs.length ≤ Config.maxEntries := by
  unfold Bank.put
  split
  · simpa using v
  · rename_i e
    rcases w with w | w
    · rw [e] at w; simp at w
    · rw [insertRec_length]; omega

theorem remove_length (b : Bank) (id : Nat) : (b.remove id).recs.length ≤ b.recs.length := List.length_filter_le _ _

/-- The entry of a change is put with its id held, or with room. -/
theorem applyChange_moves {g₀ h : Hall} {e : Env} {c : Change} (x : Moves g₀ h)
    (w : h.sizesOk → ∀ en, c.kind ≠ .withdraw → c.entry = some en →
      ((h.banks[c.bank]).find en.id).isSome = true ∨ (h.banks[c.bank]).recs.length < Config.maxEntries) :
    Moves g₀ (applyChange e c h) := by
  unfold applyChange
  split
  · rename_i k n
    exact Moves.setBank x fun s => put_length _ _ (w s _ (by rw [k]; decide) n) (s.banks _)
  · rename_i k n
    extract_lets +onlyGivenNames a
    have y : Moves g₀ a := Moves.setBank x fun s => put_length _ _ (w s _ (by rw [k]; decide) n) (s.banks _)
    exact amendDeferral_moves (Moves.each (Moves.each y fun _ _ z => amendAsg_moves z) fun _ _ z => amendStack_moves z)
  · extract_lets +onlyGivenNames l mine a
    have y : Moves g₀ a :=
      Moves.each (Moves.setBank x fun s => (remove_length _ _).trans (s.banks _)) fun _ _ z => endAsg_moves z
    exact dropDeferral_moves (Moves.each y fun _ _ z => dropStack_moves z)
  · exact x

theorem popChange_moves {g₀ h : Hall}  (x : Moves g₀ h) : Moves g₀ (popChange h) := by
  unfold popChange
  exact Moves.changes x fun s => ⟨by simp, fun c m => s.changeIds c (List.mem_of_mem_tail m)⟩

theorem rejectHead_moves {g₀ h : Hall} {c : Change} {r : RejectReason}
    (x : Moves g₀ h) : Moves g₀ (rejectHead c r h) := by
  unfold rejectHead
  repeat' first
    | with_reducible assumption | with_reducible refine Moves.note ?_
    | with_reducible refine popChange_moves ?_

theorem examine_moves {g₀ h : Hall} {e : Env} {c : Change} {l : List Change} (x : Moves g₀ h) (q : h.changes = c :: l) :
    Moves g₀ (examine e c h) := by
  unfold examine
  extract_lets +onlyGivenNames st
  split
  · exact rejectHead_moves x
  · split
    · exact rejectHead_moves x
    · rename_i v
      extract_lets +onlyGivenNames work
      split
      · extract_lets +onlyGivenNames a
        have y : Moves g₀ a := by
          refine Moves.note (popChange_moves (applyChange_moves x fun s en k n => ?_))
          have j := s.changeIds c (by simp [q]) en n
          unfold validate at v
          dsimp only at v
          split at v
          · rename_i e1; exact absurd e1 k
          · rename_i e1 e2
            cases e2.symm.trans n
            split at v
            · cases v
            · split at v
              · cases v
              · rename_i r; exact .inr (by omega)
          · rename_i e1 e2
            cases e2.symm.trans n
            split at v
            · rename_i r; exact .inl (by rw [j]; exact r)
            · cases v
          · cases v
        split
        · exact y
        · exact Moves.wantAlloc y
      · refine Moves.changes x fun s => ⟨by simp [q], fun d m => ?_⟩
        rcases List.mem_cons.1 m with rfl | m
        · exact s.changeIds c (by simp [q])
        · exact s.changeIds d (List.mem_of_mem_tail m)

theorem changeStep_moves {g₀ h : Hall} {e : Env} (x : Moves g₀ h) : OMoves g₀ (changeStep e h) := by
  unfold changeStep
  split
  · exact OMoves.none
  · rename_i q
    split
    · exact OMoves.none
    · split
      · exact OMoves.some (examine_moves x q)
      · exact OMoves.none

theorem recheckHead_moves {g₀ h : Hall}  (x : Moves g₀ h) : Moves g₀ (recheckHead h) := by
  unfold recheckHead
  refine Moves.changes x fun s => ?_
  have v := s.changeIds
  split
  · rename_i c l q
    rw [q] at v ⊢
    exact ⟨by simp, fun d m => by
      rcases List.mem_cons.1 m with rfl | m
      · exact v c (.head _)
      · exact v d (.tail _ m)⟩
  · simp

/-! ### Plans -/

theorem startStep_moves {g₀ h : Hall} {e : Env} (x : Moves g₀ h) : Moves g₀ (startStep e h) := by
  unfold startStep
  split
  · exact x
  · extract_lets +onlyGivenNames cause r'
    split
    · extract_lets +onlyGivenNames who
      exact Moves.each (Moves.running x) fun _ _ y => setHold_moves y
    · split
      · split
        · exact Moves.running x
        · exact setHold_moves (Moves.running x)
      · exact clearHold_moves (Moves.running x)
      · exact Moves.running x

theorem acceptPlan_moves {g₀ h : Hall} {e : Env} {k t : Nat} (x : Moves g₀ h) : Moves g₀ (acceptPlan e k t h) := by
  unfold acceptPlan
  extract_lets +onlyGivenNames a
  have y : Moves g₀ a := Moves.note (Moves.slotLast x)
  exact startStep_moves (Moves.running y)

theorem endPlan_moves {g₀ h : Hall} {e : Env} {r : Running} (x : Moves g₀ h) : Moves g₀ (endPlan e r h) := by
  unfold endPlan
  repeat' first
    | with_reducible assumption
    | (extract_lets +onlyGivenNames k; refine (fun (_ : Moves g₀ k) => ?_) ?_
       (on_goal 1 => clear_value k); (on_goal 2 => subst k))
    | (extract_lets +onlyGivenNames k; clear_value k) | with_reducible refine Moves.note ?_
    | with_reducible refine acceptPlan_moves ?_ | split | with_reducible refine Moves.running ?_

theorem stepOver_moves {g₀ h : Hall} {e : Env} {r : Running} {res : StepResult} (x : Moves g₀ h) :
    Moves g₀ (stepOver e r res h) := by
  unfold stepOver
  repeat' first
    | with_reducible assumption
    | (extract_lets +onlyGivenNames k; refine (fun (_ : Moves g₀ k) => ?_) ?_
       (on_goal 1 => clear_value k); (on_goal 2 => subst k))
    | (extract_lets +onlyGivenNames k; clear_value k) | with_reducible refine Moves.note ?_
    | with_reducible refine startStep_moves ?_ | with_reducible refine endPlan_moves ?_ | split
    | with_reducible refine Moves.running ?_

theorem planStep_moves {g₀ h : Hall} {e : Env} (x : Moves g₀ h) : OMoves g₀ (planStep e h) := by
  unfold planStep
  repeat' first
    | with_reducible assumption | with_reducible exact OMoves.none | with_reducible refine OMoves.some ?_
    | with_reducible refine stepOver_moves ?_ | split

theorem startPlan0_moves {g₀ h : Hall} {e : Env} {tag : Nat} (x : Moves g₀ h) : Moves g₀ (startPlan0 e tag h) := by
  unfold startPlan0
  repeat' first
    | with_reducible assumption
    | (extract_lets +onlyGivenNames k; refine (fun (_ : Moves g₀ k) => ?_) ?_
       (on_goal 1 => clear_value k); (on_goal 2 => subst k))
    | (extract_lets +onlyGivenNames k; clear_value k) | with_reducible refine Moves.note ?_
    | with_reducible refine startStep_moves ?_ | split | with_reducible refine Moves.running ?_

theorem estopPlan_moves {g₀ h : Hall} {e : Env} (x : Moves g₀ h) : Moves g₀ (estopPlan e h) := by
  unfold estopPlan
  repeat' first | with_reducible assumption | with_reducible refine startPlan0_moves ?_ | split

theorem resetPlans_moves {g₀ h : Hall}  (x : Moves g₀ h) : Moves g₀ (resetPlans h) := by
  unfold resetPlans
  extract_lets +onlyGivenNames a
  have y : Moves g₀ a := by
    unfold a
    split
    · exact Moves.note (Moves.running x)
    · exact x
  clear_value a
  split
  · extract_lets +onlyGivenNames last
    exact Moves.note (Moves.slotLast y)
  · exact y

/-! ### Recovery -/

theorem setRcv_moves {g₀ h : Hall} {t : Tx} {f : Recovery → Recovery} (x : Moves g₀ h) : Moves g₀ (setRcv t f h) := by
  unfold setRcv
  repeat' first | with_reducible assumption | with_reducible refine Moves.setTx ?_ fun _ => rfl

theorem startWait_moves {g₀ h : Hall} {e : Env} {t : Tx} (x : Moves g₀ h) : Moves g₀ (startWait e t h) := by
  unfold startWait
  repeat' first | with_reducible assumption | with_reducible refine setRcv_moves ?_

theorem clearRefused_moves {g₀ h : Hall} {e : Env} {t : Tx} (x : Moves g₀ h) : Moves g₀ (clearRefused e t h) := by
  unfold clearRefused
  repeat' first
    | with_reducible assumption
    | (extract_lets +onlyGivenNames k; refine (fun (_ : Moves g₀ k) => ?_) ?_
       (on_goal 1 => clear_value k); (on_goal 2 => subst k))
    | with_reducible refine handClear_moves ?_ | with_reducible refine setRcv_moves ?_ | split

theorem refuseRetry_moves {g₀ h : Hall} {e : Env} {t : Tx} (x : Moves g₀ h) : Moves g₀ (refuseRetry e t h) := by
  unfold refuseRetry
  split
  · exact setRcv_moves x
  · exact clearRefused_moves x

theorem handRetry_moves {g₀ h : Hall} {e : Env} {t : Tx} {kw : Nat}
    (x : Moves g₀ h) : Moves g₀ (handRetry e t kw h) := by
  unfold handRetry
  repeat' first
    | with_reducible assumption
    | (extract_lets +onlyGivenNames k; refine (fun (_ : Moves g₀ k) => ?_) ?_
       (on_goal 1 => clear_value k); (on_goal 2 => subst k))
    | (extract_lets +onlyGivenNames k; clear_value k) | with_reducible refine makePending_moves ?_
    | with_reducible refine handClear_moves ?_ | with_reducible refine declineUnsent_moves ?_
    | with_reducible refine handOrder_moves ?_ | with_reducible refine setRcv_moves ?_ | split

theorem askRetry_moves {g₀ h : Hall} {e : Env} {t : Tx} (x : Moves g₀ h) : Moves g₀ (askRetry e t h) := by
  unfold askRetry
  repeat' first
    | with_reducible assumption
    | (extract_lets +onlyGivenNames k; refine (fun (_ : Moves g₀ k) => ?_) ?_
       (on_goal 1 => clear_value k); (on_goal 2 => subst k))
    | (extract_lets +onlyGivenNames k; clear_value k) | with_reducible refine Moves.setAsg ?_
    | with_reducible refine Moves.mapAsg ?_ | with_reducible refine refuseAsg_moves ?_ | with_reducible refine setRcv_moves ?_
    | with_reducible refine refuseRetry_moves ?_ | with_reducible refine handRetry_moves ?_ | split

theorem decideRetry_moves {g₀ h : Hall} {e : Env} {t : Tx} (x : Moves g₀ h) : Moves g₀ (decideRetry e t h) := by
  unfold decideRetry
  repeat' first
    | with_reducible assumption | with_reducible refine lockoutTrips_moves ?_
    | with_reducible refine setRcv_moves ?_ | split

theorem recoveryStep_moves {g₀ h : Hall} {e : Env} {t : Tx} (x : Moves g₀ h) : OMoves g₀ (recoveryStep e t h) := by
  unfold recoveryStep
  repeat' first
    | with_reducible assumption
    | (extract_lets +onlyGivenNames k; refine (fun (_ : Moves g₀ k) => ?_) ?_
       (on_goal 1 => clear_value k); (on_goal 2 => subst k))
    | (extract_lets +onlyGivenNames k; clear_value k) | with_reducible exact OMoves.none
    | with_reducible refine OMoves.some ?_ | with_reducible refine setRcv_moves ?_
    | with_reducible refine startWait_moves ?_ | with_reducible refine askRetry_moves ?_
    | with_reducible refine clearRefused_moves ?_ | with_reducible refine decideRetry_moves ?_ | split

theorem idleStep_moves {g₀ h : Hall} {e : Env} {t : Tx} (x : Moves g₀ h) : OMoves g₀ (idleStep e t h) := by
  unfold idleStep
  repeat' first
    | with_reducible assumption
    | (extract_lets +onlyGivenNames k; refine (fun (_ : Moves g₀ k) => ?_) ?_
       (on_goal 1 => clear_value k); (on_goal 2 => subst k))
    | (extract_lets +onlyGivenNames k; clear_value k) | with_reducible exact OMoves.none
    | with_reducible refine OMoves.some ?_ | with_reducible refine Moves.setIdle ?_ | split

theorem goAbsent_moves {g₀ h : Hall} {t : Tx} {c : TxCause} (x : Moves g₀ h) : Moves g₀ (goAbsent t c h) := by
  unfold goAbsent
  repeat' first
    | with_reducible assumption
    | (extract_lets +onlyGivenNames k; refine (fun (_ : Moves g₀ k) => ?_) ?_
       (on_goal 1 => clear_value k); (on_goal 2 => subst k))
    | (extract_lets +onlyGivenNames k; clear_value k) | with_reducible refine Moves.setTx ?_ fun _ => rfl
    | with_reducible refine setTxState_moves ?_

theorem undefStep_moves {g₀ h : Hall} {e : Env} {t : Tx} (x : Moves g₀ h) : OMoves g₀ (undefStep e t h) := by
  unfold undefStep
  repeat' first
    | with_reducible assumption | with_reducible exact OMoves.none | with_reducible refine OMoves.some ?_
    | with_reducible refine Moves.setAdopt ?_ | with_reducible refine goAbsent_moves ?_ | split

/-! ### Adoption -/

theorem adoptAsg_moves {g₀ h : Hall} {t : Tx} {o : Out} {a : Asg} (x : Moves g₀ h) : Moves g₀ (adoptAsg t o a h) := by
  unfold adoptAsg
  repeat' first
    | with_reducible assumption | with_reducible refine Moves.beginAsg ?_
    | with_reducible refine Moves.setOwner ?_ | with_reducible refine Moves.setTx ?_ fun _ => rfl

theorem reportForeign_moves {g₀ h : Hall} {e : Env} {t : Tx} {w : ForeignWord} {f : Option Nat} {a : Option CheckAnswer}
    (x : Moves g₀ h) :
    Moves g₀ (reportForeign e t w f a h) := by
  unfold reportForeign
  repeat' first | with_reducible assumption | with_reducible refine report_moves ?_

theorem adoptForeign_moves {g₀ h : Hall} {e : Env} {t : Tx} {o : Out} {f : Nat} {m : Mode} {kw : Nat} (x : Moves g₀ h) :
    Moves g₀ (adoptForeign e t o f m kw h) := by
  unfold adoptForeign
  repeat' first
    | with_reducible assumption
    | (extract_lets +onlyGivenNames k; refine (fun (_ : Moves g₀ k) => ?_) ?_
       (on_goal 1 => clear_value k); (on_goal 2 => subst k))
    | (extract_lets +onlyGivenNames k; clear_value k) | with_reducible refine Moves.note ?_
    | with_reducible refine handLower_moves ?_ | with_reducible refine adoptAsg_moves ?_
    | with_reducible refine reportForeign_moves ?_ | split | with_reducible refine Moves.adoptedF ?_

theorem adoptCarrier_moves {g₀ h : Hall} {e : Env} {t : Tx} {o : Out} {f : Nat} {m : Mode} {kw : Nat} (x : Moves g₀ h) :
    Moves g₀ (adoptCarrier e t o f m kw h) := by
  unfold adoptCarrier
  split
  · exact adoptForeign_moves x
  · extract_lets +onlyGivenNames en base eff
    split
    · exact adoptForeign_moves x
    · extract_lets +onlyGivenNames s a
      have y : Moves g₀ a := adoptAsg_moves (Moves.setBank x fun s => by rw [mark_length]; exact s.banks _)
      exact Moves.note (Moves.adoptedS y)

theorem judgeCarrier_moves {g₀ h : Hall} {e : Env} {t : Tx} (x : Moves g₀ h) : Moves g₀ (judgeCarrier e t h) := by
  unfold judgeCarrier
  repeat' first
    | with_reducible assumption
    | (extract_lets +onlyGivenNames k; refine (fun (_ : Moves g₀ k) => ?_) ?_
       (on_goal 1 => clear_value k); (on_goal 2 => subst k))
    | (extract_lets +onlyGivenNames k; clear_value k) | with_reducible refine Moves.setTx ?_ fun _ => rfl
    | with_reducible refine handLower_moves ?_ | with_reducible refine reportForeign_moves ?_
    | with_reducible refine adoptCarrier_moves ?_ | split

theorem judge_moves {g₀ h : Hall} {e : Env} {t : Tx} (x : Moves g₀ h) : Moves g₀ (judge e t h) := by
  unfold judge
  repeat' first
    | with_reducible assumption
    | (extract_lets +onlyGivenNames k; refine (fun (_ : Moves g₀ k) => ?_) ?_
       (on_goal 1 => clear_value k); (on_goal 2 => subst k))
    | (extract_lets +onlyGivenNames k; clear_value k) | with_reducible refine Moves.setAdopt ?_
    | with_reducible refine Moves.setTx ?_ fun _ => rfl | with_reducible refine reportTx_moves ?_
    | with_reducible refine setTxState_moves ?_ | with_reducible refine handLower_moves ?_
    | with_reducible refine rfUnexpected_moves ?_ | with_reducible refine judgeCarrier_moves ?_
    | with_reducible refine ordersOver_moves ?_ | split

theorem endAdoption_moves {g₀ h : Hall} {e : Env} (x : Moves g₀ h) : Moves g₀ (endAdoption e h) := by
  unfold endAdoption
  repeat' first
    | with_reducible assumption
    | (extract_lets +onlyGivenNames k; refine (fun (_ : Moves g₀ k) => ?_) ?_
       (on_goal 1 => clear_value k); (on_goal 2 => subst k))
    | (extract_lets +onlyGivenNames k; clear_value k) | with_reducible refine Moves.note ?_
    | with_reducible refine Moves.wantAlloc ?_ | with_reducible refine Moves.each ?_ fun _ _ _ => ?_
    | with_reducible refine retireNow_moves ?_ | with_reducible refine endAsg_moves ?_
    | with_reducible refine changeoverScan_moves ?_ | split | with_reducible refine Moves.mode ?_

theorem adoptStep_moves {g₀ h : Hall} {e : Env} (x : Moves g₀ h) : OMoves g₀ (adoptStep e h) := by
  unfold adoptStep
  repeat' first
    | with_reducible assumption | with_reducible exact OMoves.none | with_reducible refine OMoves.some ?_
    | with_reducible refine judge_moves ?_ | with_reducible refine endAdoption_moves ?_ | split

/-! ### Settle -/

theorem forTx_moves {g₀ h : Hall} {e : Env} {f : Env → Tx → Hall → Option Hall}
    (y : ∀ t, OMoves g₀ (f e t h)) : OMoves g₀ (forTx f e h) := by
  intro k q
  obtain ⟨t, _, q⟩ := List.exists_of_findSome?_eq_some q
  exact y t k q

theorem forOut_moves {g₀ h : Hall} {e : Env} {f : Env → Out → Hall → Option Hall}
    (y : ∀ o, OMoves g₀ (f e o h)) : OMoves g₀ (forOut f e h) := by
  intro k q
  obtain ⟨o, _, q⟩ := List.exists_of_findSome?_eq_some q
  exact y o k q

/-- Each rule is a move. -/
theorem rule_moves {g₀ h : Hall} {e : Env} {r : Rule} (m : r ∈ rules) (x : Moves g₀ h) : OMoves g₀ (r e h) := by
  simp only [rules, List.mem_cons, List.not_mem_nil, or_false] at m
  rcases m with
    rfl | rfl | rfl | rfl | rfl | rfl | rfl | rfl | rfl | rfl | rfl | rfl | rfl | rfl | rfl | rfl
  · exact forTx_moves fun t => takeBackStep_moves x
  · exact forTx_moves fun t => endStep_moves x
  · exact changeStep_moves x
  · exact forTx_moves fun t => permitStep_moves x
  · exact forTx_moves fun t => recoveryStep_moves x
  · exact forTx_moves fun t => undefStep_moves x
  · exact forTx_moves fun t => driveStep_moves x
  · exact forTx_moves fun t => pendStep_moves x
  · exact forTx_moves fun t => seqStep_moves x
  · exact grantStep_moves x
  · exact forOut_moves fun o => colStep_moves x
  · exact forOut_moves fun o => queryStep_moves x
  · exact planStep_moves x
  · exact adoptStep_moves x
  · exact runStep_moves x
  · exact forTx_moves fun t => idleStep_moves x

theorem nextRule_moves {g₀ h : Hall} {e : Env} (x : Moves g₀ h) : OMoves g₀ (nextRule e h) := by
  intro k q
  obtain ⟨r, m, q⟩ := List.exists_of_findSome?_eq_some q
  exact rule_moves m x k q

/-- The settling of an event is a move. -/
theorem settle_moves {g₀ h : Hall} {n : Nat} {e : Env} (x : Moves g₀ h) : Moves g₀ (settle n e h) := by
  induction n generalizing h with
  | zero => exact x
  | succ n ih =>
    unfold settle
    split
    · rename_i q
      exact ih (nextRule_moves x _ q)
    · exact x

end Sys2Proof.Machine
end

