-- ==== Sys2Proof/Laws/Operands.lean ====
section
/-! SUPPORT. The operand tests, the tables and the lists of names, said once as propositions. -/

namespace Sys2Proof.Machine

@[simp] theorem within_iff {lo hi n : Nat} : within lo hi n = true ↔ lo ≤ n ∧ n ≤ hi := by simp [within]

theorem within_false {lo hi n : Nat} : within lo hi n = false ↔ ¬ (lo ≤ n ∧ n ≤ hi) := by
  rw [← Bool.not_eq_true, within_iff]

@[simp] theorem withinOpt_iff {lo hi : Nat} {x : Option Nat} :
    withinOpt lo hi x = true ↔ ∀ n, x = some n → lo ≤ n ∧ n ≤ hi := by
  cases x <;> simp [withinOpt]

/-- The tuning range (Conventions). -/
@[simp] theorem freqOk_iff {f : Nat} : freqOk f = true ↔ 2300 ≤ f ∧ f ≤ 26100 := within_iff

/-- R215: the tags. -/
@[simp] theorem tagOk_iff {n : Nat} : tagOk n = true ↔ 1 ≤ n ∧ n ≤ 255 := within_iff

@[simp] theorem mem_allTx (t : Tx) : t ∈ allTx := List.mem_finRange t
@[simp] theorem mem_allOut (o : Out) : o ∈ allOut := List.mem_finRange o
@[simp] theorem mem_allBanks (n : BankNo) : n ∈ allBanks := List.mem_finRange n

/-- Reading a table by a number below its size. -/
@[simp] theorem get_upd_val {α : Type} {n : Nat} (v : Tab α n) (i j : Fin n) (f : α → α) (h : j.val < n) :
    (upd v i f)[j.val]'h = if i = j then f v[i] else v[j] := get_upd v i j f

@[simp] theorem get_tab_val {α : Type} (n : Nat) (a : α) (i : Nat) (h : i < n) : (tab n a)[i]'h = a := by simp [tab]

/-- Two updates of one record. -/
@[simp] theorem upd_upd {α : Type} {n : Nat} (v : Tab α n) (i : Fin n) (f g : α → α) :
    upd (upd v i f) i g = upd v i fun x => g (f x) := by
  ext k hk
  simp [upd]

/-- An update that changes nothing. -/
theorem upd_self {α : Type} {n : Nat} (v : Tab α n) (i : Fin n) (f : α → α) (h : f v[i] = v[i]) : upd v i f = v := by
  ext k hk
  simp only [upd, h]
  simp

/-- Updates with the same outcome. -/
theorem upd_congr {α : Type} {n : Nat} (v : Tab α n) (i : Fin n) {f g : α → α} (h : f v[i] = g v[i]) :
    upd v i f = upd v i g := by simp only [upd, h]

end Sys2Proof.Machine
end

