-- ==== Sys2Proof/Laws/Ends.lean ====
section
/-! SUPPORT. What the end of an assignment without push or deferral can do, said once. `Ends d g h`: from `g` to `h` by such
ends of the transmitters of `d`: stacks, deferral list, mode and holds stay; a bank keeps its entries, and at most goes from
RETIRING to SPENT; and the assignment of another transmitter keeps its phase, occurrence, parameters and counts. -/

set_option linter.unusedTactic false
set_option linter.unreachableTactic false

namespace Sys2Proof.Machine

/-- What an end of another transmitter leaves of an assignment. -/
def Asg.core (a : Asg) : Phase × Option Sched × Params × Bool × Nat × Bool := (a.phase, a.sched, a.eff, a.counts, a.trips, a.fold)

/-- At most the retirement of a bank. -/
def Retires (a b : Bank) : Prop := b = a ∨ (a.st = .retiring ∧ b = { a with st := .spent })

theorem Retires.trans {a b c : Bank} (x : Retires a b) (y : Retires b c) : Retires a c := by
  rcases x with rfl | ⟨x, rfl⟩
  · exact y
  · rcases y with rfl | ⟨y, rfl⟩
    · exact .inr ⟨x, rfl⟩
    · exact absurd y (by simp)

/-- From `g` to `h` by ends, without push or deferral, of transmitters of `d`. -/
structure Ends (d : Tx → Prop) (g h : Hall) : Prop where
  mode : h.mode = g.mode
  stack : h.stack = g.stack
  deferral : h.deferral = g.deferral
  holds : h.holds = g.holds
  banks : ∀ n : BankNo, Retires g.banks[n] h.banks[n]
  asg : ∀ u : Tx, ¬ d u → (h.asg[u]).map Asg.core = (g.asg[u]).map Asg.core

namespace Ends

variable {d : Tx → Prop} {g h : Hall}

theorem refl (d : Tx → Prop) (h : Hall) : Ends d h h := ⟨rfl, rfl, rfl, rfl, fun _ => .inl rfl, fun _ _ => rfl⟩

theorem trans {a b c : Hall} (x : Ends d a b) (y : Ends d b c) : Ends d a c :=
  ⟨y.mode.trans x.mode, y.stack.trans x.stack, y.deferral.trans x.deferral, y.holds.trans x.holds,
    fun n => (x.banks n).trans (y.banks n), fun u v => (y.asg u v).trans (x.asg u v)⟩

theorem mono {d' : Tx → Prop} (x : Ends d g h) (w : ∀ u, d u → d' u) : Ends d' g h :=
  ⟨x.mode, x.stack, x.deferral, x.holds, x.banks, fun u v => x.asg u fun z => v (w u z)⟩

/-- An update of what the relation does not speak of. -/
theorem plain (x : Ends d g h) {k : Hall} (mode : k.mode = h.mode) (stack : k.stack = h.stack)
    (deferral : k.deferral = h.deferral) (holds : k.holds = h.holds) (banks : k.banks = h.banks) (asg : k.asg = h.asg) :
    Ends d g k :=
  ⟨mode.trans x.mode, stack.trans x.stack, deferral.trans x.deferral, holds.trans x.holds, banks ▸ x.banks, asg ▸ x.asg⟩

theorem note (x : Ends d g h) {b : NoticeBody} : Ends d g (h.note b) := x.plain rfl rfl rfl rfl rfl rfl

theorem wantAlloc (x : Ends d g h) : Ends d g h.wantAlloc := x.plain rfl rfl rfl rfl rfl rfl

theorem setTx (x : Ends d g h) {t : Tx} {f : TxRec → TxRec} : Ends d g (h.setTx t f) := x.plain rfl rfl rfl rfl rfl rfl

theorem setPath (x : Ends d g h) {f : Path → Path} : Ends d g (h.setPath f) := x.plain rfl rfl rfl rfl rfl rfl

theorem setSeq (x : Ends d g h) {t : Tx} {f : PathSeq → PathSeq} : Ends d g (h.setSeq t f) := x.setPath

theorem setOwner (x : Ends d g h) {o : Out} {w : Option Tx} : Ends d g (h.setOwner o w) := x.setPath

theorem setQueue (x : Ends d g h) {l : List Motion} : Ends d g (h.setQueue l) := x.setPath

/-- A change of an assignment that leaves its core. -/
theorem mapAsg (x : Ends d g h) {t : Tx} {f : Asg → Asg} (w : ∀ a, (f a).core = a.core) : Ends d g (h.mapAsg t f) :=
  ⟨x.mode, x.stack, x.deferral, x.holds, x.banks, fun u v => by
    rw [← x.asg u v]
    simp only [Hall.mapAsg_asg, get_upd]
    split
    · subst_vars; cases h.asg[u] <;> simp [w]
    · rfl⟩

theorem setAsg (x : Ends d g h) {t : Tx} {a : Option Asg} (w : d t) : Ends d g (h.setAsg t a) :=
  ⟨x.mode, x.stack, x.deferral, x.holds, x.banks, fun u v => by
    rw [← x.asg u v]
    have n : t ≠ u := fun z => v (z ▸ w)
    simp only [Hall.setAsg_asg, get_upd, if_neg n]⟩

theorem each {α : Type} {l : List α} {f : α → Hall → Hall} (x : Ends d g h) (y : ∀ a ∈ l, ∀ k, Ends d g k → Ends d g (f a k)) :
    Ends d g (h.each l f) := by
  induction l generalizing h with
  | nil => exact x
  | cons a l ih => exact ih (y a (by simp) h x) fun b m => y b (by simp [m])

end Ends

variable {d : Tx → Prop} {g₀ h : Hall}

theorem report_ends {e : Env} {r : Report} (x : Ends d g₀ h) : Ends d g₀ (report e r h) := by
  have hall : ∀ k : Hall, k = report e r h → Ends d g₀ k := by
    intro k w
    have f : k.mode = h.mode ∧ k.stack = h.stack ∧ k.deferral = h.deferral ∧ k.holds = h.holds ∧ k.banks = h.banks ∧
        k.asg = h.asg := by
      subst w
      unfold report addRecord
      refine ⟨?_, ?_, ?_, ?_, ?_, ?_⟩ <;> repeat' first | rfl | split | dsimp only
    exact x.plain f.1 f.2.1 f.2.2.1 f.2.2.2.1 f.2.2.2.2.1 f.2.2.2.2.2
  exact hall _ rfl

theorem retireNow_ends {n : BankNo} (x : Ends d g₀ h) : Ends d g₀ (retireNow n h) := by
  unfold retireNow spendBank bankNotice
  split
  · rename_i w
    have y : Ends d g₀ (h.setBank n fun b => { b with st := .spent }) := ⟨x.mode, x.stack, x.deferral, x.holds, fun m => ?_, x.asg⟩
    · exact y.note
    simp only [Hall.setBank_banks, get_upd]
    split
    · subst_vars
      exact (x.banks _).trans (.inr ⟨of_decide_eq_true (Bool.and_elim_left w), rfl⟩)
    · exact x.banks m
  · exact x

theorem retireCheck_ends {n : BankNo} (x : Ends d g₀ h) : Ends d g₀ (retireCheck n h) := by
  unfold retireCheck
  split
  · exact x
  · exact retireNow_ends x

theorem overtaken_ends {t : Tx} {o : Order} (x : Ends d g₀ h) : Ends d g₀ (overtaken t o h) := by
  unfold overtaken
  split
  · refine Ends.mapAsg x fun a => ?_
    (repeat' split) <;> rfl
  · exact x

theorem overtakeOut_ends {t : Tx} {p : Order → Bool} (x : Ends d g₀ h) : Ends d g₀ (overtakeOut t p h) := by
  unfold overtakeOut
  repeat' first | with_reducible assumption | with_reducible refine Ends.setTx ?_ | with_reducible refine overtaken_ends ?_ | split

theorem overtakePend_ends {t : Tx} {p : Order → Bool} (x : Ends d g₀ h) : Ends d g₀ (overtakePend t p h) := by
  unfold overtakePend
  repeat' first | with_reducible assumption | with_reducible refine Ends.setTx ?_ | with_reducible refine overtaken_ends ?_ | split

theorem queueLower_ends {t : Tx} {byTrip : Bool} (x : Ends d g₀ h) : Ends d g₀ (queueLower t byTrip h) := by
  unfold queueLower lowerByTrip makePending
  dsimp only
  repeat' first
    | with_reducible assumption | with_reducible refine Ends.setTx ?_ | with_reducible refine overtakeOut_ends ?_
    | with_reducible refine overtakePend_ends ?_ | split

theorem handLower_ends {e : Env} {t : Tx} {byTrip : Bool} (x : Ends d g₀ h) : Ends d g₀ (handLower e t byTrip h) := by
  unfold handLower
  repeat' first | with_reducible assumption | with_reducible refine queueLower_ends ?_ | split

theorem cancelSeq_ends {t : Tx} (x : Ends d g₀ h) : Ends d g₀ (cancelSeq t h) := by
  unfold cancelSeq leaveQueued
  dsimp only
  repeat' first
    | with_reducible assumption | with_reducible refine Ends.setSeq ?_ | with_reducible refine Ends.setQueue ?_ | split

theorem release_ends {o : Out} (x : Ends d g₀ h) : Ends d g₀ (release o h) := by
  unfold release outAvailable
  split
  · exact Ends.wantAlloc (Ends.setOwner x)
  · exact Ends.setOwner x

theorem passClaim_ends {t : Tx} {o : Out} (x : Ends d g₀ h) : Ends d g₀ (passClaim t o h) := by
  unfold passClaim
  split
  · exact Ends.mapAsg (Ends.setOwner x) fun _ => rfl
  · exact release_ends x

theorem clearAwaits_ends {t : Tx} (x : Ends d g₀ h) : Ends d g₀ (clearAwaits t h) :=
  ⟨x.mode, x.stack, x.deferral, x.holds, x.banks, fun u v => by
    rw [← x.asg u v]
    unfold clearAwaits
    simp only [Fin.getElem_fin, Vector.getElem_map]
    cases h.asg[u.val] with
    | none => rfl
    | some a => simp only [Option.map_some]; split <;> rfl⟩

/-- The completion of an end without push or deferral takes the assignment. -/
theorem completeEnd_ends {e : Env} {t : Tx} {a : Asg} {o : EndOutcome} (x : Ends d g₀ h) (w : d t) (ha : h.asg[t] = some a)
    (hp : a.phase = .ending o .nothing) : Ends d g₀ (completeEnd e t h) := by
  unfold completeEnd
  rw [ha]
  dsimp only
  rw [hp]
  dsimp only
  have y := clearAwaits_ends (t := t) (Ends.setAsg (a := none) (Ends.each (f := passClaim t) x fun (_ : Out)
    (_ : _ ∈ claims h t) _ y => passClaim_ends y) w)
  split
  · exact Ends.wantAlloc (retireCheck_ends (Ends.note y))
  · exact Ends.wantAlloc (Ends.note y)

theorem retireCheck_asg (n : BankNo) (k : Hall) : (retireCheck n k).asg = k.asg := by
  unfold retireCheck retireNow spendBank bankNotice
  (repeat' split) <;> rfl

/-- The completion of an end leaves the transmitter without assignment. -/
theorem completeEnd_asg {e : Env} {t : Tx} {a : Asg} {o : EndOutcome} (ha : h.asg[t] = some a)
    (hp : a.phase = .ending o .nothing) : (completeEnd e t h).asg[t] = none := by
  unfold completeEnd
  rw [ha]
  dsimp only
  rw [hp]
  dsimp only
  split <;> simp [retireCheck_asg, Hall.wantAlloc, clearAwaits]

/-- What an end writes over an assignment at once. -/
def Asg.ended (a : Asg) (o : EndOutcome) (after : After) : Asg :=
  { a with phase := .ending o after, awaits := none, tune := .done, path := .done, raise := .done, power := false,
           lowerOver := false }

/-- The state in which an end is tried. -/
def endBegun (t : Tx) (b : Asg) (h : Hall) : Hall := cancelSeq t (dropHandBack t (withdrawRaise t (h.setAsg t (some b))))

theorem endBegun_ends {t : Tx} {b : Asg} (x : Ends d g₀ h) (w : d t) : Ends d g₀ (endBegun t b h) := by
  unfold endBegun
  refine cancelSeq_ends ?_
  unfold dropHandBack noHandBack withdrawRaise
  exact Ends.setTx (Ends.setTx (Ends.setAsg x w))

theorem cancelSeq_asg (t : Tx) (k : Hall) : (cancelSeq t k).asg = k.asg := by
  unfold cancelSeq leaveQueued
  dsimp only
  (repeat' split) <;> rfl

theorem endBegun_asg (t : Tx) (b : Asg) (h : Hall) : (endBegun t b h).asg[t] = some b := by
  unfold endBegun
  rw [cancelSeq_asg]
  simp [dropHandBack, noHandBack, withdrawRaise]

theorem endAsg_begun {e : Env} {t : Tx} {o : EndOutcome} {after : After} {a : Asg} (ha : h.asg[t] = some a)
    (hp : a.phase.isEnding = false) : endAsg e t o after h = tryEnd e t (endBegun t (a.ended o after) h) := by
  unfold endAsg endBegun Asg.ended
  rw [ha]
  dsimp only
  rw [hp]
  rfl

/-- An end without push or deferral: other assignments keep their core. -/
theorem endAsg_ends {e : Env} {t : Tx} {o : EndOutcome} (x : Ends d g₀ h) (w : d t) : Ends d g₀ (endAsg e t o .nothing h) := by
  cases ha : h.asg[t] with
  | none => unfold endAsg; rw [ha]; exact x
  | some a =>
    cases hp : a.phase.isEnding with
    | true => unfold endAsg; rw [ha]; simpa [hp] using x
    | false =>
      rw [endAsg_begun ha hp]
      have y := endBegun_ends (b := a.ended o .nothing) x w
      have z := endBegun_asg t (a.ended o .nothing) h
      unfold tryEnd
      rw [z]
      dsimp only
      split
      · exact y
      · split
        · exact completeEnd_ends y w z rfl
        · split
          · exact y
          · exact handLower_ends y

/-- An end: the transmitter's assignment is gone, or ENDING with that outcome, its other items as they were. -/
theorem endAsg_asg {e : Env} {t : Tx} {o : EndOutcome} {a : Asg} (ha : h.asg[t] = some a) (hp : a.phase.isEnding = false) :
    (endAsg e t o .nothing h).asg[t] = none ∨
      (endAsg e t o .nothing h).asg[t].map Asg.core = some (.ending o .nothing, a.sched, a.eff, a.counts, a.trips, a.fold) := by
  rw [endAsg_begun ha hp]
  have z := endBegun_asg t (a.ended o .nothing) h
  have zc : (endBegun t (a.ended o .nothing) h).asg[t].map Asg.core =
      some (.ending o .nothing, a.sched, a.eff, a.counts, a.trips, a.fold) := by rw [z]; rfl
  unfold tryEnd
  rw [z]
  dsimp only
  split
  · exact .inr zc
  · split
    · exact .inl (completeEnd_asg z rfl)
    · split
      · exact .inr zc
      · refine .inr ?_
        rw [← zc]
        exact (handLower_ends (Ends.refl (fun _ => False) _)).asg t id

/-- An assignment that is ENDING is left alone. -/
theorem endAsg_ending {e : Env} {t : Tx} {o : EndOutcome} {after : After} {a : Asg} (ha : h.asg[t] = some a)
    (hp : a.phase.isEnding = true) : endAsg e t o after h = h := by
  unfold endAsg
  rw [ha]
  simp [hp]

/-- What an end makes of one transmitter's assignment: it is gone, or ENDING with that outcome. -/
def EndedTo (o : EndOutcome) (a : Asg) (b : Option Asg) : Prop :=
  b = none ∨ b.map Asg.core = some (.ending o .nothing, a.sched, a.eff, a.counts, a.trips, a.fold)

/-- One walk over transmitters that ends, without push or deferral, the assignments that satisfy `c`. -/
def endEach (e : Env) (c : Tx → Asg → Bool) (o : Tx → Asg → EndOutcome) (t : Tx) (h : Hall) : Hall :=
  match h.asg[t] with
  | some a => if c t a then endAsg e t (o t a) .nothing h else h
  | none => h

theorem endEach_ends {e : Env} {c : Tx → Asg → Bool} {o : Tx → Asg → EndOutcome} {t : Tx} (x : Ends d g₀ h) (w : d t) :
    Ends d g₀ (endEach e c o t h) := by
  unfold endEach
  split
  · split
    · exact endAsg_ends x w
    · exact x
  · exact x

/-- The walk: assignments that do not satisfy `c`, and those ENDING already, keep their core; the others end. `c` and `o` look
at no more than the core. -/
theorem endEach_each {e : Env} {c : Tx → Asg → Bool} {o : Tx → Asg → EndOutcome}
    (hc : ∀ t a b, a.core = b.core → c t a = c t b ∧ o t a = o t b) (l : List Tx) (nd : l.Nodup) (h : Hall) :
    Ends (fun u => u ∈ l ∧ ∃ a, h.asg[u] = some a ∧ c u a = true ∧ a.phase.isEnding = false) h (h.each l (endEach e c o)) ∧
    ∀ t ∈ l, ∀ a, h.asg[t] = some a → c t a = true → a.phase.isEnding = false →
      EndedTo (o t a) a (h.each l (endEach e c o)).asg[t] := by
  induction l generalizing h with
  | nil => exact ⟨Ends.refl _ _, by simp⟩
  | cons u l ih =>
    have nu : u ∉ l := (List.nodup_cons.1 nd).1
    obtain ⟨i1, i2⟩ := ih (List.nodup_cons.1 nd).2 (endEach e c o u h)
    have one : Ends (fun v => v = u ∧ ∃ a, h.asg[v] = some a ∧ c v a = true ∧ a.phase.isEnding = false) h (endEach e c o u h) := by
      unfold endEach
      split
      · rename_i a ha
        split
        · rename_i hca
          cases hp : a.phase.isEnding with
          | true => rw [endAsg_ending ha hp]; exact Ends.refl _ _
          | false => exact endAsg_ends (Ends.refl _ _) ⟨rfl, a, ha, hca, hp⟩
        · exact Ends.refl _ _
      · exact Ends.refl _ _
    have keep (t : Tx) (ht : t ≠ u) : ((endEach e c o u h).asg[t]).map Asg.core = (h.asg[t]).map Asg.core :=
      one.asg t fun z => ht z.1
    have back (t : Tx) (ht : t ≠ u) (a : Asg) (ha : (endEach e c o u h).asg[t] = some a) :
        ∃ b, h.asg[t] = some b ∧ b.core = a.core := by
      have k := keep t ht
      rw [ha] at k
      cases hb : h.asg[t] with
      | none => rw [hb] at k; simp at k
      | some b => rw [hb] at k; exact ⟨b, rfl, by simpa using k.symm⟩
    have forth (t : Tx) (ht : t ≠ u) (a : Asg) (ha : h.asg[t] = some a) :
        ∃ b, (endEach e c o u h).asg[t] = some b ∧ b.core = a.core := by
      have k := keep t ht
      rw [ha] at k
      cases hb : (endEach e c o u h).asg[t] with
      | none => rw [hb] at k; simp at k
      | some b => rw [hb] at k; exact ⟨b, rfl, by simpa using k⟩
    have ph (a b : Asg) (w : a.core = b.core) : a.phase = b.phase := congrArg Prod.fst w
    refine ⟨?_, ?_⟩
    · refine Ends.trans (one.mono ?_) (i1.mono ?_)
      · rintro v ⟨rfl, r⟩; exact ⟨by simp, r⟩
      · rintro v ⟨hv, a, ha, hca, hp⟩
        have ne : v ≠ u := fun z => nu (z ▸ hv)
        obtain ⟨b, hb, hba⟩ := back v ne a ha
        exact ⟨by simp [hv], b, hb, by rw [(hc v b a hba).1]; exact hca, by rw [ph b a hba]; exact hp⟩
    · intro t ht a ha hca hp
      rcases List.mem_cons.1 ht with rfl | hl
      · have f : ((endEach e c o t h).each l (endEach e c o)).asg[t].map Asg.core = ((endEach e c o t h).asg[t]).map Asg.core :=
          i1.asg t fun z => nu z.1
        have g : EndedTo (o t a) a (endEach e c o t h).asg[t] := by
          unfold endEach
          rw [ha]
          dsimp only
          rw [if_pos hca]
          exact endAsg_asg ha hp
        rcases g with g | g
        · left
          show ((endEach e c o t h).each l (endEach e c o)).asg[t] = none
          rw [g] at f
          cases hx : ((endEach e c o t h).each l (endEach e c o)).asg[t] with
          | none => rfl
          | some b => rw [hx] at f; simp at f
        · right
          exact f.trans g
      · have ne : t ≠ u := fun z => nu (z ▸ hl)
        obtain ⟨b, hb, hba⟩ := forth t ne a ha
        have r := i2 t hl b hb (by rw [(hc t b a hba).1]; exact hca) (by rw [ph b a hba]; exact hp)
        rw [(hc t b a hba).2] at r
        unfold EndedTo at r ⊢
        have q : b.sched = a.sched ∧ b.eff = a.eff ∧ b.counts = a.counts ∧ b.trips = a.trips ∧ b.fold = a.fold := by
          simp only [Asg.core, Prod.mk.injEq] at hba
          exact hba.2
        rw [q.1, q.2.1, q.2.2.1, q.2.2.2.1, q.2.2.2.2] at r
        exact r

end Sys2Proof.Machine
end

