-- ==== Sys2Proof/Laws/Events.lean ====
section
/-! SUPPORT. The end of an event, said once: what `finish` keeps, where its replies go, what it is when nothing settles, and
that it keeps every list within its bound. When an output is available to an assignment, and when its state's change is told. -/

namespace Sys2Proof.Machine

/-! ### Outputs -/

/-- R30 case 3: an output is available to T's assignment when no other claims it, no other's hold reserves it, and it is not
FAULTED. -/
theorem outUsable_iff {h : Hall} {t : Tx} {o : Out} :
    outUsable h t o = true ↔
      (∀ u, h.path.owner[o] = some u → u = t) ∧ reservedByOther h o t = false ∧ blocked h (.out o) = false := by
  have c : h.path.owner[o] = none ∨ ∃ u, h.path.owner[o] = some u := by cases h.path.owner[o] <;> simp
  unfold outUsable outMine outAvail outState
  rcases c with w | ⟨u, w⟩ <;> rcases Bool.eq_false_or_eq_true (blocked h (.out o)) with b | b <;>
    rcases Bool.eq_false_or_eq_true (reservedByOther h o t) with r | r <;>
    rcases Bool.eq_false_or_eq_true (feeder h o).isSome with f | f <;> simp_all

/-- R97: an output that keeps its state hands nothing. -/
theorem outBecomes_self {s : OutState} {h : Hall} : outBecomes s s h = h := by simp [outBecomes]

/-! ### Links -/

theorem Link.startSend_out (l : Link) : l.startSend.out = l.out := by
  rcases l with ⟨sy, re, wa, rs, ns, lo, se⟩
  cases se <;> cases rs <;> cases ns <;> rfl

theorem Link.pushNotice_out (l : Link) (n : Notice) : (l.pushNotice n).out = l.out := by
  unfold Link.pushNotice
  rw [Link.startSend_out]
  split <;> rfl

theorem Link.moveUp_out (l : Link) (b : Bool) : (l.moveUp b).out = l.out := by
  unfold Link.moveUp
  split <;> rfl

/-- R215: the replies of an event go out after those made before it, in order. -/
theorem Link.deliver_out (l : Link) (said : List Reply) (sec : Seconds) (emit : List NoticeBody) :
    (l.deliver said sec emit).out = l.out ++ said := by
  unfold Link.deliver
  have key : ∀ (emit : List NoticeBody) (k : Link),
      (emit.foldl (fun l b => l.pushNotice ⟨sec, b⟩) k).out = k.out := by
    intro emit
    induction emit with
    | nil => intro k; rfl
    | cons b bs ih => intro k; rw [List.foldl_cons, ih, Link.pushNotice_out]
  rw [key, Link.startSend_out]
  simp [Link.out]

theorem Link.startSend_notices (l : Link) : l.startSend.notices.length ≤ l.notices.length := by
  rcases l with ⟨sy, re, wa, rs, ns, lo, se⟩
  cases se <;> cases rs <;> cases ns <;> simp [Link.startSend]

theorem Link.pushNotice_notices (l : Link) (n : Notice) (w : l.notices.length ≤ Config.maxNotices) :
    (l.pushNotice n).notices.length ≤ Config.maxNotices := by
  unfold Link.pushNotice
  refine (Link.startSend_notices _).trans ?_
  split
  · simp; omega
  · exact w

/-- R216: the notice queue stays within its bound. -/
theorem Link.deliver_notices (l : Link) (said : List Reply) (sec : Seconds) (emit : List NoticeBody)
    (w : l.notices.length ≤ Config.maxNotices) : (l.deliver said sec emit).notices.length ≤ Config.maxNotices := by
  unfold Link.deliver
  have key : ∀ (emit : List NoticeBody) (k : Link), k.notices.length ≤ Config.maxNotices →
      (emit.foldl (fun l b => l.pushNotice ⟨sec, b⟩) k).notices.length ≤ Config.maxNotices := by
    intro emit
    induction emit with
    | nil => intro k v; exact v
    | cons b bs ih => intro k v; exact ih _ (Link.pushNotice_notices _ _ v)
  exact key _ _ ((Link.startSend_notices _).trans w)

theorem Link.moveUp_notices (l : Link) (b : Bool) : (l.moveUp b).notices = l.notices := by
  unfold Link.moveUp
  split <;> rfl

/-! ### The order of an event's notices -/

theorem faultTx_not_tx {m : NoticeBody} {t u : Tx} (a : m.faultTx = some t) : m.isTxOf u = false := by
  unfold NoticeBody.faultTx at a
  split at a
  · rfl
  · cases a

/-- R153: the notices of an event are those that were made. -/
theorem txFirst_perm (l : List NoticeBody) : (txFirst l).Perm l := by
  induction l with
  | nil => exact .nil
  | cons m l ih =>
    unfold txFirst
    split
    · exact List.perm_middle.trans (.cons m ((List.filter_append_perm _ _).trans ih))
    · exact .cons m ih

/-- What lies wholly on one side of `q` keeps its order when what `q` holds moves before `m`, which it does not hold. -/
theorem filter_moved {p q : NoticeBody → Bool} {m : NoticeBody} {l : List NoticeBody} (f : q m = false)
    (w : (∀ n, p n = true → q n = true) ∨ ∀ n, p n = true → q n = false) :
    (l.filter q ++ m :: l.filter fun n => !q n).filter p = (m :: l).filter p := by
  rw [List.filter_append, List.filter_cons, List.filter_cons, List.filter_filter, List.filter_filter]
  rcases w with w | w
  · have g : p m = false := by
      cases c : p m with
      | false => rfl
      | true => rw [w m c] at f; cases f
    have a : (fun n => p n && q n) = p := funext fun n => by cases c : p n <;> simp [c, w n]
    have b : (fun n => p n && !q n) = fun _ => false := funext fun n => by cases c : p n <;> simp [c, w n]
    simp [a, b, g]
  · have a : (fun n => p n && q n) = fun _ => false := funext fun n => by cases c : p n <;> simp [c, w n]
    have b : (fun n => p n && !q n) = p := funext fun n => by cases c : p n <;> simp [c, w n]
    simp [a, b]

/-- R153: the TX notices of a transmitter keep their order. -/
theorem txFirst_tx (t : Tx) (l : List NoticeBody) :
    (txFirst l).filter (NoticeBody.isTxOf t) = l.filter (NoticeBody.isTxOf t) := by
  induction l with
  | nil => rfl
  | cons m l ih =>
    unfold txFirst
    split
    · next u f =>
      rw [filter_moved (faultTx_not_tx f), List.filter_cons, List.filter_cons, ih]
      by_cases c : t = u
      · exact .inl fun n v => c ▸ v
      · refine .inr fun n v => ?_
        unfold NoticeBody.isTxOf at *
        split at v
        · rw [of_decide_eq_true v]; simp [c]
        · rfl
    · rw [List.filter_cons, List.filter_cons, ih]

/-- R153: the notices that are not TX notices keep their order. -/
theorem txFirst_others {p : NoticeBody → Bool} (w : ∀ t m, m.isTxOf t = true → p m = false) (l : List NoticeBody) :
    (txFirst l).filter p = l.filter p := by
  induction l with
  | nil => rfl
  | cons m l ih =>
    unfold txFirst
    split
    · next u f =>
      rw [filter_moved (faultTx_not_tx f), List.filter_cons, List.filter_cons, ih]
      refine .inr fun n v => ?_
      cases c : n.isTxOf u with
      | false => rfl
      | true => rw [w u n c] at v; cases v
    · rw [List.filter_cons, List.filter_cons, ih]

/-- R153, R195: no TX notice of a transmitter follows a FAULT notice of its records. -/
theorem txFirst_order (l : List NoticeBody) :
    (txFirst l).Pairwise fun m n => ∀ t, m.faultTx = some t → n.isTxOf t = false := by
  induction l with
  | nil => exact .nil
  | cons m l ih =>
    unfold txFirst
    split
    · next t f =>
      refine List.pairwise_append.2 ⟨ih.filter _, List.pairwise_cons.2 ⟨fun n v u g => ?_, ih.filter _⟩, fun a v b _ u g => ?_⟩
      · obtain rfl := Option.some.inj (f.symm.trans g)
        simpa using (List.mem_filter.1 v).2
      · have c := (List.mem_filter.1 v).2
        rw [faultTx_not_tx g] at c
        cases c
    · next f => exact List.pairwise_cons.2 ⟨fun n _ t g => by (rw [f] at g; cases g), ih⟩

/-! ### The end of an event -/

@[simp] theorem finish_tables (m : State) : (finish m).tables = m.tables := rfl
@[simp] theorem finish_time (m : State) : (finish m).time = m.time := rfl
@[simp] theorem finish_pending (m : State) : (finish m).pending = m.pending := rfl

theorem finish_sense (m : State) : (finish m).hall.sense = m.hall.sense := (settle_moves (Moves.refl m.hall)).sense

theorem finish_clear (m : State) : (finish m).hall.clear = m.hall.clear := (settle_moves (Moves.refl m.hall)).clear

theorem finish_out (m : State) : (finish m).link.out = m.link.out ++ m.hall.said := by
  show ((m.link.deliver _ _ _).moveUp _).out = _
  rw [Link.moveUp_out, Link.deliver_out, (settle_moves (Moves.refl m.hall)).said]

theorem settle_settled {n : Nat} {e : Env} {h : Hall} (w : (nextRule e h).isNone = true) : settle n e h = h := by
  cases n with
  | zero => rfl
  | succ n =>
    unfold settle
    rw [Option.isNone_iff_eq_none.1 w]

/-- Where nothing settles, the end of an event only hands its replies and notices to the link. -/
theorem finish_settled {m : State} (w : m.settled) : finish m = m.closed := by
  unfold finish State.closed
  rw [settle_settled w]

theorem finish_sizes {m : State} (w : m.sizesOk) : (finish m).sizesOk := by
  have v := (settle_moves (n := Config.settleFuel) (e := m.env) (Moves.refl m.hall)).sizes w.hall
  refine ⟨⟨v.banks, v.changes, v.changeIds, v.deferral, v.stack, v.windows, v.faults⟩, ?_⟩
  show ((m.link.deliver _ _ _).moveUp _).notices.length ≤ _
  rw [Link.moveUp_notices]
  exact Link.deliver_notices _ _ _ _ w.notices

/-! ### Requests -/

/-- A request given to a free link with a good tag is taken. -/
theorem taking_free {s : State} {tag : Nat} {i : Instr} {r : Req} {f : State → State} (w : s.takes tag) :
    s.taking i tag r f = f s := by
  unfold State.taking
  rw [if_neg (by rw [w.1]; decide), if_pos w.2]

/-- R215: a request with a good tag on a free link: its answer is the event. -/
theorem request_free {s : State} {tag : Nat} {i : Instr} {r : Req} {f : State → Ans} (w : s.takes tag) :
    request i tag r f s = .next (finish ((f s).reply tag r)) := by
  unfold request State.take
  rw [taking_free w]

/-- A range test that passes lets the request go on. -/
@[simp] theorem named_some {α : Type} (s : State) (a : α) (f : α → Ans) : named s (some a) f = f a := rfl

@[simp] theorem named_none {α : Type} (s : State) (f : α → Ans) : named s none f = s.refuse .range := rfl

@[simp] theorem reply_ans (s : State) (st : Status) (b : ReplyBody) (tag : Nat) (r : Req) :
    (s.ans st b).reply tag r = s.say tag (some r) st b := rfl

@[simp] theorem reply_ok (s : State) (tag : Nat) (r : Req) : (s.ok).reply tag r = s.say tag (some r) .ok .nothing := rfl

@[simp] theorem reply_refuse (s : State) (st : Status) (tag : Nat) (r : Req) :
    (s.refuse st).reply tag r = s.say tag (some r) st .nothing := rfl

/-- A request that is taken completes with its answer. -/
theorem completes_request {c i : Instr} {s m : State} {tag : Nat} {r : Req} {f : State → Ans} (w : s.takes tag)
    (h : exec c s = request i tag r f s) (a : (f s).reply tag r = m) : Completes c s m := by
  unfold Completes
  rw [h, request_free w, a]

/-- An event of the plant or of time completes with its effect on the hall. -/
theorem completes_happen {c : Instr} {s m : State} {f : Env → Hall → Hall} (h : exec c s = happen s f)
    (a : s.onHall f = m) : Completes c s m := by
  unfold Completes
  rw [h]
  show Host.Outcome.next (finish (s.onHall f)) = _
  rw [a]

/-- R4: banks are numbered from 1. -/
@[simp] theorem bankOf_succ (n : BankNo) : bankOf (n.val + 1) = some n := by
  unfold bankOf
  rw [dif_pos (by omega)]
  simp

end Sys2Proof.Machine
end

