-- ==== Sys2Proof/Tests/Slice0.lean ====
section
/-! SUPPORT. Tests: an ill-formed command for each check of WellFormed, small runs of the operations, and for every statement
of Certificates/Slice0/Obligations.lean that has hypotheses a concrete state and operands that meet them, clause by clause. -/

namespace Sys2Proof.Tests

set_option Elab.async false

open Sys2Proof Sys2Proof.Machine

/-! ### Well-formed commands -/

theorem test_wf_tag : (Instr.identify 1000).wf = false ∧ (Instr.identify 999).wf = true := by decide
theorem test_wf_lineChars : (Instr.lineComplete ['\r']).wf = false ∧ (Instr.lineComplete ['#']).wf = true := by decide
theorem test_wf_azimuth :
    (Instr.positionerReport 0 (.atRest 360)).wf = false ∧ (Instr.positionerReport 0 (.atRest 359)).wf = true := by decide
theorem test_wf_driveReport :
    (Instr.positionerReport 0 (.moving 360)).wf = false ∧ (Instr.positionerReport 0 (.atTarget 360)).wf = false := by decide
theorem test_wf_tuned : (Instr.cabinetReply 0 ⟨.tuned 2299 .full, false, none, none⟩).wf = false ∧
    (Instr.cabinetReply 0 ⟨.tuned 2300 .full, false, none, none⟩).wf = true := by decide
theorem test_wf_output : (Instr.cabinetReply 0 ⟨.on 2300 .full 1101, false, none, none⟩).wf = false ∧
    (Instr.cabinetReply 0 ⟨.on 2300 .full 1100, false, none, none⟩).wf = true := by decide
theorem test_wf_orderNo : (Instr.cabinetReply 0 ⟨.cold, false, none, some 256⟩).wf = false ∧
    (Instr.cabinetReply 0 ⟨.cold, false, none, some 255⟩).wf = true := by decide
theorem test_wf_date : (Instr.timeSet 1 ⟨10000, 1, 1⟩ 0 0 0).wf = false ∧ (Instr.timeSet 1 ⟨2000, 1, 1⟩ 0 0 0).wf = true := by
  decide
theorem test_wf_antenna : (Instr.slewTimeout 24).wf = false ∧ (Instr.slewTimeout 23).wf = true := by decide
theorem test_wf_steps : (Instr.planLoad 1 1 (List.replicate 97 (.clearHold (some 0) (some .inhibit)))).wf = false ∧
    (Instr.planLoad 1 1 []).wf = true := by decide

/-! ### Small states -/

/-- An entry as a request carries it. -/
def form : EntryForm :=
  { id := 1, tx := some 0, freq := 6000, mode := some .full, out := some 0, preset := none, power := 1, prog := 1,
    start := 600, stop := 700, days := 1, prio := 0, valid := none, untilD := none, lead := none }

/-- The same entry as a bank holds it. -/
def entry : Entry :=
  { id := 1, tx := 0, freq := 6000, mode := .full, out := 0, preset := none, power := 1, prog := 1, start := 360,
    stop := 420, days := 1, prio := 0, valid := none, untilD := none, lead := none }

/-- The state after reset with an edit of the hall. -/
def hall (f : Hall → Hall) : State := { State.reset with hall := f State.reset.hall }
/-- With an edit of the link. -/
def link (f : Link → Link) : State := { State.reset with link := f State.reset.link }
/-- With an edit of the Time Base. -/
def time (f : TimeBase → TimeBase) : State := { State.reset with time := f State.reset.time }
/-- With an edit of the tables. -/
def tables (f : Tables → Tables) : State := { State.reset with tables := f State.reset.tables }
/-- With bank 1 replaced. -/
def bank (b : Bank) : State := hall fun h => h.setBank 0 fun _ => b
/-- T1 and A1 defined. -/
def known : State :=
  tables fun k => { k with txs := upd k.txs 0 fun d => { d with defined := true }
                           outs := upd k.outs 0 fun d => { d with defined := true } }
/-- T1 defined, with an edit of its record. -/
def txed (f : TxRec → TxRec) : State := { known with hall := known.hall.setTx 0 f }
/-- A positioner record of A1 on line 1. -/
def posRec (job : Option PosJob) : Pos :=
  { line := 0, rate := 3, presets := tab 16 none, st := .parked none, az := none, read := true, job := job, gone := false }
/-- A1 with a positioner. -/
def posed (p : Pos) : State := hall fun h => h.setPos 0 (some p)
/-- A granted motion in slot 1. -/
def slotted (k : MotionKind) (hot : Bool) : State :=
  hall fun h => h.setSlot 0 (some ⟨⟨k, 1, [0]⟩, 0, 0, hot⟩)
/-- An order that was sent. -/
def sentOrder (k : OrderKind) : Order :=
  { Order.mk0 k true false with no := some 1, sentAt := some 0, since := some 0 }
/-- An exchange in progress. -/
def poll : Option Exchange := some ⟨.poll, 0⟩
/-- A fault record. -/
def fault (kind : FaultKind) (src : FaultSource) (blocking : Bool) (seq : Nat) : FaultRec :=
  ⟨seq, kind, src, blocking, 1, 0, 0, none, none, none⟩
/-- The Fault Table with records. -/
def faulted (l : List FaultRec) : State := hall fun h => { h with faults := ⟨l, 49, false⟩ }

/-- An entry whose window is open right after reset, its occurrence then, and its parameters. -/
def live : Entry := { entry with start := 0, stop := 60, days := 127 }
def occ : Occ := ⟨0, 1, day2000⟩
def params : Params := ⟨6000, .full, 0, none, 1, some 1⟩
/-- An assignment of that occurrence. -/
def asg (p : Phase) : Asg :=
  { sched := some ⟨occ, 0, occStart live day2000, occStop live day2000⟩, base := params, eff := params, awaits := none,
    phase := p, trips := 0, tripTimes := [], fold := false, late := false, tune := .done, path := .done, raise := .done,
    power := false, hold := false, lowerOver := false, counts := true }
/-- The same occurrence off air. -/
def item : Item := ⟨occ, 0, 0, occStart live day2000, occStop live day2000, 0, false⟩
/-- The hall at work: RUNNING, the clock set, the entry in the ACTIVE bank, DOOR and RFP of T1 and ESTOP inactive. -/
def work (f : Hall → Hall) : State :=
  let h := (((known.hall.setBank 0 fun _ => ⟨.active, [], some 0, [⟨live, none⟩]⟩).setSense (.door 0) fun v =>
    { v with qual := some false }).setSense (.rfp 0) fun v => { v with qual := some false }).setSense .estop fun v =>
    { v with qual := some true }
  { known with hall := f { h with mode := .running }, time := { known.time with cstate := .locked } }
/-- T1 at work on an assignment that claims its output, with an edit of its record. -/
def onDuty (a : Asg) (f : TxRec → TxRec) : State :=
  work fun h => ((h.setAsg 0 (some a)).setOwner 0 (some 0)).setTx 0 f

/-! ### Operations -/

/-- R213: the checksum of the manual's example. -/
theorem test_crc : crc "123456789".toList = 0x29B1#16 := by decide +kernel
theorem test_checksum : checksumOk "#7 IDENTIFY*E3C6".toList = true ∧ checksumOk "#7 IDENTIFY*E3C7".toList = false := by
  decide +kernel
theorem test_parse : parseLine "#7 IDENTIFY*E3C6".toList = .identify 7 := by decide +kernel
/-- Log 1: 2000-01-01 is a Saturday, day 730485. -/
theorem test_day : dayOf ⟨2000, 1, 1⟩ = some day2000 ∧ weekday day2000 = 5 ∧ dayOf ⟨2001, 2, 29⟩ = none := by decide
theorem test_entry : entryOf form = some entry ∧ entryOf { form with freq := 2299 } = none := by decide
/-- R144: within 5 %, rounded outward. -/
theorem test_power : powerMatches 100 95 = true ∧ powerMatches 100 94 = false ∧ powerMatches 100 106 = false := by decide
/-- R134: the number after 255 is 1. -/
theorem test_nextNo : nextNo 254 = 255 ∧ nextNo 255 = 1 := by decide
theorem test_identify :
    (match exec (.identify 7) State.reset with
      | .next t => t.link.replies.map fun r => (r.tag, r.req, r.status)
      | _ => []) = [(7, some .identify, .ok)] := by
  decide +kernel
/-- R213, R215: a reply's line, with its checksum. -/
theorem test_line : Reply.line ⟨7, some .identify, .range, .nothing⟩ = "=7 IDENTIFY STATUS=RANGE*6DB2".toList := by
  decide +kernel
/-- R177, R215: a HOLD-SET's fields are taken by name. -/
theorem test_holdFields :
    parseLine "#1 HOLD-SET TX=T1 ASPECT=POWER POWER=5*0000".toList = .holdSet 1 (some 0) (some (.power 5)) ∧
    parseLine "#1 HOLD-SET TX=T1 ASPECT=POWER PRESET=5*0000".toList = .holdSet 1 (some 0) none := by decide +kernel
theorem test_decode : decodeTableWord 8 0 = none := by decide
theorem test_withFetchWord : State.reset.withFetchWord 8 0 = State.reset := by decide +kernel

/-! ### Witnesses: queue, link -/

theorem test_meets_StepRunsFrontCommand :
    ({ State.reset with pending := [.minuteEvent] } : State).pending = .minuteEvent :: [] := rfl

theorem test_meets_StepOnEmptyQueue :
    State.reset.pending = [] ∧ State.reset.link.waiting = none ∧ State.reset.time.slew = none ∧
    (link fun l => { l with waiting := some (.cmd (.identify 1)) }).hall.clear = none ∧
    (time fun t => { t with slew := some 1 }).time.slew = some 1 ∧
    (time fun t => { t with slew := some (-1) }).time.slew = some (-1) := by decide +kernel

theorem test_meets_EndOfEvent :
    State.reset.link.waiting = none ∧ State.reset.hall.clear = none ∧ State.reset.settled ∧
    (link fun l => { l with waiting := some (.cmd (.identify 1)) }).link.waiting ≠ none := by decide +kernel

/-- R153: of an event's notices, TX goes before the FAULT of its transmitter and stays behind that of another. -/
theorem test_txFirst :
    let f (t : Tx) : NoticeBody := .fault (fault .trip (.tx t) false 1) .repeated
    let x (t : Tx) (p : TxState) : NoticeBody := .tx t .ready p .order
    txFirst [f 0, x 1 .cold, f 1, x 0 .cold, x 0 .standby] = [x 0 .cold, x 0 .standby, f 0, x 1 .cold, f 1] := by decide

theorem test_meets_PowerOn :
    (posed (posRec none)).hall.path.pos[(0 : Out)] = some (posRec none) ∧ (posRec none).gone = false := by decide +kernel

theorem test_meets_RequestWaitsOrIsBadForm :
    requestOfCommand (.identify 256) = some (256, .identify) ∧ requestOfCommand (.identify 0) = some (0, .identify) ∧
    (link fun l => { l with waiting := some (.cmd (.identify 1)) }).busy = true ∧
    (link fun l => { l with waiting := some (.cmd (.identify 1)) }).link.receiving = none ∧
    (link fun l => { l with waiting := some (.cmd (.identify 1)), receiving := some (.cmd (.identify 2)) }).busy = true ∧
    State.reset.free := by decide +kernel

theorem test_meets_LineFraming_tag :
    errTag "#25 X".toList = some 25 ∧ errTag "#X".toList = none ∧ errTag "#1234 X".toList = some 123 ∧
    (" X".toList.head?.bind digitOf) = none := by decide +kernel

theorem test_meets_LineFraming :
    State.reset.link.synced = false ∧ (link fun l => { l with synced := true }).link.synced = true ∧
    480 < (List.replicate 481 'A').length ∧ (List.replicate 480 'A').length ≤ 480 ∧
    checksumOk (List.replicate 480 'A') = false ∧ isResync "#9 RESYNC DIR=BOTH*D2A0".toList = true ∧
    checksumOk "#9 RESYNC DIR=BOTH*D2A0".toList = true ∧ isResync "#7 IDENTIFY*E3C6".toList = false ∧
    (link fun l => { l with synced := true, receiving := some (.cmd (.identify 2)) }).link.receiving ≠ none := by
  decide +kernel

theorem test_meets_OutboundLines :
    (link fun l => { l with replies := [⟨1, none, .ok, .nothing⟩] }).link.replies = ⟨1, none, .ok, .nothing⟩ :: [] ∧
    State.reset.link.replies = [] ∧ State.reset.link.notices = [] ∧ State.reset.link.sending ≠ none ∧
    (link fun l => { l with notices := [firstNotice] }).link.notices = firstNotice :: [] ∧
    (List.replicate 31 firstNotice).length < 32 ∧ 32 ≤ (List.replicate 32 firstNotice).length := by decide +kernel

/-- R213: a body whose line has room for its fields, and one whose line has not. -/
theorem test_meets_OutboundLines_lengths :
    ((bodyFields (.fault (fault .trip (.tx 0) false 1))).map List.length).sum ≤ 400 ∧
    474 < ((bodyFields (.ids (List.replicate 240 1) none)).map List.length).sum := by decide +kernel

/-- Each request of the statements about a free link: the state after reset takes tags 1 and 255. -/
theorem test_meets_takes : State.reset.takes 1 ∧ State.reset.takes 255 ∧ known.takes 1 := by decide +kernel

theorem test_meets_NamesOutsideTheirLists : ¬ (1 ≤ 0 ∧ 0 ≤ 4) ∧ ¬ (1 ≤ 5 ∧ 5 ≤ 4) ∧
    (ChangeKind.withdraw = .withdraw ↔ (none : Option EntryForm) = none) ∧
    (ChangeKind.add = .withdraw ↔ some form = none) := by decide

/-! ### Witnesses: store, clock, engine -/

/-- Bank 1 staged, with one entry. -/
def staged : State := { known with hall := known.hall.setBank 0 fun _ => ⟨.staging, [], none, [⟨entry, none⟩]⟩ }

theorem test_meets_EntryPut :
    (bank ⟨.spent, [], none, []⟩).hall.banks[(0 : BankNo)].st ≠ .staging ∧ entryOf { form with prog := 17 } = none ∧
    staged.takes 1 ∧ (staged.hall.banks[(0 : BankNo)]).st = .staging ∧ entryOf form = some entry ∧
    txDefined staged.tables staged.hall entry.tx = true ∧ (staged.tables.outs[entry.out]).defined = true ∧
    entry.preset.isSome = (staged.tables.outs[entry.out]).slewable ∧ entry.power ≤ (staged.tables.txs[entry.tx]).rating ∧
    check staged.tables staged.hall ⟨some entry.freq, some entry.mode, some entry.out, some entry.power, none⟩ = .permitted ∧
    (staged.hall.banks[(0 : BankNo)]).find entry.id = some ⟨entry, none⟩ ∧
    (staged.hall.banks[(0 : BankNo)]).find 2 = none := by decide +kernel

theorem test_meets_EntryPut_refusals :
    txDefined (bank ⟨.staging, [], none, []⟩).tables (bank ⟨.staging, [], none, []⟩).hall 0 = false ∧
    entryOf { form with preset := some 0 } = some { entry with preset := some 0 } ∧
    entryOf { form with power := 2 } = some { entry with power := 2 } ∧ ¬ (2 ≤ (staged.tables.txs[(0 : Tx)]).rating) ∧
    check { known.tables with excl := [⟨6000, 6000, true, false, false⟩] } known.hall
      ⟨some 6000, some .full, some 0, some 1, none⟩ = .excluded 0 ∧
    400 ≤ (List.replicate 400 (⟨entry, none⟩ : EntryRec)).length := by decide +kernel

theorem test_meets_EntryDrop :
    (staged.hall.banks[(0 : BankNo)]).st = .staging ∧
    (∃ r ∈ (staged.hall.banks[(0 : BankNo)]).recs, r.entry.id = 1) ∧
    ((staged.hall.banks[(0 : BankNo)]).recs.map fun r => r.entry.id).Nodup ∧
    ∀ r ∈ (staged.hall.banks[(0 : BankNo)]).recs, r.entry.id ≠ 2 := by decide +kernel

theorem test_meets_BankCommit :
    commitStart ⟨1999, 12, 31⟩ 0 = none ∧ commitStart ⟨2000, 1, 1⟩ 0 = some (730485 * 1440) ∧
    commitStart ⟨2099, 12, 31⟩ 2359 ≠ none ∧
    commitFault staged (staged.hall.banks[(0 : BankNo)]) (730485 * 1440) = none ∧ staged.time.cstate = .unset ∧
    ({ staged with time := { staged.time with cstate := .locked } } : State).time.cstate ≠ .unset ∧
    730485 * 1440 ≤ staged.time.clock / ticksPerMin ∧
    commitFault State.reset ⟨.staging, [], none, [⟨entry, none⟩]⟩ 0 ≠ none := by decide +kernel

/-- The first entry that a test fails, the first pair that clashes, and an entry put in id order. -/
theorem test_meets_BankCommit_order :
    let at_ (id : Nat) (t : Tx) : EntryRec := ⟨{ entry with id := id, tx := t }, none⟩
    let faults (l : List EntryRec) : Option (Status × ReplyBody) :=
      commitFault { known with hall := State.reset.hall } ⟨.staging, [], none, l⟩ (730485 * 1440)
    faults [at_ 1 0, at_ 2 1, at_ 3 1] = some (.notFound, .atId 2 none) ∧
    faults [at_ 1 0, at_ 2 0, at_ 3 0] = some (.conflict, .otherIds 1 2) ∧
    (((⟨.staging, [], none, [at_ 1 0, at_ 3 0]⟩ : Bank).put (at_ 2 0).entry).recs.map fun r => r.entry.id) = [1, 2, 3] := by
  decide +kernel

/-- The bank whose start has come, beside the ACTIVE one with two assignments and the RETIRING one with a third. -/
def changingOver (h : Hall → Hall) : State :=
  work fun g => h ((((g.setBank 1 fun _ => ⟨.committed, [], some 0, []⟩).setBank 2 fun _ => ⟨.retiring, [], some 0, []⟩).setAsg 0
    (some (asg .waiting))).setAsg 1 (some { asg .waiting with
      sched := some ⟨{ occ with bank := 2 }, 0, occStart live day2000, occStop live day2000⟩ }))

theorem test_meets_BankCommit_changeover :
    (let s := changingOver id
     let g := changeover s.env 1 s.hall
     s.time.cstate ≠ .unset ∧ s.hall.mode ≠ .adopting ∧ (s.hall.banks[(1 : BankNo)]).start = some 0 ∧ 0 ≤ s.env.min ∧
       activeBank s.hall = some 0 ∧ retiringBank s.hall = some 2 ∧
       (g.banks.map Bank.st).toList = [.spent, .active, .spent, .empty] ∧ g.asg[(0 : Tx)] = none ∧ g.asg[(1 : Tx)] = none) ∧
    (let s := changingOver fun h => (h.setBank 1 fun b => { b with start := some (occStart live day2000 + 1) }).setStack 0
       [⟨item, 0, .preemptedTx⟩]
     let g := changeover s.env 1 s.hall
     occStart live day2000 < (s.hall.banks[(1 : BankNo)]).start.getD 0 ∧
       (g.banks.map Bank.st).toList = [.retiring, .active, .spent, .empty] ∧
       (g.asg[(0 : Tx)]).map Asg.phase = some .waiting) ∧
    (let s := work fun h => h.setBank 0 fun _ => Bank.blank
     activeBank s.hall = none ∧ retiringBank s.hall = none ∧ ∀ n : BankNo, (s.hall.banks[n]).st ≠ .committed) := by
  decide +kernel

theorem test_meets_BankStates :
    (∀ st : BankState, ∃ s : State, s.takes 1 ∧ (s.hall.banks[(0 : BankNo)]).st = st) ∧
    (some "SEASON".toList).all labelOk = true ∧ (some "A B".toList).all labelOk = false := by
  refine ⟨fun st => ⟨bank ⟨st, [], none, []⟩, ?_⟩, by decide +kernel⟩
  cases st <;> decide +kernel

theorem test_meets_BankReads :
    (staged.hall.banks[(0 : BankNo)]).find 1 = some ⟨entry, none⟩ ∧ (staged.hall.banks[(0 : BankNo)]).find 2 = none ∧
    State.reset.hall.banks[(0 : BankNo)] = Bank.blank := by decide +kernel

theorem test_meets_ChangePost :
    ¬ (ChangeKind.add = .withdraw ↔ (none : Option EntryForm) = none) ∧ ¬ (1 ≤ 65536 ∧ 65536 ≤ 65535) ∧
    entryOf { form with id := 65535 } = some { entry with id := 65535 } ∧ State.reset.hall.changes.length < 16 ∧
    16 ≤ (List.replicate 16 (⟨1, 0, .add, 1, none, false, [], [], false⟩ : Change)).length := by decide +kernel

/-- A change at the head of the queue, naming entry 1 of bank 1; T1 has an assignment of the entry, with an order sent. -/
def changing (st : BankState) (k : ChangeKind) (id : Nat) (flies : Bool) (f : Change → Change) : State :=
  let s := onDuty (asg .onAir) fun r => { r with st := .onAir, out := if flies then some (sentOrder .lower) else none }
  { s with hall := { s.hall.setBank 0 fun b => { b with st := st } with
    changes := [f ⟨1, 0, k, id, if k = .withdraw then none else some { live with id := id }, false, [], [], false⟩] } }

/-- The bank of the change above, and the head of the queue. -/
def headOf (s : State) : Option (Change × BankState × Bool) :=
  s.hall.changes.head?.map fun c => (c, (s.hall.banks[c.bank]).st, (s.hall.banks[c.bank]).recs.any fun r => r.entry.id = c.id)

theorem test_meets_ChangeList :
    (changing .active .withdraw 1 true id).hall.mode ≠ .adopting ∧
    (headOf (changing .active .withdraw 1 true id)).map (fun x => (x.1.draining, x.2)) = some (false, .active, true) ∧
    (headOf (changing .retiring .withdraw 1 false id)).map Prod.snd = some (.retiring, true) ∧
    (headOf (changing .staging .add 2 false id)).map Prod.snd = some (.staging, false) ∧
    (headOf (changing .committed .amend 2 false id)).map Prod.snd = some (.committed, false) ∧
    (headOf (changing .committed .add 1 false id)).map Prod.snd = some (.committed, true) ∧
    (workOf (changing .active .withdraw 1 true id).hall 0) = [.order 0 1] ∧
    (workOf (changing .active .withdraw 1 false id).hall 0) = [] ∧
    (((changing .active .withdraw 1 true id).hall.asg[(0 : Tx)]).bind Asg.sched).map Sched.occ = some occ ∧
    (headOf (changing .active .withdraw 1 true fun c =>
      { c with draining := true, frozen := [0], awaited := [.order 0 1], recheck := false })).map (fun x => x.1.awaited)
      = some [.order 0 1] ∧
    (headOf (changing .active .withdraw 1 true fun c => { c with draining := true, frozen := [1], recheck := true })).map
      (fun x => (x.1.recheck, x.1.frozen)) = some (true, [1]) := by decide +kernel

/-- The tests of an entry, and a clash: an ADD beside an entry of its hours, an AMEND of the entry itself. -/
theorem test_meets_ChangeList_entries :
    clash 0 { live with id := 2 } live = true ∧ clash 0 live live = false ∧
    clash 0 { live with id := 2, start := 100, stop := 200 } live = false ∧
    (let s := changing .active .add 2 false id
     txDefined s.tables s.hall 0 = true ∧ txDefined s.tables s.hall 1 = false ∧ (s.tables.outs[(0 : Out)]).defined = true ∧
       check s.tables s.hall ⟨some 6000, some .full, some 0, some 1, none⟩ = .permitted ∧ (s.tables.txs[(0 : Tx)]).rating = 1) ∧
    hasOcc live 0 day2000 = true ∧ hasOcc { live with days := 0 } 0 day2000 = false ∧
    admitted (changing .active .amend 1 false id).env live day2000 = true ∧
    (changing .active .amend 1 false id).env.min < occStop live day2000 := by decide +kernel

/-- An AMEND over the assignment, T1's stack and the deferral list: a replacement that covers the date, one that does not, and
one that names another transmitter. -/
theorem test_meets_ChangeList_amend :
    let s := changing .active .amend 1 false id
    let c : Change := ⟨1, 0, .amend, 1, some live, false, [], [], false⟩
    let h := { s.hall.setStack 0 [⟨item, 0, .preemptedTx⟩] with deferral := [⟨item, .txBusy⟩] }
    let gone : Entry := { live with days := 0 }
    (∃ r ∈ (h.banks[c.bank]).recs, r.entry.id = live.id) ∧
    ((h.banks[c.bank]).start.any (fun x => hasOcc live x day2000) && admitted s.env live day2000 &&
      decide (s.env.min < occStop live day2000)) = true ∧
    ((h.banks[c.bank]).start.any fun x => hasOcc gone x day2000) = false ∧
    (item.occ.bank = c.bank ∧ item.occ.id = c.id) ∧ ({ item with occ := { occ with id := 2 } } : Item).occ.id ≠ c.id ∧
    ((amendStack s.env c gone 0 h).stack[(0 : Tx)]) = [] ∧ (amendDeferral s.env c gone h).deferral = [] ∧
    (((amendStack s.env c { live with prio := 3 } 0 h).stack[(0 : Tx)]).map fun i => i.item.prio) = [3] ∧
    ((amendDeferral s.env c { live with prio := 3 } h).deferral.map fun i => i.item.prio) = [3] ∧
    ((amendStack s.env c { live with tx := 1 } 0 h).stack[(0 : Tx)]) = [] ∧
    ((amendStack s.env c { live with tx := 1 } 0 h).deferral.map fun i => i.item.tx) = [0, 1] ∧
    h.deferral.length + (h.stack[(0 : Tx)]).length ≤ 24 ∧
    ((amendAsg s.env c gone 0 h).asg[(0 : Tx)]).map Asg.phase = some (.ending .withdrawn .nothing) := by decide +kernel

/-- R30 case 3: an AMEND over an assignment on A1, available, FAULTED and claimed by T2; one that ends already. -/
theorem test_meets_ChangeList_amendOutput :
    let s := changing .active .amend 1 false id
    let c : Change := ⟨1, 0, .amend, 1, some live, false, [], [], false⟩
    let faulted : Hall := { s.hall with faults := ⟨[fault .matrixUnknown (.out 0) true 1], 49, false⟩ }
    let phase (h : Hall) : Option Phase := ((amendAsg s.env c live 0 h).asg[(0 : Tx)]).map Asg.phase
    (effective s.env.k (s.hall.holds[(0 : Tx)]) (entryParams live) false).out = 0 ∧
    phase s.hall = some .onAir ∧ blocked faulted (.out 0) = true ∧
    phase faulted = some (.ending .preempted (.defer .outputBlocked)) ∧
    phase (s.hall.setOwner 0 (some 1)) = some (.ending .preempted (.defer .outputBusy)) ∧
    phase (faulted.mapAsg 0 fun a => { a with phase := .ending .completed .nothing }) = some (.ending .completed .nothing) ∧
    (∀ t : Tx, (takeBackStep s.env t s.hall).isNone = true ∧ (endStep s.env t s.hall).isNone = true) ∧
    (changeStep s.env s.hall).isSome = true := by decide +kernel

theorem test_meets_TimeSet :
    timeValue ⟨2100, 1, 1⟩ 0 0 0 = none ∧ timeValue ⟨2000, 1, 1⟩ 0 0 0 = some State.reset.time.clock ∧
    timeValue ⟨2000, 1, 1⟩ 0 0 1 = some (State.reset.time.clock + 10000) ∧
    timeValue ⟨2000, 1, 1⟩ 0 0 2 = some (State.reset.time.clock + 20000) ∧
    (((State.reset.time.clock + 10000 : Nat) : Int) - State.reset.time.clock).natAbs < 2 * ticksPerSec ∧
    2 * ticksPerSec ≤ (((State.reset.time.clock + 20000 : Nat) : Int) - State.reset.time.clock).natAbs ∧
    State.reset.time.absence = none ∧ (time fun t => { t with cstate := .locked }).takes 1 ∧
    (time fun t => { t with cstate := .free }).takes 1 ∧ (time fun t => { t with absence := some 1 }).time.absence ≠ none ∧
    (let s := time fun t => { t with cstate := .free, slew := some 10000 }
     ((State.reset.time.clock + 10000 : Nat) : Int) = s.time.clock + s.time.slew.getD 0) := by
  decide +kernel

theorem test_meets_ClockEvents :
    State.reset.time.cstate = .unset ∧ (time fun t => { t with cstate := .free }).time.cstate ≠ .unset ∧
    (hall fun h => { h with mode := .running }).hall.mode = .running ∧
    (hall fun h => { h with mode := .quiescent }).hall.mode = .quiescent ∧
    (time fun t => { t with slew := some 0 }).time.slew = some 0 ∧ State.reset.time.slew ≠ some 0 ∧
    (time fun t => { t with absence := some 0, cstate := .locked }).time.absence = some 0 ∧ 0 ≤ State.reset.time.now ∧
    (∀ x, State.reset.time.absence = some x → State.reset.time.now < x) := by
  refine ⟨by decide +kernel, by decide +kernel, by decide +kernel, by decide +kernel, by decide +kernel, by decide +kernel,
    by decide +kernel, by decide +kernel, fun x h => nomatch h⟩

/-- An assignment that has stopped, one that has started, and one that goes on; the same for items. -/
theorem test_meets_ClockEvents_engine :
    (let s := onDuty (asg .onAir) id
     ((s.hall.asg[(0 : Tx)]).bind Asg.sched).map Sched.stop = some (occStop live day2000) ∧
       s.env.min < occStop live day2000 ∧ occStart live day2000 ≤ s.env.min) ∧
    (let s := { onDuty (asg .preparing) id with time := { known.time with clock := known.time.clock + 60 * ticksPerMin } }
     occStop live day2000 ≤ s.env.min ∧ (asg .preparing).phase.isEnding = false) ∧
    (asg (.ending .completed .nothing)).phase.isEnding = true ∧ isRad .onAir = true ∧
    ((onDuty (asg .waiting) fun r => { r with st := .unreachable, before := some .onAir }).hall.tx[(0 : Tx)]).before
      = some .onAir ∧
    ((onDuty (asg .waiting) fun r => { r with st := .ready }).hall.tx[(0 : Tx)]).st = .ready ∧
    (onDuty (asg .waiting) id).hall.deferral.length < 24 := by decide +kernel

/-- PULSE about to qualify high. -/
def pulsing (t : TimeBase) : State :=
  { hall (fun h => h.setSense .pulse fun v => { v with raw := true, qual := some false, timer := some (true, 0) }) with time := t }

theorem test_meets_PulseAligns :
    ((pulsing State.reset.time).hall.line .pulse).qual = some false ∧
    ((pulsing State.reset.time).hall.line .pulse).timer = some (true, 0) ∧
    ((pulsing State.reset.time).tables.sense[senseIx .pulse]).mode = .edgeRise ∧
    (pulsing { State.reset.time with lastPulse := some 0, now := 499 }).time.now < 0 + 500 ∧
    State.reset.time.lastPulse = none ∧ State.reset.time.clock % ticksPerSec = 0 ∧
    (let c := State.reset.time.clock + 595000
     c % ticksPerSec = 5000 ∧ (c + (ticksPerSec - c % ticksPerSec)) % ticksPerMin = 0) := by decide +kernel

theorem test_meets_OtherCommandsLeaveTimeBase : Instr.identify 1 ≠ .powerOn ∧ Instr.identify 1 ≠ .slewWorkedOff ∧
    Instr.identify 1 ≠ .pulseAbsenceTimeout ∧ Instr.identify 1 ≠ .qualificationTimerExpiry .pulse := by decide

/-- The cases of R53, a due occurrence, a preemption and what forbids it. -/
theorem test_meets_EngineSet :
    allocCase (work fun h => h.setTx 0 fun r => { r with st := .lockout }).hall 0 0 = .deferred .txBlocked ∧
    allocCase (work fun h => { h.setTx 0 fun r => { r with st := .ready } with
      faults := ⟨[fault .antennaSuspect (.out 0) true 1], 2, false⟩ }).hall 0 0 = .deferred .outputBlocked ∧
    allocCase (work fun h => (h.setTx 0 fun r => { r with st := .ready }).setHold 1 fun d =>
      { d with output := some (0, none) }).hall 0 0 = .deferred .outputBusy ∧
    allocCase (onDuty (asg .onAir) fun r => { r with st := .onAir }).hall 0 0 = .preempt ∧
    allocCase (work fun h => h.setTx 0 fun r => { r with st := .tripped }).hall 0 0 = .busy ∧
    allocCase (work fun h => h.setTx 0 fun r => { r with st := .ready }).hall 0 0 = .create ∧
    (let s := work fun h => h.setTx 0 fun r => { r with st := .ready }
     activeBank s.hall = some 0 ∧ s.env.isSet = true ∧ due s.env s.hall 0 ⟨live, none⟩ day2000 = true ∧
       due s.env s.hall 0 ⟨{ live with days := 0 }, none⟩ day2000 = false ∧
       checkParams s.env.k s.hall 0 (effective s.env.k (s.hall.holds[(0 : Tx)]) (entryParams live) false) = .permitted) ∧
    (let s := { onDuty (asg .onAir) id with tables := { known.tables with excl := [⟨6000, 6000, true, true, true⟩] } }
     checkParams s.env.k s.hall 0 params ≠ .permitted) := by decide +kernel

/-- T2 stands in T1's way at A1, and T1's own assignment does too: lower priority, not ENDING, T2 in contact. -/
theorem test_meets_EngineSet_preemption :
    (let s := work fun h => ((h.setAsg 1 (some { asg .onAir with eff := params })).setOwner 0 (some 1)).setTx 1 fun r =>
       { r with st := .onAir }
     s.hall.path.owner[(0 : Out)] = some 1 ∧ ((s.hall.asg[(1 : Tx)]).map fun a => a.phase.isEnding) = some false ∧
       ((s.hall.asg[(1 : Tx)]).bind Asg.sched).map Sched.prio = some 0 ∧ (s.hall.tx[(1 : Tx)]).st ≠ .unreachable ∧
       (s.hall.tx[(1 : Tx)]).needsLower = true ∧ s.hall.asg[(0 : Tx)] = none) ∧
    ((onDuty (asg .onAir) id).hall.path.owner[(0 : Out)]) = some 0 ∧
    (work fun h => h.setTx 1 fun r => { r with st := .ready }).hall.tx[(1 : Tx)].needsLower = false ∧ 0 < (1 : Nat) := by
  decide +kernel

/-- For each thing the engine does for an assignment, a state in which it does it. -/
theorem test_meets_QuiesceResume_drive :
    (let s := onDuty { asg .preparing with path := .wanted } fun r => { r with st := .cold }
     (driveStep s.env 0 s.hall).isSome = true ∧ s.hall.path.owner[(0 : Out)] = some 0 ∧ frozen s.hall 0 = false) ∧
    (let s := work fun h => h.setAsg 0 (some { asg .preparing with path := .wanted })
     outAvail s.hall 0 0 = true ∧ s.hall.path.owner[(0 : Out)] = none ∧ (driveStep s.env 0 s.hall).isSome = true) ∧
    (let s := work fun h => ((h.setAsg 0 (some (asg .onAir))).setOwner 0 (some 0)).setHold 0 fun d => { d with inhibit := true }
     (driveStep s.env 0 s.hall).isSome = true ∧ muting s.env s.hall 0 = true) ∧
    (let s := onDuty { asg .muted with path := .done } id
     (driveStep s.env 0 s.hall).isSome = true ∧ muting s.env s.hall 0 = false) ∧
    (let s := onDuty { asg .reworking with tune := .wanted } fun r => { r with st := .onAir }
     (driveStep s.env 0 s.hall).isSome = true ∧ (s.hall.tx[(0 : Tx)]).lowerInHand = false ∧ txDefined s.env.k s.hall 0 = true) ∧
    (let s := onDuty { asg .preparing with path := .asked, tune := .wanted } fun r => { r with st := .cold }
     ((driveStep s.env 0 s.hall).bind fun h => (h.tx[(0 : Tx)]).out.map Order.kind) = some .warm) ∧
    (let s := onDuty { asg .reworking with path := .asked, tune := .wanted } fun r => { r with st := .ready }
     ((driveStep s.env 0 s.hall).bind fun h => (h.tx[(0 : Tx)]).out.map Order.kind) = some (.tune 6000 .full (some 1))) ∧
    (let s := onDuty (asg .preparing) fun r => { r with st := .ready }
     ((driveStep s.env 0 s.hall).bind fun h => (h.asg[(0 : Tx)]).map Asg.phase) = some .raising) ∧
    (let s := onDuty { asg .raising with raise := .wanted } fun r => { r with st := .ready }
     ((driveStep s.env 0 s.hall).bind fun h => (h.tx[(0 : Tx)]).out.map Order.kind) = some (.raise 1)) ∧
    (let s := onDuty { asg .onAir with power := true } fun r => { r with st := .onAir, permit := .granted }
     ((driveStep s.env 0 s.hall).bind fun h => (h.tx[(0 : Tx)]).pend.map Order.kind) = some (.raise 1)) := by decide +kernel

/-- An end that waits on its LOWER, one that hands it, and ends that complete. -/
theorem test_meets_QuiesceResume_end :
    let s (st : TxState) (waited : Bool) (o : Option Order) : State :=
      onDuty { asg (.ending .completed .nothing) with lowerOver := waited } fun r => { r with st := st, out := o }
    let ends (s : State) : Bool := (endStep s.env 0 s.hall).isSome
    ends (s .onAir false none) = false ∧ ends (s .onAir true none) = true ∧ ends (s .standby false none) = true ∧
    ((s .onAir false none).hall.tx[(0 : Tx)]).needsLower = true ∧ txDefined known.tables known.hall 0 = true ∧
    (driveStep (s .onAir false none).env 0 (s .onAir false none).hall).isSome = true ∧
    (driveStep (s .onAir false (some (sentOrder .lower))).env 0 (s .onAir false (some (sentOrder .lower))).hall).isNone = true ∧
    (endStep (onDuty (asg .onAir) id).env 0 (onDuty (asg .onAir) id).hall).isNone = true := by decide +kernel

theorem test_meets_QuiesceResume :
    (hall fun h => { h with mode := .running }).takes 1 ∧ (hall fun h => { h with mode := .quiescent }).takes 1 ∧
    State.reset.hall.mode ≠ .running ∧ State.reset.hall.mode ≠ .quiescent := by decide +kernel

/-- R48: the notices, LOWER for what radiates, and an assignment gone at once where nothing does. -/
theorem test_meets_QuiesceResume_notices :
    let g (st : TxState) : Hall :=
      let s := onDuty (asg .raising) fun r => { r with st := st }
      quiesceHall s.env ((s.hall.setStack 0 [⟨item, 0, .preemptedTx⟩]))
    .hall .quiescent .quiesce ∈ (g .ready).emit ∧ .expired occ ∈ (g .ready).emit ∧
    ((g .raising).tx[(0 : Tx)]).lowerInHand = true ∧ (((g .raising).asg[(0 : Tx)]).map Asg.phase) = some (.ending .aborted .nothing) ∧
    ((g .ready).asg[(0 : Tx)]).isNone = true ∧ .assignment 0 (some occ) .aborted false 0 false .nothing ∈ (g .ready).emit := by
  decide +kernel

/-- An item on T1's stack, or in the list, that an allocation run takes, and one that it does not. -/
theorem test_meets_TimeAndEngineReads :
    (let s := work fun h => { (h.setTx 0 fun r => { r with st := .ready }).setStack 0 [⟨item, 0, .preemptedTx⟩] with alloc := true }
     fits s.env.k s.hall ⟨item, true⟩ = true ∧ (runCands s.hall).map RunCand.item = [item] ∧
       ((runStep s.env s.hall).map fun h => (h.asg[(0 : Tx)]).isSome) = some true) ∧
    (let s := work fun h => { h.setTx 0 fun r => { r with st := .tripped } with deferral := [⟨item, .txBusy⟩], alloc := true }
     fits s.env.k s.hall ⟨item, false⟩ = false ∧ ((runStep s.env s.hall).map Hall.alloc) = some false) ∧
    State.reset.hall.mode ≠ .running ∧ (State.reset.hall.stack[(0 : Tx)]).length < 4 ∧ State.reset.hall.deferral.length < 24 ∧
    24 ≤ (List.replicate 24 (⟨item, .txBusy⟩ : DeferItem)).length ∧
    (work fun h => h.setStack 0 (List.replicate 4 ⟨item, 0, .preemptedTx⟩)).hall.stack[(0 : Tx)]
      = [⟨item, 0, .preemptedTx⟩, ⟨item, 0, .preemptedTx⟩, ⟨item, 0, .preemptedTx⟩, ⟨item, 0, .preemptedTx⟩] := by
  decide +kernel

/-- What owes an allocation run, and what does not. -/
theorem test_meets_TimeAndEngineReads_owed :
    (let s := work fun h => { h.setTx 0 id with alloc := false }
     (s.hall.stack[(0 : Tx)]).length < 4 ∧ (pushStack s.env 0 item .preemptedTx s.hall).alloc = false ∧
       (setTxState 0 .cold .condition s.hall).alloc = true ∧
       (setTxState 0 .cold .condition (setTxState 0 .ready .condition s.hall)).alloc = true ∧
       (setTxState 0 .lockout .condition s.hall).alloc = false) ∧
    (let s := onDuty (asg .onAir) fun r => { r with st := .onAir }
     (setTxState 0 .cold .condition { s.hall with alloc := false }).alloc = false) := by decide +kernel

/-- T1's idle timer has run out. -/
def idled (tag : Bool) (cool : Nat) : State :=
  let s := txed fun r => { r with st := .standby }
  { s with tables := { s.tables with cool := cool }
           hall := { s.hall.setIdle 0 (.running 0) with
             deferral := if tag then [⟨⟨⟨0, 1, 0⟩, 0, 0, 0, 0, 0, false⟩, .txBusy⟩] else [] } }

theorem test_meets_EngineSet_idle :
    idleDue State.reset.env State.reset.hall 0 = false ∧ idleDue (idled true 60).env (idled true 60).hall 0 = true ∧
    itemNames (idled true 60).hall 0 = true ∧ (idled true 60).tables.cool ≠ 0 ∧ (idled true 0).tables.cool = 0 ∧
    itemNames (idled false 60).hall 0 = false ∧ ((idled false 60).hall.tx[(0 : Tx)]).st = .standby ∧
    ((idled false 60).hall.tx[(0 : Tx)]).out = none := by decide +kernel

/-- R74: a start in STANDBY, none with a cool delay run out, a stop in LOCKOUT and for an assignment, and COLD with a COOL in
hand; a settled hall. -/
theorem test_meets_EngineSet_timers :
    let s (f : Hall → Hall) (x : TxState) (o : Option Order) : State := work fun h => f (h.setTx 0 fun r => { r with st := x, out := o })
    let moves (s : State) : Option Idle := (idleStep s.env 0 s.hall).map fun h => h.idle[(0 : Tx)]
    let runs (h : Hall) : Hall := h.setIdle 0 (.running 5)
    moves (s id .standby none) = some (.running (known.time.now + known.tables.cool * 60000)) ∧
    moves (s (fun h => h.setIdle 0 .spent) .standby none) = none ∧ moves (s runs .lockout none) = some .stopped ∧
    moves (s (fun h => (runs h).setAsg 0 (some (asg .preparing))) .standby none) = some .stopped ∧
    moves (s runs .cold (some (sentOrder .cool))) = none ∧ moves (s runs .cold none) = some .stopped ∧
    (nextRule State.reset.env State.reset.hall).isNone = true := by decide +kernel

/-! ### Witnesses: frequency check -/

theorem test_meets_ExclusionEdits :
    (tables fun k => { k with lock := true }).tables.lock = true ∧ State.reset.tables.lock = false ∧
    16 ≤ (List.replicate 16 (⟨2300, 2300, true, true, true⟩ : Exclusion)).length ∧ State.reset.tables.excl.length < 16 ∧
    ¬ (([] : List (Option Mode)) ≠ []) ∧ ¬ 2300 ≤ 2299 ∧
    ([some Mode.full] : List (Option Mode)).Nodup ∧ none ∉ [some Mode.full] ∧
    0 < (tables fun k => { k with excl := [⟨2300, 2300, true, true, true⟩] }).tables.excl.length := by decide +kernel

/-- The sweep of a table edit takes a SCHEDULE and a FOREIGN assignment of a frequency now excluded. -/
theorem test_meets_ExclusionEdits_sweep :
    let f (s : Option Sched) (p : Params) : Asg := { asg .waiting with sched := s, eff := p }
    let s := { work (fun h => ((h.setAsg 0 (some (f none params))).setAsg 1 (some (f (asg .waiting).sched params))).setAsg 2
      (some (f none { params with freq := 7000 }))) with tables := { known.tables with
        excl := [⟨6000, 6000, true, true, true⟩]
        txs := known.tables.txs.map fun d : TxDef => { d with defined := true } } }
    (checkParams s.env.k s.hall 0 params ≠ .permitted) ∧
    (checkParams s.env.k s.hall 2 { params with freq := 7000 } = .permitted) ∧
    ((sweep s.env s.hall).faults.recs.map FaultRec.kind) = [.excludedAtAdmission, .foreignCarrier] ∧
    (sweep s.env s.hall).asg[(0 : Tx)] = none ∧ (sweep s.env s.hall).asg[(1 : Tx)] = none ∧
    ((sweep s.env s.hall).asg[(2 : Tx)]).isSome = true := by decide +kernel

theorem test_meets_OutputEdits :
    (known.tables.outs[(0 : Out)]).slewable = false ∧ slewableCount known.tables < 8 ∧ outInUse known.hall 0 = false ∧
    slewSlot known.hall 0 = none ∧ (known.tables.outs[(0 : Out)]).defined = true ∧
    (State.reset.tables.outs[(0 : Out)]).defined = false ∧
    outInUse (hall fun h => h.setOwner 0 (some 0)).hall 0 = true ∧
    8 ≤ slewableCount (tables fun k => { k with outs := tab 28 { OutDef.default with slewable := true } }).tables ∧
    ((tables fun k => { k with outs := tab 28 { OutDef.default with slewable := true } }).tables.outs[(0 : Out)]).slewable
      = true := by decide +kernel

/-- Eight records hold the eight lines, seven outputs slewable; with seven held the eighth line is the lowest free one. -/
theorem test_meets_OutputEdits_lines :
    let full (n : Nat) : Hall := (allOut.take n).foldl (fun h o => h.setPos o (some { posRec none with
      line := Fin.ofNat 8 o.val, gone := true })) State.reset.hall
    freeLine (full 8) = none ∧ freeLine (full 7) = some 7 ∧ (full 7).path.pos[(20 : Out)] = none ∧
    slewableCount State.reset.tables < 8 ∧ outInUse (full 8) 20 = false := by decide +kernel

theorem test_meets_CheckAnswers :
    ¬ (2300 ≤ 2299 ∧ 2299 ≤ 26100) ∧ (State.reset.tables.outs[(0 : Out)]).defined ≠ true ∧
    (known.tables.outs[(0 : Out)]).defined = true ∧ (known.tables.outs[(0 : Out)]).low ≤ 26100 ∧
    (known.tables.outs[(0 : Out)]).rating < 2 ∧ txDefined State.reset.tables State.reset.hall 0 = false ∧
    txDefined known.tables known.hall 0 = true ∧ 1 ≤ (known.tables.txs[(0 : Tx)]).rating ∧ known.tables.excl = [] := by
  decide +kernel

/-- R88: a value outside its written form reaches the check, which answers RANGE. -/
theorem test_check_line : parseLine "#1 CHECK FREQUENCY=abc MODE=FULL OUTPUT=A1 POWER=1*0000".toList
    = .check 1 none (some .full) (some 0) (some 1) none := by decide +kernel

theorem test_meets_CheckAnswers_host : ¬ (2300 ≤ 26101 ∧ 26101 ≤ 26100) ∧ ¬ (1 ≤ 1001 ∧ 1001 ≤ 1000) ∧ 2300 ≤ 26100 := by decide

theorem test_meets_TablesOnlyEdited :
    editsTables (.identify 1) = false ∧ (tables fun k => { k with lock := true }).takes 1 ∧
    (tables fun k => { k with lock := true }).tables.lock = true ∧
    ∃ t, exec (.identify 1) State.reset = .next t := ⟨by decide, by decide +kernel, by decide +kernel, _, rfl⟩

/-! ### Witnesses: matrix and positioners -/

theorem test_meets_ColumnReportStores :
    (State.reset.hall.path.cols[(0 : Out)]).adopt = some ⟨0, some 2000⟩ ∧
    ((hall fun h => h.setCol 0 fun _ => ⟨false, none, some ⟨0, some 2000⟩⟩).hall.path.cols[(0 : Out)]).clear
      = some ⟨0, some 2000⟩ ∧
    ((hall fun h => h.setCol 0 fun _ => ⟨false, none, some ⟨0, some 2000⟩⟩).hall.path.cols[(0 : Out)]).adopt = none := by
  decide +kernel

/-- Pairs of a report: T1 as given, every other row broken. -/
def rows (c : Contacts) : Vector Contacts 12 := (Vector.replicate 12 ⟨false, true⟩).set 0 c

/-- Rows of a report against their records: UNKNOWN kept; broken; made beside another crosspoint and alone; disagreeing. -/
theorem test_meets_ColumnReportStores_rows :
    (∀ t : Tx, throwOf State.reset.hall t 0 = none) ∧
    (State.reset.hall.path.cols[(0 : Out)]).clear = none ∧
    ((hall fun h => h.setCol 0 fun _ => ⟨true, none, none⟩).hall.path.cols[(0 : Out)]).adopt = none ∧
    xst (hall fun h => h.setXpt 0 0 fun c => { c with st := .unknown }).hall 0 0 = .unknown ∧
    xst (hall fun h => h.setXpt 0 0 fun c => { c with st := .closed }).hall 0 0 = .closed ∧
    xst (hall fun h => h.setXpt 0 1 fun c => { c with st := .closed }).hall 0 1 ≠ .opened ∧
    xst State.reset.hall 0 0 = .opened ∧ readPair ⟨true, false⟩ = .made ∧ readPair ⟨false, true⟩ = .broken ∧
    readPair ⟨true, true⟩ = .disagreeing ∧ readPair ⟨false, false⟩ = .disagreeing ∧
    (let s := hall fun h => (h.setXpt 0 0 fun c => { c with st := .closed }).setTx 0 fun r => { r with st := .onAir }
     let h := restRow s.env 0 (rows ⟨false, true⟩) 0 s.hall
     xst h 0 0 = .unknown ∧ (h.tx[(0 : Tx)]).st = .lockout ∧ madeOut s.hall 0 = some 0 ∧ isRad .onAir = true) := by
  decide +kernel

/-- A CLOSED crosspoint of a later row counts against an earlier one, but where the report reads that row too. -/
theorem test_meets_ColumnReportStores_later :
    let h := (hall fun h => h.setXpt 1 0 fun c => { c with st := .closed }).hall
    xst h 1 0 = .closed ∧ readConflict h [0] 0 0 = true ∧ readConflict h allTx 0 0 = false := by decide +kernel

/-- A throw of T1/A1 under way, with nothing to read. -/
def throwing (k : MotionKind) : State :=
  { slotted k false with hall := (slotted k false).hall.setCol 0 fun _ => ⟨true, none, none⟩ }

theorem test_meets_ThrowCompletes :
    ((throwing (.make 0 0)).hall.path.cols[(0 : Out)]).adopt = none ∧
    ((throwing (.make 0 0)).hall.path.cols[(0 : Out)]).clear = none ∧
    throwOf (throwing (.make 0 0)).hall 0 0 = some ⟨⟨.make 0 0, 1, [0]⟩, 0, 0, false⟩ ∧
    throwOf (throwing (.brk 0 0)).hall 0 0 = some ⟨⟨.brk 0 0, 1, [0]⟩, 0, 0, false⟩ ∧
    (∀ u : Tx, u ≠ 0 → throwOf (throwing (.make 0 0)).hall u 0 = none ∧ xst (throwing (.make 0 0)).hall u 0 = .opened ∧
      readPair (rows ⟨true, false⟩)[u] = .broken) ∧
    readPair (rows ⟨true, false⟩)[(0 : Tx)] = .made ∧ readPair (rows ⟨false, true⟩)[(0 : Tx)] = .broken := by
  decide +kernel

/-- R97: an unclaimed output that a MAKE leaves PARKED hands nothing; one that a BREAK leaves FREE hands output-available. -/
theorem test_output_available_on_change :
    (let h := ((throwing (.make 0 0)).hall.setXpt 0 0 fun x => { x with st := .closing })
     outState h 0 = .parked ∧ (xptChange 0 0 .closed .throw false { h with alloc := false }).alloc = false) ∧
    (let h := ((throwing (.brk 0 0)).hall.setXpt 0 0 fun x => { x with st := .opening })
     outState h 0 = .parked ∧ (xptChange 0 0 .opened .throw false { h with alloc := false }).alloc = true) := by
  decide +kernel

/-- A READ of column A1, of adoption or of a fault clear, sent with its limit at 0. -/
def reading (adopt : Bool) (misses : Nat) : State :=
  hall fun h => { h.setCol 0 fun _ =>
    ⟨false, if adopt then some ⟨misses, some 0⟩ else none, if adopt then none else some ⟨misses, some 0⟩⟩ with
    clear := some ⟨1, 1, .matrixUnknown, 0⟩ }

theorem test_meets_ReadTimeout :
    ((reading true 1).hall.path.cols[(0 : Out)]).adopt = some ⟨1, some 0⟩ ∧
    ((reading true 2).hall.path.cols[(0 : Out)]).adopt = some ⟨2, some 0⟩ ∧
    ((reading false 1).hall.path.cols[(0 : Out)]).clear = some ⟨1, some 0⟩ ∧
    ((reading false 2).hall.path.cols[(0 : Out)]).clear = some ⟨2, some 0⟩ ∧
    (reading false 2).hall.clear = some ⟨1, 1, .matrixUnknown, 0⟩ ∧
    (State.reset.hall.path.cols[(0 : Out)]).adopt = some ⟨0, some 2000⟩ ∧ State.reset.time.now < 2000 := by decide +kernel

theorem test_meets_ThrowTimeout :
    lateThrow State.reset.env (slotted (.make 0 0) false).hall 0 0 = some ⟨⟨.make 0 0, 1, [0]⟩, 0, 0, false⟩ ∧
    lateThrow State.reset.env (slotted (.make 0 0) true).hall 0 0 = some ⟨⟨.make 0 0, 1, [0]⟩, 0, 0, true⟩ ∧
    lateThrow State.reset.env State.reset.hall 0 0 = none := by decide +kernel

/-- A motion queued, with T1's sequence holding its granted permit. -/
def queued (k : MotionKind) : State :=
  hall fun h => (((h.setQueue [⟨k, 1, [0]⟩]).setTx 0 fun r => { r with permit := .granted }).setSeq 0 fun q =>
    { q with wants := [0] }).setPos 0 (some (posRec none))

theorem test_meets_GrantsAreSafe :
    (grantStep (queued (.make 0 0)).env (queued (.make 0 0)).hall).isSome = true ∧
    (grantStep (queued (.brk 0 0)).env (queued (.brk 0 0)).hall).isSome = true ∧
    (grantStep (queued (.slew 0 0)).env (queued (.slew 0 0)).hall).isSome = true := by decide +kernel

/-- T1's sequence at a stage with target A1, and a crosspoint elsewhere in its row. -/
def sequence (st : SeqStage) (x : XState) (f : Hall → Hall) : State :=
  work fun h => f (((h.setSeq 0 fun _ => ⟨st, some ⟨0, none, 0⟩, [0], none⟩).setXpt 0 1 fun c => { c with st := x }).setTx 0
    fun r => { r with permit := .granted })

theorem test_meets_GrantsAreSafe_requests :
    presetUndefined (sequence .idle .opened id).hall ⟨0, none, 0⟩ = false ∧
    presetUndefined (posed (posRec none)).hall ⟨0, some 0, 0⟩ = true ∧
    pathBlocked (sequence .idle .opened id).hall 0 0 = false ∧ pathBlocked (sequence .idle .unknown id).hall 0 0 = true ∧
    pathMade known.tables (sequence .idle .opened id).hall 0 ⟨0, none, 0⟩ = false ∧
    pathMade known.tables (sequence .idle .closed id).hall 0 ⟨1, none, 0⟩ = true ∧
    grantedOf (sequence .breaking .opening fun h => h.setSlot 0 (some ⟨⟨.brk 0 1, 1, [0]⟩, 0, 0, false⟩)).hall 0
      = [⟨.brk 0 1, 1, [0]⟩] ∧
    grantedOf (sequence .breaking .closed id).hall 0 = [] := by decide +kernel

theorem test_meets_GrantsAreSafe_steps :
    (let s := sequence .settling .closed id
     ((seqStep s.env 0 s.hall).map fun h => (h.path.seqs[(0 : Tx)]).stage) = some .permits) ∧
    (let s := sequence .settling .closed fun h => h.setSlot 0 (some ⟨⟨.brk 0 1, 1, []⟩, 0, 0, false⟩)
     settled s.hall 0 0 = false ∧ outState s.hall 0 ≠ .faulted ∧ (seqStep s.env 0 s.hall).isNone = true) ∧
    (let s := sequence .settling .unknown id
     ((seqStep s.env 0 s.hall).map fun h => (h.path.seqs[(0 : Tx)]).stage) = some .idle) ∧
    (let s := sequence .permits .closed id
     ((seqStep s.env 0 s.hall).map fun h => (h.path.queue.map Motion.kind, (h.path.seqs[(0 : Tx)]).stage))
       = some ([.brk 0 1], .breaking)) ∧
    (let s := sequence .permits .closed fun h => h.setTx 0 fun r => { r with permit := .requested }
     (seqStep s.env 0 s.hall).isNone = true) ∧
    (let s := sequence .breaking .opened id
     ((seqStep s.env 0 s.hall).map fun h => (h.path.seqs[(0 : Tx)]).stage) = some .making) ∧
    (let s := sequence .breaking .closed fun h => h.setQueue [⟨.brk 0 1, 1, [0]⟩]
     (queuedOf s.hall 0).length = 1 ∧ (seqStep s.env 0 s.hall).isNone = true) ∧
    (let s := sequence .making .opened id
     ((seqStep s.env 0 s.hall).map fun h => h.path.queue.map Motion.kind) = some [.make 0 0]) ∧
    (let s := sequence .making .opened fun h => h.setXpt 0 0 fun c => { c with st := .closed }
     ((seqStep s.env 0 s.hall).map fun h => (h.path.seqs[(0 : Tx)]).stage) = some .idle) ∧
    (let k := { known.tables with outs := upd known.tables.outs 0 fun d => { d with slewable := true } }
     let s := { sequence .making .opened (fun h => ((h.setXpt 0 0 fun c => { c with st := .closed }).setSeq 0 fun q =>
       { q with target := some ⟨0, some 0, 0⟩ }).setPos 0 (some (posRec none))) with tables := k }
     slewWanted k s.hall ⟨0, some 0, 0⟩ = true ∧
       ((seqStep s.env 0 s.hall).map fun h => h.path.queue.map Motion.kind) = some [.slew 0 0]) ∧
    (let s := sequence .redirecting .closed id
     ((seqStep s.env 0 s.hall).map fun h => (h.path.seqs[(0 : Tx)]).stage) = some .settling) ∧
    (let s := sequence .cancelling .closed fun h => h.setSeq 0 fun q => { q with next := some ⟨1, none, 0⟩ }
     ((seqStep s.env 0 s.hall).map fun h => (h.path.seqs[(0 : Tx)]).target) = some (some ⟨1, none, 0⟩)) ∧
    (let s := sequence .cancelling .closed id
     ((seqStep s.env 0 s.hall).map fun h => (h.path.seqs[(0 : Tx)]).stage) = some .idle) := by decide +kernel

/-- No slot free; the class before the order of arrival; a request of a frozen transmitter alone; a motion joined. -/
theorem test_meets_GrantsAreSafe_order :
    (let s := queued (.make 0 0)
     let full : Hall := { s.hall with path := { s.hall.path with
       slots := s.hall.path.slots.map fun _ => some ⟨⟨.make 5 5, 9, [5]⟩, 0, 0, false⟩ } }
     (grantStep s.env full).isNone = true ∧ ∀ i : Fin 4, full.path.slots[i] ≠ none) ∧
    (let s := queued (.make 0 0)
     let h := (s.hall.setQueue [⟨.brk 1 1, 1, [1]⟩, ⟨.make 0 0, 2, [0]⟩]).setTx 1 fun r => { r with permit := .granted }
     let h := h.setSeq 0 fun q => { q with target := some ⟨0, none, 2⟩ }
     motionClass h ⟨.brk 1 1, 1, [1]⟩ < motionClass h ⟨.make 0 0, 2, [0]⟩ ∧
       ((grantStep s.env h).map fun g => g.path.queue.map Motion.kind) = some [.brk 1 1]) ∧
    (let s := queued (.brk 0 0)
     let h := { s.hall with changes := [⟨1, 0, .withdraw, 1, none, true, [0], [], false⟩] }
     (grantStep s.env h).isNone = true) ∧
    (let s := queued (.brk 0 0)
     ((joinOrQueue 1 (.brk 0 0) s.hall).path.queue.map Motion.waiters) = [[0, 1]]) ∧
    (let s := slotted (.brk 0 0) false
     (((joinOrQueue 1 (.brk 0 0) s.hall).path.slots[(0 : Fin 4)]).map fun x => x.motion.waiters) = some [0, 1] ∧
       (joinOrQueue 1 (.brk 0 0) s.hall).path.queue = []) := by decide +kernel

theorem test_meets_PositionerEdits :
    State.reset.hall.path.pos[(0 : Out)] = none ∧
    (posed (posRec none)).hall.path.pos[(0 : Out)] = some (posRec none) ∧ (posed (posRec none)).takes 1 ∧
    lineHolder (posed (posRec none)).hall 0 = some 0 ∧ slewSlot (posed (posRec none)).hall 0 = none ∧
    (∀ u : Out, ((posed (posRec none)).hall.path.pos[u]).all fun q => decide (q.line ≠ 1)) ∧
    lineHolder (hall fun h => (h.setPos 0 (some (posRec none))).setPos 1 (some { posRec none with line := 1 })).hall 1
      = some 1 ∧
    (posed (posRec (some ⟨0, 0, none, none, false⟩))).hall.path.pos[(0 : Out)]
      = some (posRec (some ⟨0, 0, none, none, false⟩)) ∧
    (posed { posRec none with st := .parked (some 15) }).hall.path.pos[(0 : Out)]
      = some { posRec none with st := .parked (some 15) } ∧
    (posed (posRec none)).hall.path.queue = [] := by decide +kernel

/-- A1's slew to preset 0, whose azimuth is 90. -/
def slewing (hot : Bool) : State :=
  { slotted (.slew 0 0) hot with
    hall := (slotted (.slew 0 0) hot).hall.setPos 0 (some { posRec none with presets := (tab 16 none).set 0 (some 90) }) }

theorem test_meets_PositionerReports :
    lineHolder State.reset.hall 0 = none ∧ lineHolder (posed (posRec none)).hall 0 = some 0 ∧
    (posed (posRec (some ⟨0, 0, some 0, none, false⟩))).hall.path.pos[(0 : Out)]
      = some (posRec (some ⟨0, 0, some 0, none, false⟩)) ∧
    lineHolder (slewing false).hall 0 = some 0 ∧
    slewSlot (slewing false).hall 0 = some ⟨⟨.slew 0 0, 1, [0]⟩, 0, 0, false⟩ ∧
    ((slewing false).hall.path.pos[(0 : Out)]).bind (fun p => p.preset 0) = some 90 ∧
    slewSlot (posed (posRec none)).hall 0 = none ∧ (posRec none).preset 0 ≠ some 91 ∧
    (posed { posRec none with az := some 5 }).hall.path.pos[(0 : Out)] = some { posRec none with az := some 5 } ∧
    slewSlot (slewing true).hall 0 = some ⟨⟨.slew 0 0, 1, [0]⟩, 0, 0, true⟩ := by decide +kernel

theorem test_meets_PositionerTimeouts :
    (posed (posRec (some ⟨0, 1, some 0, none, false⟩))).hall.path.pos[(0 : Out)]
      = some (posRec (some ⟨0, 1, some 0, none, false⟩)) ∧
    (posed (posRec (some ⟨0, 2, some 0, none, false⟩))).hall.path.pos[(0 : Out)]
      = some (posRec (some ⟨0, 2, some 0, none, false⟩)) ∧
    (posed (posRec (some ⟨0, 0, none, some 0, false⟩))).hall.path.pos[(0 : Out)]
      = some (posRec (some ⟨0, 0, none, some 0, false⟩)) ∧
    0 + ((359 + 3 - 1) / 3 + 20) * 1000 ≤ (time fun t => { t with now := 140000 }).time.now ∧
    (hall fun h => { h.setPos 0 (some (posRec (some ⟨0, 2, some 0, none, true⟩))) with
      clear := some ⟨1, 1, .positionerStall, 0⟩ }).hall.clear = some ⟨1, 1, .positionerStall, 0⟩ ∧
    (posed (posRec (some ⟨0, 2, some 0, none, true⟩))).hall.path.pos[(0 : Out)]
      = some (posRec (some ⟨0, 2, some 0, none, true⟩)) ∧
    slewSlot (slewing false).hall 0 = some ⟨⟨.slew 0 0, 1, [0]⟩, 0, 0, false⟩ ∧
    slewSlot (slewing true).hall 0 = some ⟨⟨.slew 0 0, 1, [0]⟩, 0, 0, true⟩ := by decide +kernel

/-! ### Witnesses: transmitters -/

theorem test_meets_TransmitterTable :
    (State.reset.tables.txs[(0 : Tx)]).defined = false ∧ (State.reset.hall.tx[(0 : Tx)]).undef = false ∧
    (State.reset.hall.tx[(0 : Tx)]).st = .absent ∧ (known.tables.txs[(0 : Tx)]).defined = true ∧
    ((txed fun r => { r with st := .cold }).hall.tx[(0 : Tx)]).st ≠ .absent ∧
    rfpActive known.env known.hall 0 = true ∧
    (let s := { known with hall := (known.hall.setTx 0 fun r => { r with st := .cold }).setSense (.rfp 0) fun v =>
       { v with qual := some false } }
     txInUse s.env s.hall 0 = false) := by decide +kernel

/-- R156: undefine pending waits for the output's RFP, and then ends ABSENT. -/
theorem test_meets_TransmitterTable_undefine :
    let s (rfp : Bool) : State := work fun h => (h.setTx 0 fun r => { r with st := .cold, undef := true }).setSense (.rfp 0) fun v =>
      { v with qual := some rfp }
    let gone (s : State) : Option (TxState × Bool) :=
      (undefStep s.env 0 s.hall).map fun h => ((h.tx[(0 : Tx)]).st, (h.tx[(0 : Tx)]).undef)
    gone (s true) = none ∧ gone (s false) = some (.absent, false) := by decide +kernel

theorem test_meets_CabinetSlot :
    (known.hall.tx[(0 : Tx)]).exch = none ∧ (known.hall.tx[(0 : Tx)]).lastNo = none ∧
    (State.reset.tables.txs[(0 : Tx)]).defined = false ∧ (known.hall.tx[(0 : Tx)]).out = none ∧
    (known.hall.tx[(0 : Tx)]).pend = none ∧ rfpActive known.env known.hall 0 = true ∧
    (sentOrder .warm).sentAt = some 0 ∧ (sentOrder .warm).answered = false ∧ (sentOrder .warm).no = some 1 ∧
    (Order.mk0 .warm true false).sentAt = none ∧ (Order.mk0 .warm true false).since = none ∧
    orderListed .warm .cold = true ∧ orderListed (.raise 1) .ready = true ∧
    (let s := { known with hall := ((known.hall.setSense .estop id).setSense (.door 0) fun v =>
       { v with qual := some false }) }
     raiseHeld s.env s.hall 0 = false) ∧
    (let s := txed fun r => { r with lastNo := some 255, resend := true }
     (s.hall.tx[(0 : Tx)]).resend = true ∧ (s.hall.tx[(0 : Tx)]).lastNo = some 255 ∧ rfpActive s.env s.hall 0 = true) ∧
    (let s := txed fun r => { r with lastNo := some 1, out := some { sentOrder .warm with answered := true } }
     (s.hall.tx[(0 : Tx)]).out = some { sentOrder .warm with answered := true }) := by decide +kernel

/-- In UNREACHABLE a LOWER goes at the slot, a pending WARM polls and one to be sent becomes the pending one; a RAISE that is held
polls; a LOWER that was declined keeps its first sending. -/
theorem test_meets_CabinetSlot_lower :
    let s (st : TxState) (out pend : Option Order) : State :=
      txed fun r => { r with st := st, lastNo := some 1, out := out, pend := pend }
    let sends (s : State) : Option CabMsg × Option OrderKind × Option OrderKind :=
      let r := (cabinetSlot 0 s.env s.hall).tx[(0 : Tx)]
      (r.exch.map Exchange.msg, r.out.map Order.kind, r.pend.map Order.kind)
    let o (k : OrderKind) : Option Order := some (Order.mk0 k true false)
    let again : Order := { Order.mk0 .lower true false with since := some 0, timeout := 5 }
    rfpActive known.env known.hall 0 = true ∧
    sends (s .unreachable (o .lower) none) = (some (.order .lower 2), some .lower, none) ∧
    sends (s .unreachable none (o .lower)) = (some (.order .lower 2), some .lower, none) ∧
    sends (s .unreachable none (o .warm)) = (some .poll, none, some .warm) ∧
    sends (s .unreachable (o .warm) none) = (some .poll, none, some .warm) ∧
    raiseHeld known.env (s .ready none (o (.raise 1))).hall 0 = true ∧ orderListed (.raise 1) .ready = true ∧
    sends (s .ready none (o (.raise 1))) = (some .poll, none, some (.raise 1)) ∧
    (((cabinetSlot 0 known.env (s .onAir (some again) none).hall).tx[(0 : Tx)]).out.map fun o => (o.since, o.timeout))
      = some (some 0, 5) := by decide +kernel

/-- R145: LOWER goes again at a slot where a held RAISE, or in UNREACHABLE a WARM to be sent, stays pending. -/
theorem test_meets_CabinetSlot_resend :
    let sends (st : TxState) (o p : Option Order) : Option CabMsg × Option OrderKind × Option OrderKind :=
      let s := txed fun r => { r with st := st, lastNo := some 1, resend := true, out := o, pend := p }
      let r := (cabinetSlot 0 s.env s.hall).tx[(0 : Tx)]
      (r.exch.map Exchange.msg, r.out.map Order.kind, r.pend.map Order.kind)
    sends .ready none (some (Order.mk0 (.raise 1) true false)) = (some (.order .lower 2), none, some (.raise 1)) ∧
    sends .unreachable (some (Order.mk0 .warm true false)) none = (some (.order .lower 2), none, some .warm) := by decide +kernel

/-- T1 in contact with an order outstanding and an exchange in progress. -/
def asked (k : OrderKind) (st : TxState) : State :=
  { txed fun r => { r with exch := poll, contact := true, st := st, out := some (sentOrder k) } with
    hall := { (txed fun r => { r with exch := poll, contact := true, st := st, out := some (sentOrder k) }).hall with
      mode := .running } }

theorem test_meets_CabinetReply_declined :
    (∀ k ∈ [OrderKind.cool, .lower, .warm, .tune 6000 .full none, .raise 1, .clearTrip],
      ((asked k .onAir).hall.tx[(0 : Tx)]).out = some (sentOrder k) ∧ (sentOrder k).no = some 1 ∧
      (asked k .onAir).hall.mode ≠ .adopting ∧ ((asked k .onAir).hall.tx[(0 : Tx)]).st = .onAir) ∧
    (let s := asked (.raise 1) .raising
     (match exec (.cabinetReply 0 ⟨.tripped .arc, false, some (.declined .state), some 1⟩) s with
       | .next t => ((t.hall.tx[(0 : Tx)]).st, (t.hall.tx[(0 : Tx)]).window.length)
       | _ => (.absent, 0)) = (.tripped, 1)) := by decide +kernel

theorem test_meets_CabinetReply :
    ((txed fun r => { r with exch := poll }).hall.tx[(0 : Tx)]).exch ≠ none ∧
    ({ txed (fun r => { r with exch := poll, contact := true, st := .standby }) with
        hall := { (txed fun r => { r with exch := poll, contact := true, st := .standby }).hall with mode := .running } } :
      State).hall.mode ≠ .adopting ∧
    condState .standby = .standby ∧ completes .warm .standby = true ∧ completes .cool .standby = false ∧
    completes (.raise 100) (.on 6000 .full 95) = true ∧ OrderKind.isTune .cool = false ∧
    sentState .cool .standby = .cold ∧ condIsRad .cold = false := by decide +kernel

/-- R147: a carrier lost on air, by a reply other than TRIPPED. -/
theorem test_meets_CabinetReply_lost :
    let s := { txed (fun r => { r with exch := poll, contact := true, st := .onAir, raiseKw := some 1 }) with
      hall := { (txed fun r => { r with exch := poll, contact := true, st := .onAir, raiseKw := some 1 }).hall with
        mode := .running } }
    (s.hall.tx[(0 : Tx)]).out = none ∧ (s.hall.tx[(0 : Tx)]).pend = none ∧ condIsRad .standby = false ∧
    (match exec (.cabinetReply 0 ⟨.standby, false, none, none⟩) s with
      | .next t => ((t.hall.tx[(0 : Tx)]).st, (t.hall.tx[(0 : Tx)]).out.map fun o => (o.kind, o.again))
      | _ => (.absent, none)) = (.raising, some (.raise 1, true)) := by decide +kernel

/-- T1 in contact in a state, with an exchange in progress; what a reply leaves of the state, the order in hand and the records. -/
def replied (st : TxState) (o : Option Order) (f : TxRec → TxRec) (c : Cond) (loc : Bool) :
    TxState × Option OrderKind × List FaultKind :=
  let s := txed fun r => f { r with exch := poll, contact := true, st := st, out := o }
  let h := cabinetReply 0 ⟨c, loc, none, some 1⟩ s.env { s.hall with mode := .running }
  ((h.tx[(0 : Tx)]).st, (h.tx[(0 : Tx)]).out.map Order.kind, h.faults.recs.map FaultRec.kind)

/-- R147: the conditions of each row, with no order in hand. -/
theorem test_meets_CabinetReply_rows :
    let on : Cond := .on 6000 .full 1
    replied .onAir none id on false = (.onAir, none, []) ∧
    replied .ready none id on false = (.ready, some .lower, [.rfUnexpected]) ∧
    replied .ready none id .standby false = (.standby, none, []) ∧
    replied .ready none id (.tripped .arc) false = (.tripped, some .clearTrip, []) ∧
    replied .lowering none id (.lowering 6000 .full 1) false = (.lowering, none, []) ∧
    replied .lowering none id on false = (.lowering, some .lower, []) ∧
    replied .lowering none id .standby false = (.standby, none, []) := by decide +kernel

/-- R147, R171, R174: TRIPPED and LOCKOUT, the local flag, and a regain. -/
theorem test_meets_CabinetReply_rows_others :
    let on : Cond := .on 6000 .full 1
    let waits (r : TxRec) : TxRec := { r with rcv := { r.rcv with stage := .waiting } }
    replied .tripped none id (.tripped .arc) false = (.tripped, none, []) ∧
    replied .tripped none id on false = (.tripped, some .lower, [.rfUnexpected]) ∧
    replied .tripped none id .standby false = (.standby, none, []) ∧
    replied .tripped none waits .standby false = (.tripped, none, []) ∧
    replied .lockout none id on false = (.lockout, some .lower, [.rfUnexpected]) ∧
    replied .lockout none id .standby false = (.lockout, none, []) ∧
    replied .isLocal none id .standby false = (.standby, none, []) ∧
    replied .onAir none id on true = (.isLocal, none, [.localTakeover]) := by decide +kernel

/-- R138: regained with the carrier or trip that was its own before the loss, with one that was not, and without one. -/
theorem test_meets_CabinetReply_regain :
    let on : Cond := .on 6000 .full 1
    let lost (b : TxState) (r : TxRec) : TxRec := { r with contact := false, before := some b }
    replied .unreachable none (lost .onAir) on false = (.onAir, none, []) ∧
    replied .unreachable none (lost .standby) on false = (.lowering, some .lower, [.rfUnexpected]) ∧
    replied .unreachable none (lost .onAir) (.tripped .arc) false = (.tripped, none, [.trip]) ∧
    replied .unreachable none (lost .standby) (.tripped .arc) false = (.tripped, some .clearTrip, []) ∧
    replied .unreachable none id .standby false = (.standby, none, []) := by decide +kernel

/-- R143, R144, R145, R170: orders that a condition ends otherwise than by completing them, and CLEAR-TRIP. -/
theorem test_meets_CabinetReply_orders :
    let sent (k : OrderKind) (f : Order → Order) : Option Order := some (f (sentOrder k))
    let tune : OrderKind := .tune 6000 .full none
    replied .tripped (sent .clearTrip id) id .standby false = (.standby, none, []) ∧
    replied .lowering (sent .lower fun o => { o with byTrip := true }) id (.tripped .arc) false = (.tripped, none, []) ∧
    replied .lowering (sent .lower id) id (.tripped .arc) false = (.tripped, some .clearTrip, [.trip]) ∧
    replied .raising (sent (.raise 1) id) id (.tripped .arc) false = (.tripped, none, [.trip]) ∧
    replied .tripped (sent (.raise 1) id) id (.tripped .arc) false = (.tripped, none, []) ∧
    replied .ready (sent (.raise 1) id) id (.tripped .arc) false = (.tripped, some .clearTrip, []) ∧
    replied .tuning (sent tune fun o => { o with sawTuning := true }) id (.tuned 7000 .full) false
      = (.standby, none, [.tuneFail]) ∧
    replied .tuning (sent tune id) id .tuning false = (.tuning, some tune, []) := by decide +kernel

theorem test_meets_MissedReply :
    ((txed fun r => { r with exch := poll }).hall.tx[(0 : Tx)]).missed < 2 ∧
    ((txed fun r => { r with exch := poll, missed := 2, st := .cold }).hall.tx[(0 : Tx)]).missed = 2 ∧
    ((txed fun r => { r with exch := poll, missed := 2, st := .cold }).hall.tx[(0 : Tx)]).st ≠ .unreachable ∧
    ((txed fun r => { r with exch := poll, missed := 3 }).hall.tx[(0 : Tx)]).exch ≠ none ∧
    (∀ st ∈ [TxState.lockout, .unreachable],
      let s := txed fun r => { r with exch := poll, missed := 2, st := st }
      let h := missedReply 0 s.env s.hall
      ((h.tx[(0 : Tx)]).st, h.faults.recs.map FaultRec.kind) = (st, [FaultKind.unreachable])) ∧
    (State.reset.hall.tx[(0 : Tx)]).exch = none := by decide +kernel

/-- For each kind of order: one outstanding on T1 whose time has passed, in a state in which its end moves the state. -/
theorem test_meets_OrderTimeouts :
    ∀ k ∈ [OrderKind.warm, .tune 6000 .full none, .raise 1, .lower, .cool, .clearTrip],
      let s := txed fun r => { r with st := .tripped, out := some (sentOrder k), rcv := { r.rcv with stage := .clearing } }
      (s.hall.tx[(0 : Tx)]).out = some (sentOrder k) ∧ (sentOrder k).since = some 0 ∧
      0 + (sentOrder k).timeout ≤ s.time.now ∧ (s.hall.tx[(0 : Tx)]).st = .tripped ∧
      (s.hall.tx[(0 : Tx)]).cond = none ∧ (s.hall.tx[(0 : Tx)]).rcv.stage = .clearing := by decide +kernel

theorem test_meets_OrderTimeouts_others :
    (known.hall.tx[(0 : Tx)]).out = none ∧ (known.hall.tx[(0 : Tx)]).rcv.stage ≠ .clearing ∧
    ((txed fun r => { r with cond := some ⟨.cold, false, none, none⟩ }).hall.tx[(0 : Tx)]).cond ≠ none := by decide +kernel

/-- R165: TRIPPED under a RAISE in RAISING is a trip, in READY an uncounted one; a LOWER not yet sent becomes the trip's. -/
theorem test_trips_and_orders :
    (let seen (st : TxState) : TxState × Nat × Bool :=
       let s := asked (.raise 1) st
       let h := raiseTripped s.env 0 .arc s.hall
       ((h.tx[(0 : Tx)]).st, (h.tx[(0 : Tx)]).window.length, (h.tx[(0 : Tx)]).inHand OrderKind.isRaise)
     seen .raising = (.tripped, 1, false) ∧ seen .ready = (.tripped, 0, false) ∧ seen .tripped = (.tripped, 0, false)) ∧
    (let lower (sent byTrip : Bool) : Option Bool :=
       let o := if sent then sentOrder .lower else Order.mk0 .lower false false
       let s := txed fun r => { r with st := .lowering, out := some o }
       ((queueLower 0 byTrip s.hall).tx[(0 : Tx)]).out.map Order.byTrip
     lower false true = some true ∧ lower false false = some false ∧ lower true true = some false) := by decide +kernel

/-- T1 READY with a RAISE to be sent, nothing holding it. -/
def raising : State :=
  let s := txed fun r => { r with st := .ready, lastNo := some 255, out := some (Order.mk0 (.raise 1) true false) }
  { s with hall := s.hall.setSense (.door 0) fun v => { v with qual := some false } }

/-- An order that waits: not listed, held, and put to be sent; each permit move; trips; a motion of T1's row. -/
theorem test_meets_NoRaiseWhileHeld_moves :
    (let s := onDuty (asg .onAir) fun r => { r with st := .cold, pend := some (Order.mk0 (.raise 1) true false) }
     orderListed (.raise 1) (s.hall.tx[(0 : Tx)]).st = false ∧ (s.hall.tx[(0 : Tx)]).out = none) ∧
    (let s := onDuty (asg .onAir) fun r =>
       { r with st := .ready, permit := .granted, pend := some (Order.mk0 (.raise 1) true false) }
     raiseHeld s.env s.hall 0 = true ∧ (pendStep s.env 0 s.hall).isNone = true) ∧
    (let s := onDuty (asg .onAir) fun r => { r with st := .ready, pend := some (Order.mk0 (.raise 1) true false) }
     raiseHeld s.env s.hall 0 = false ∧ (pendStep s.env 0 s.hall).isSome = true) ∧
    (let held (p : Permit) (hot : Bool) (st : TxState) : State :=
       sequence .permits .opened fun h => h.setTx 0 fun r => { r with permit := p, permitHot := hot, st := st }
     let moved (s : State) : Option Permit := (permitStep s.env 0 s.hall).map fun h => (h.tx[(0 : Tx)]).permit
     moved (held .none false .ready) = some .requested ∧ moved (held .requested false .ready) = some .granted ∧
       moved (held .requested false .onAir) = none ∧ moved (held .granted true .ready) = some .requested ∧
       moved (held .granted false .ready) = none ∧
       (let s := held .granted false .onAir
        rowMotion s.hall 0 = false ∧ ((nextRule s.env s.hall).map fun h => (h.tx[(0 : Tx)]).permit) = some .requested)) ∧
    (let s := txed fun r => { r with permit := .granted }
     (holders s.hall 0).isEmpty = true ∧ rowMotion s.hall 0 = false ∧
       ((permitStep s.env 0 s.hall).map fun h => (h.tx[(0 : Tx)]).permit) = some .none) ∧
    (let s := sequence .breaking .opening fun h => (h.setSlot 0 (some ⟨⟨.brk 0 1, 1, [0]⟩, 0, 0, false⟩)).setTx 0 fun r =>
       { r with st := .onAir, permit := .granted }
     rowMotion s.hall 0 = true ∧ (permitStep s.env 0 s.hall).isNone = true ∧
       ((takeBackStep s.env 0 s.hall).map fun h => (xst h 0 1, (h.tx[(0 : Tx)]).st)) = some (.unknown, .lockout)) ∧
    (let s := onDuty (asg .onAir) fun r => { r with st := .onAir }
     s.hall.faults.recs.length < 47 ∧ (s.hall.faults.recs.map FaultRec.seq).Nodup ∧ txDefined s.env.k s.hall 0 = true ∧
       ((trip s.env 0 .senseArc s.hall).asg[(0 : Tx)]).map Asg.phase = some .tripped ∧
       madeOut (s.hall.setXpt 0 0 fun c => { c with st := .closed }) 0 = some 0 ∧
       (s.hall.tx[(0 : Tx)]).window.all TripEntry.refl = true) ∧
    feeder (sequence .making .closed id).hall 1 = some 0 := by decide +kernel

/-- R140, R141: an order handed, by state, in hand as (outstanding, pending); a LOWER behind a WARM, over a TUNE, and with RFP
inactive; the assignment's TUNE asked for again once overtaken. -/
theorem test_meets_NoRaiseWhileHeld_orders :
    let s (st : TxState) (o p : Option Order) : State := onDuty { asg .preparing with tune := .asked } fun r =>
      { r with st := st, out := o, pend := p }
    let inHand (h : Hall) : Option OrderKind × Option OrderKind :=
      (((h.tx[(0 : Tx)]).out).map Order.kind, ((h.tx[(0 : Tx)]).pend).map Order.kind)
    let hands (k : OrderKind) (s : State) := inHand (handOrder s.env 0 k s.hall)
    let lowers (s : State) := handLower s.env 0 false s.hall
    let tune := Order.mk0 (.tune 6000 .full none) true false
    hands .warm (s .isLocal none none) = (none, none) ∧ hands .warm (s .unreachable none none) = (none, some .warm) ∧
    hands .warm (s .cold none none) = (some .warm, none) ∧
    hands .cool (s .ready (some (sentOrder .warm)) none) = (some .warm, some .cool) ∧
    hands .cool (s .tripped none none) = (none, none) ∧
    ((handOrder (s .tripped none none).env 0 .warm (s .tripped none none).hall).asg[(0 : Tx)]).isNone = true ∧
    inHand (lowers (s .ready none none)) = (none, none) ∧
    inHand (lowers (s .lowering (some (sentOrder .warm)) none)) = (some .warm, some .lower) ∧
    inHand (lowers (s .raising (some tune) (some (Order.mk0 .cool true false)))) = (some .lower, some .cool) ∧
    inHand (lowers (s .raising none (some (Order.mk0 (.raise 1) true false)))) = (some .lower, none) ∧
    (((lowers (s .raising (some tune) none)).asg[(0 : Tx)]).map Asg.tune) = some .wanted ∧
    (let sends (st : TxState) : Option (Option OrderKind × Option OrderKind) :=
       let s := s st none (some (Order.mk0 .lower false false))
       (pendStep s.env 0 s.hall).map inHand
     sends .unreachable = some (some .lower, none) ∧ sends .cold = some (none, none) ∧ sends .isLocal = some (none, none)) := by
  decide +kernel

theorem test_meets_NoRaiseWhileHeld :
    (raising.hall.tx[(0 : Tx)]).exch = none ∧ (Order.mk0 (.raise 1) true false).sentAt = none ∧
    ((cabinetSlot 0 raising.env raising.hall).tx[(0 : Tx)]).exch = some ⟨.order (.raise 1) 1, 0⟩ := by decide +kernel

/-- LOCAL polls while a LOWER sent runs on, and sends none again; a lost carrier's RAISE in RAISING goes before the list. -/
theorem test_meets_CabinetSlot_again :
    (let s := txed fun r => { r with st := .isLocal, lastNo := some 1, out := some (sentOrder .lower) }
     (((cabinetSlot 0 s.env s.hall).tx[(0 : Tx)]).exch.map Exchange.msg) = some .poll) ∧
    (let o := { Order.mk0 (.raise 1) true false with again := true }
     let h (p : Permit) := (onDuty (asg .raising) fun r => { r with st := .raising, permit := p, pend := some o }).hall
     (pendStep known.env 0 (h .granted)).isNone = true ∧
       ((pendStep known.env 0 (h .none)).bind fun g => (g.tx[(0 : Tx)]).out) = some o) ∧
    (let s := raising
     let h := s.hall.setTx 0 fun r => { r with st := .raising, doneKw := some 1, lastNo := some 1,
                                               out := some { Order.mk0 (.raise 1) true false with again := true } }
     orderListed (.raise 1) .raising = false ∧ raiseHeld s.env h 0 = false ∧
       (((cabinetSlot 0 s.env h).tx[(0 : Tx)]).exch.map Exchange.msg) = some (.order (.raise 1) 2) ∧
       ((cabinetSlot 0 s.env h).tx[(0 : Tx)]).doneKw = none) := by decide +kernel

/-! ### Witnesses: sense lines, recovery -/

/-- A line about to qualify. -/
def qualifying (l : SenseLine) (old : Option Bool) (new : Bool) (st : TxState) : State :=
  let s := txed fun r => { r with st := st }
  { s with hall := { s.hall.setSense l fun v => { v with raw := new, qual := old, timer := some (new, 0) } with
    mode := .running } }

theorem test_meets_SenseEvents :
    ((State.reset.hall.line (.rfp 0)).raw = false) ∧
    (State.reset.hall.line (.rfp 0)).timer = some (false, 20) ∧ State.reset.time.now < 20 ∧
    ((qualifying (.rfp 0) (some false) true .ready).hall.line (.rfp 0)).timer = some (true, 0) ∧
    lineActive .levelHigh (some true) = some true ∧ lineActive .levelHigh (some false) = some false ∧
    (lineActive .levelLow (some false) = some true) ∧ edgeSeen .edgeRise (some false) true = true ∧
    (State.reset.tables.sense[senseIx (.rfp 0)]) = ⟨.levelHigh, false, 20⟩ ∧
    (State.reset.tables.sense[senseIx (.arc 0)]) = ⟨.edgeRise, false, 20⟩ ∧
    (State.reset.tables.sense[senseIx .estop]) = ⟨.levelLow, false, 20⟩ ∧
    (qualifying .estop none true .ready).hall.line .estop = ⟨true, none, some (true, 0)⟩ ∧
    lineActive .levelLow (some true) = some false ∧
    (State.reset.tables.sense[senseIx .pulse]) = ⟨.edgeRise, false, 1⟩ ∧
    ((qualifying (.arc 0) (some false) true .onAir).hall.tx[(0 : Tx)]).st = .onAir ∧
    (qualifying (.arc 0) (some false) true .onAir).hall.mode ≠ .adopting := by decide +kernel

/-- R163, R192: ESTOP lowers what is on air, mutes its assignment, and plan 0 starts with tag 0. -/
theorem test_meets_SenseEvents_estop :
    let s := onDuty (asg .onAir) fun r => { r with st := .onAir }
    let g := estopOn s.env s.hall
    (g.tx[(0 : Tx)]).lowerInHand = true ∧ (g.asg[(0 : Tx)]).map Asg.phase = some .muted ∧
    (g.running.map fun r => (r.plan, r.tag)) = some (0, 0) ∧ .directiveAccepted 0 0 ∈ g.emit := by decide +kernel

theorem test_meets_SenseRequests :
    senseSetOk (.rfp 0) (some .edgeRise) none none = false ∧ senseSetOk (.rfp 0) none (some true) none = false ∧
    senseSetOk (.door 0) none none (some 251) = false ∧ senseSetOk .pulse none none (some 1) = false ∧
    senseSetOk (.door 0) (some .levelLow) (some true) (some 250) = true ∧
    lineActive .levelHigh (State.reset.hall.line (.rfp 0)).qual = none ∧
    (let s := qualifying (.door 0) (some true) true .ready
     lineActive .levelHigh (s.hall.line (.door 0)).qual = some true ∧
       lineActive .levelLow (s.hall.line (.door 0)).qual = some false ∧ s.takes 1) := by decide +kernel

theorem test_meets_RecoverySettingsAndTimes :
    recoveryOk (some 1) none none none = false ∧ recoveryOk (some 120) (some 7) (some 60) (some 100) = true ∧
    (let s := txed fun r => { r with rcv := ⟨.waiting, none, false, some 0, false, false, false⟩ }
     (s.hall.tx[(0 : Tx)]).rcv.expiry = some 0 ∧ (s.hall.tx[(0 : Tx)]).rcv.stage = .waiting) ∧
    (known.hall.tx[(0 : Tx)]).rcv.stage ≠ .waiting ∧
    (let s := txed fun r => { r with st := .tripped, rcv := ⟨.waiting, none, false, none, false, false, false⟩ }
     (s.hall.tx[(0 : Tx)]).window.length ≤ s.tables.rcv.retries ∧ (s.hall.tx[(0 : Tx)]).st ≠ .unreachable ∧
       rfpActive s.env s.hall 0 = true ∧
       rfpActive s.env (s.hall.setSense (.rfp 0) fun v => { v with qual := some false }) 0 = false) ∧
    known.tables.rcv.retries < (List.replicate 4 (⟨0, 0, .clear, false⟩ : TripEntry)).length := by decide +kernel

/-- T1 in adoption with every column read, its reply taken and its RFP line qualified. -/
def adopting (rep : CabReply) (st : TxState) (rfp : Bool) (f : Hall → Hall) : State :=
  work fun h => f { ((((h.setPath fun p => { p with cols := p.cols.map fun c => { c with read := true } }).setAdopt 0 fun _ =>
    ⟨false, some 0, false, false⟩).setTx 0 fun r => { r with st := st, cond := some rep }).setSense (.rfp 0) fun v =>
    { v with qual := some rfp }) with mode := .adopting }

/-- A request for a retry: kept while a frozen assignment is TRIPPED, answered without the freeze, refused at once when the
assignment has left TRIPPED. LOCAL, on a reply to a transmitter still to be judged too, sets the recovery IDLE. -/
theorem test_meets_RecoverySettings_request :
    (let s (p : Phase) (drain : Bool) : State :=
       let s := onDuty (asg p) fun r => { r with st := .tripped, rcv := ⟨.asking, none, false, none, false, false, false⟩ }
       { s with hall := { s.hall with changes := [⟨1, 0, .amend, 1, some live, drain, [0], [], false⟩] } }
     let next (s : State) : Option RecStage := (recoveryStep s.env 0 s.hall).map fun h => (h.tx[(0 : Tx)]).rcv.stage
     frozen (s .tripped true).hall 0 = true ∧ frozen (s .tripped false).hall 0 = false ∧
       next (s .tripped true) = none ∧ next (s .tripped false) = some .clearing ∧ next (s .muted true) = some .idle) ∧
    (let rep : CabReply := ⟨.standby, true, none, none⟩
     let s := adopting rep .tripped false fun h => h.setTx 0 fun r =>
       { r with contact := true, rcv := ⟨.stopping, none, false, none, false, false, false⟩ }
     (((unjudgedReply 0 rep s.hall).tx[(0 : Tx)]).st, ((unjudgedReply 0 rep s.hall).tx[(0 : Tx)]).rcv)
       = (.isLocal, Recovery.idle)) := by decide +kernel

/-- A retry asked for with the stop instant past, granted in TRIPPED, READY and COLD, and refused by the check; the clear that a
refused one owes, while its assignment is TRIPPED and after; FOREIGN under a POWER hold, after a trip by reflection. -/
theorem test_meets_RecoverySettings_answers :
    let s (st : TxState) (kw late : Nat) (f : Asg → Asg) : State :=
      let s := onDuty (f { asg .tripped with eff := { params with power := kw } }) fun r =>
        { r with st := st, rcv := ⟨.asking, none, true, none, false, false, false⟩ }
      { s with time := { s.time with clock := s.time.clock + late * ticksPerMin } }
    let asked (s : State) : RecStage × Bool × Option Phase :=
      let h := askRetry s.env 0 s.hall
      ((h.tx[(0 : Tx)]).rcv.stage, (h.tx[(0 : Tx)]).rcv.owed, (h.asg[(0 : Tx)]).map Asg.phase)
    let owing (p : Phase) : Option (Hall) :=
      let s := onDuty (asg p) fun r => { r with st := .tripped, rcv := { Recovery.idle with owed := true } }
      recoveryStep s.env 0 s.hall
    let barred (s : State) : State := { s with tables := { s.tables with excl := [⟨6000, 6000, true, true, true⟩] } }
    asked (s .tripped 1 60 id) = (.idle, true, some .tripped) ∧ asked (s .tripped 1 0 id) = (.clearing, false, some .tripped) ∧
    asked (s .ready 1 0 id) = (.retrying, false, some .tripped) ∧ asked (s .cold 1 0 id) = (.idle, false, none) ∧
    asked (barred (s .tripped 1 0 id)) = (.asking, false, none) ∧
    (owing .tripped).isNone = true ∧
    ((owing .muted).bind fun h => (h.tx[(0 : Tx)]).out.map Order.kind) = some .clearTrip ∧
    (let s := s .ready 4 0 fun a => { a with sched := none }
     let h := askRetry s.env 0 (s.hall.setHold 0 fun d => { d with power := some 2 })
     ((h.asg[(0 : Tx)]).map fun a => (a.fold, a.eff.power)) = some (true, 1)) := by decide +kernel

/-- R169: a retry that the check refused waits for the end of its assignment. R167: a trip time that leaves with its entry. -/
theorem test_meets_RecoverySettings_failing :
    (let next (a : Option Asg) : Option RecStage :=
       let s := work fun h => (h.setAsg 0 a).setTx 0 fun r =>
         { r with st := .lowering, rcv := ⟨.asking, none, false, none, false, false, true⟩ }
       (recoveryStep s.env 0 s.hall).map fun h => (h.tx[(0 : Tx)]).rcv.stage
     next (some (asg (.ending .failed .nothing))) = none ∧ next none = some .idle) ∧
    (let s := onDuty { asg .tripped with trips := 2, tripTimes := [7, 8] } fun r =>
       { r with window := [⟨0, 7, .cab .arc, false⟩, ⟨1, 8, .cab .arc, false⟩] }
     let at_ (n : Nat) : Env := { s.env with tm := { s.env.tm with now := n } }
     ((expireWindow (at_ (s.tables.rcv.window * 60000)) 0 s.hall).asg[(0 : Tx)]).map Asg.tripTimes = some [8] ∧
     ((emptyWindow 0 s.hall).asg[(0 : Tx)]).map Asg.tripTimes = some []) := by decide +kernel

/-- The stages of a recovery: the carrier down and not; a CLEAR-TRIP in hand, a RAISE, and neither. -/
theorem test_meets_RecoverySettings_stages :
    let next (st : RecStage) (c : Cond) (o p : Option OrderKind) : Option RecStage :=
      let s := txed fun r => { r with st := .tripped, cond := some ⟨c, false, none, none⟩, out := o.map sentOrder,
                                      pend := p.map sentOrder, rcv := ⟨st, none, false, none, false, false, false⟩ }
      let s := { s with hall := s.hall.setSense (.rfp 0) fun v => { v with qual := some false } }
      (recoveryStep s.env 0 s.hall).map fun h => (h.tx[(0 : Tx)]).rcv.stage
    next .stopping (.tripped .arc) none none = some .waiting ∧ next .stopping (.on 6000 .full 1) none none = none ∧
    next .clearing .standby (some .clearTrip) (some (.raise 1)) = none ∧
    next .clearing .standby none (some (.raise 1)) = some .retrying ∧ next .clearing .standby none none = some .idle ∧
    next .retrying .standby (some (.raise 1)) none = none ∧ next .retrying .standby none none = some .idle := by decide +kernel

/-- R206: replies to a transmitter still to be judged, with an order that runs on: declined, completed, overtaken by TRIPPED, kept. -/
theorem test_meets_CabinetReply_unjudged :
    let met (st : TxState) (o : Option Order) (rep : CabReply) : TxState × Option (Bool × Bool) × List FaultKind :=
      let s := adopting rep st false fun h => h.setTx 0 fun r => { r with exch := poll, out := o }
      let h := cabinetReply 0 rep s.env s.hall
      ((h.tx[(0 : Tx)]).st, (h.tx[(0 : Tx)]).out.map fun o => (o.sentAt.isSome, o.answered), h.faults.recs.map FaultRec.kind)
    let rep (c : Cond) (a : Option Answer) (loc : Bool) : CabReply := ⟨c, loc, a, some 1⟩
    let no : Option Answer := some (.declined .state)
    [met .unreachable none (rep .standby none false), met .lockout none (rep .standby none false),
     met .onAir (some (sentOrder .warm)) (rep .standby none true),
     met .onAir (some (sentOrder .lower)) (rep (.on 6000 .full 1) no false),
     met .cold (some (sentOrder .warm)) (rep .cold no false), met .warming (some (sentOrder .warm)) (rep .standby none false),
     met .tuning (some { sentOrder (.tune 6000 .full none) with sawTuning := true }) (rep (.tuned 7000 .full) none false),
     met .raising (some (sentOrder (.raise 1))) (rep (.tripped .arc) none false),
     met .cold (some (sentOrder .warm)) (rep .cold (some .taken) false)] =
    [(.standby, none, []), (.lockout, none, []), (.isLocal, none, []), (.onAir, some (false, false), []), (.cold, none, []),
     (.standby, none, []), (.ready, none, []), (.tripped, none, []), (.cold, some (true, true), [])] := by decide +kernel

/-- A retry RAISE handed and not sent, of another power: permitted, refused for the rating, and one of the same power. -/
theorem test_meets_RecoverySettings_repower :
    let a (kw : Nat) : Asg := { asg .tripped with eff := { params with power := kw } }
    let s (kw : Nat) : State := onDuty (a kw) fun r => { r with st := .tripped, out := some (Order.mk0 (.raise 5) true false) }
    let kinds (kw : Nat) : Option OrderKind × List FaultKind :=
      let g := repowerRetry (s kw).env 0 true (a kw) (s kw).hall
      ((g.tx[(0 : Tx)]).out.map Order.kind, g.faults.recs.map FaultRec.kind)
    checkParams (s 1).env.k (s 1).hall 0 (a 1).eff = .permitted ∧ checkParams (s 2).env.k (s 2).hall 0 (a 2).eff ≠ .permitted ∧
    kinds 1 = (some (.raise 1), []) ∧ (kinds 2).2 = [.excludedAtAdmission] ∧ (kinds 5).1 ≠ none ∧
    repowerRetry (s 5).env 0 true (a 5) (s 5).hall = (s 5).hall := by decide +kernel

/-! ### Witnesses: holds, plans, faults, resets -/

theorem test_meets_HoldRequests :
    holdOf (.power 1001) = none ∧ holdOf (.power 1000) = some (.power 1000) ∧
    holdOf (.output (some 0) none) = some (.output 0 none) ∧ txDefined State.reset.tables State.reset.hall 0 = false ∧
    txDefined known.tables known.hall 0 = true ∧ (known.tables.outs[(1 : Out)]).defined = false ∧
    (none : Option Nat).isSome = (known.tables.outs[(0 : Out)]).slewable ∧
    (some 0 : Option Nat).isSome ≠ (known.tables.outs[(0 : Out)]).slewable ∧
    check known.tables known.hall (holdQuestion known.hall 0 ((known.hall.holds[(0 : Tx)]).put (.output 0 none)))
      = .permitted ∧
    check known.tables known.hall (holdQuestion known.hall 0 ((known.hall.holds[(0 : Tx)]).put (.power 2)))
      ≠ .permitted ∧
    reserver known.hall 0 = none ∧
    reserver (known.hall.setHold 1 fun d => { d with output := some (0, none) }) 0 = some 1 ∧
    outState (faulted [fault .lockout (.out 0) true 1]).hall 0 = .faulted ∧ outState known.hall 0 ≠ .faulted ∧
    (known.hall.holds[(0 : Tx)]).get .inhibit = none ∧
    ((known.hall.setHold 0 fun d => { d with inhibit := true }).holds[(0 : Tx)]).get .inhibit = some .inhibit := by
  decide +kernel

/-- R176, R184: values outside their ranges, and at their ends. -/
theorem test_meets_HoldRequests_ranges :
    [holdOf (.output none none), holdOf (.output (some 0) (some 16)), holdOf (.frequency 2299 (some .full)),
     holdOf (.frequency 6000 none), holdOf (.power 0)] = [none, none, none, none, none] ∧
    holdOf (.output (some 0) (some 15)) = some (.output 0 (some 15)) ∧
    holdOf (.frequency 26100 (some .full)) = some (.frequency 26100 .full) ∧
    [stepOf (.setHold none (some .inhibit)), stepOf (.setHold (some 0) none), stepOf (.setHold (some 0) (some (.power 1001))),
     stepOf (.clearHold (some 0) none)] = [none, none, none, none] ∧
    stepOf (.setHold (some 0) (some (.power 1))) = some (.setHold 0 (.power 1)) ∧
    stepOf (.clearHold (some 0) (some .power)) = some (.clearHold 0 .power) := by decide +kernel

/-- T2 FOREIGN on A1. -/
def foreign : State :=
  { known with hall := (known.hall.setOwner 0 (some 1)).setAsg 1 (some
      ⟨none, ⟨6000, .full, 0, none, 1, none⟩, ⟨6000, .full, 0, none, 1, none⟩, none, .onAir, 0, [], false, false, .done,
        .done, .done, false, false, false, false⟩) }

theorem test_meets_HoldRequests_foreign :
    foreign.hall.path.owner[(0 : Out)] = some 1 ∧ ((foreign.hall.asg[(1 : Tx)]).map Asg.sched) = some none ∧
    outState foreign.hall 0 ≠ .faulted ∧ reserver foreign.hall 0 = none := by decide +kernel

/-- OUTPUT set for T2 over T1's claim, and over one that T3 awaits; a FOREIGN assignment; a reservation given up. -/
theorem test_meets_HoldRequests_setting :
    let kind (h : Hall) (t : Tx) : Option Phase := (h.asg[t]).map Asg.phase
    (let s := onDuty (asg .onAir) fun r => { r with st := .onAir }
     let g := setHold s.env 1 (.output 0 none) .host s.hall
     ((s.hall.holds[(1 : Tx)]).get .output) = none ∧ s.hall.path.owner[(0 : Out)] = some 0 ∧
       kind g 0 = some (.ending .preempted (.push .reservedByHold)) ∧ g.alloc = true ∧ reserver g 0 = some 1) ∧
    (let s := work fun h => (h.setAsg 2 (some { asg .preparing with awaits := some (0, 0) })).setOwner 0 (some 0)
     let g := setHold s.env 1 (.output 0 none) .host s.hall
     kind g 2 = none ∧ g.deferral.map DeferItem.reason = [.outputBusy]) ∧
    (let g := setHold foreign.env 1 (.frequency 7000 .full) .host foreign.hall
     g.asg[(1 : Tx)] = none ∧ (setHold foreign.env 1 (.power 1) .host foreign.hall).asg[(1 : Tx)] ≠ none ∧
       recomputeHold foreign.env 1 .frequency true foreign.hall = foreign.hall) ∧
    (let h := known.hall.setHold 1 fun d => { d with output := some (0, none) }
     outState h 0 = .free ∧ (clearHold known.env 1 .output .host { h with alloc := false }).alloc = true ∧
       setHold known.env 1 (.output 0 none) .host h = h ∧ clearHold known.env 1 .power .host h = h) := by decide +kernel

/-- T1's assignment with OUTPUT set to A2, before and after its effective parameters are worked out again. -/
def moved (a : Asg) (f : Hall → Hall) (mayAwait : Bool) : Hall :=
  let s := onDuty a fun r => { r with st := .onAir }
  recompute s.env 0 true mayAwait ((f s.hall).setHold 0 fun d => { d with output := some (1, none) })

/-- Worked out again: no change, ENDING, and an output that is free, another's, or still claimed by an assignment that ends. -/
theorem test_meets_HoldRequests_recompute :
    let phase (h : Hall) : Option Phase := (h.asg[(0 : Tx)]).map Asg.phase
    let awaits (h : Hall) : Option (Out × Tx) := (h.asg[(0 : Tx)]).bind Asg.awaits
    let ending (h : Hall) : Hall := (h.setAsg 5 (some (asg (.ending .completed .nothing)))).setOwner 1 (some 5)
    currentEff known.env.k (onDuty (asg .onAir) id).hall 0 (asg .onAir) = (asg .onAir).eff ∧
    phase (moved (asg (.ending .completed .nothing)) id true) = some (.ending .completed .nothing) ∧
    phase (moved (asg .onAir) id true) = some .reworking ∧
    (moved (asg .onAir) id true).path.owner[(1 : Out)] = some 0 ∧
    phase (moved (asg .onAir) (fun h => h.setOwner 1 (some 5)) true) = some (.ending .preempted (.defer .outputBusy)) ∧
    phase (moved (asg .onAir) ending true) = some .reworking ∧ awaits (moved (asg .onAir) ending true) = some (1, 5) ∧
    phase (moved (asg .onAir) ending false) = some (.ending .preempted (.defer .outputBusy)) := by decide +kernel

/-- Worked out again: a retry RAISE that waits, and an assignment in PREPARING. -/
theorem test_meets_HoldRequests_phases :
    (let s := onDuty { asg .tripped with eff := { params with power := 5 } } fun r =>
       { r with st := .tripped, out := some (Order.mk0 (.raise 5) true false) }
     let h := recompute s.env 0 true true (s.hall.setHold 0 fun d => { d with power := some 1 })
     (h.tx[(0 : Tx)]).out.map Order.kind = some (.raise 1)) ∧
    (let s := onDuty (asg .preparing) fun r => { r with st := .cold }
     let h := recompute s.env 0 true true (s.hall.setHold 0 fun d => { d with freq := some (7000, .full) })
     (h.asg[(0 : Tx)]).map Asg.phase = some .preparing) := by decide +kernel

theorem test_meets_PlansAndDirectives :
    (stepOf (.clearHold (some 0) (some .inhibit)) ≠ none) ∧ stepOf (.setHold none none) = none ∧
    (31 : Fin 32).val = 31 ∧ State.reset.tables.plans[(31 : Fin 32)] = none ∧
    (tables fun k => { k with plans := upd k.plans 31 fun _ => some [.clearHold 0 .inhibit] }).tables.plans[(31 : Fin 32)]
      ≠ none ∧
    State.reset.hall.dslot = none ∧ State.reset.hall.running = none ∧
    (hall fun h => { h with dslot := some (31, 1), dlast := some ⟨31, 1, .pending⟩ }).hall.dslot = some (31, 1) ∧
    (hall fun h => { h with dlast := some ⟨31, 1, .accepted⟩ }).hall.dlast = some ⟨31, 1, .accepted⟩ ∧
    (hall fun h => { h with running := some ⟨0, 1, 1, 0, 0, 0, [], none⟩ }).hall.running
      = some ⟨0, 1, 1, 0, 0, 0, [], none⟩ ∧
    (hall fun h => { h with running := some ⟨31, 1, 1, 0, 90000, 0, [], none⟩ }).time.now < 0 + 90000 := by decide +kernel

def planSteps : List PlanStep :=
  [.setHold 0 (.power 1), .setHold 0 (.output 5 none), .clearHold 0 .inhibit, .setHold 0 .inhibit]
/-- A plan of four steps at its step, on T1 at work. -/
def planned (step : Nat) (f : Hall → Hall) : State :=
  let s := onDuty (asg .onAir) fun r => { r with st := .onAir, raiseKw := some 1, doneKw := some 1 }
  { s with
    tables := { s.tables with plans := upd s.tables.plans 1 fun _ => some planSteps }
    hall := f { s.hall with running := some ⟨1, 7, step, 0, 0, 0, [], none⟩ } }

/-- A step that is taken, refused, and a CLEAR; each aspect in force and not; the last step, with and without a directive. -/
theorem test_meets_PlansAndDirectives_steps :
    let next (s : State) : Option (Option (Nat × Nat)) :=
      (planStep s.env s.hall).map fun h => h.running.map fun r => (r.step, r.failed)
    holdFault (planned 1 id).env.k (planned 1 id).hall 0 (.power 1) = none ∧
    holdFault (planned 2 id).env.k (planned 2 id).hall 0 (.output 5 none) ≠ none ∧
    (((startStep (planned 2 id).env (planned 2 id).hall).running.map fun r => r.refused.isSome) = some true) ∧
    (((startStep (planned 1 id).env (planned 1 id).hall).holds[(0 : Tx)]).power = some 1) ∧
    (((startStep (planned 3 id).env ((planned 3 id).hall.setHold 0 fun d => { d with inhibit := true })).holds[(0 : Tx)]).inhibit
      = false) ∧
    next (planned 1 id) = some (some (2, 0)) ∧ next (planned 3 id) = some (some (4, 0)) ∧
    next (planned 2 fun h => { h with running := some ⟨1, 7, 2, 0, 0, 0, [], some .notFound⟩ }) = some (some (3, 1)) ∧
    next (planned 1 fun h => h.setTx 0 fun r => { r with doneKw := none }) = none ∧
    next (planned 1 fun h => { (h.setTx 0 fun r => { r with doneKw := none }) with mode := .quiescent }) = some (some (2, 0)) ∧
    next (planned 4 id) = none ∧
    next (planned 4 fun h => h.setTx 0 fun r => { r with st := .ready }) = some none ∧
    ((planStep (planned 4 id).env { (planned 4 fun h => h.setTx 0 fun r => { r with st := .ready }).hall with
      dslot := some (1, 9) }).map fun h => (h.dslot, h.running.map Running.tag, h.dlast.map LastDirective.fate))
      = some (none, some 9, some .accepted) := by decide +kernel

theorem test_meets_PlansAndDirectives_plan0 :
    let s := planned 1 id
    let g := startPlan0 s.env 9 s.hall
    (g.running.map fun r => (r.plan, r.tag, r.who)) = some (0, 9, [0]) ∧ (g.holds[(0 : Tx)]).inhibit = true ∧
    (g.holds[(1 : Tx)]).inhibit = false ∧ (planStep s.env g).isNone = true ∧
    ((planStep s.env (g.setTx 0 fun r => { r with st := .ready })).map fun h => h.running.isNone) = some true ∧
    planStep s.env { s.hall with running := none } = none ∧
    (startPlan0 s.env 9 { s.hall with running := none }).running.map Running.plan = some 0 ∧
    (madeOut (s.hall.setXpt 0 0 fun c => { c with st := .closed }) 0 = some 0) := by decide +kernel

theorem test_meets_FaultRequests :
    (∀ r ∈ State.reset.hall.faults.recs, r.seq ≠ 65535) ∧
    (faulted [fault .trip (.tx 0) false 1]).hall.faults.recs.find? (fun r => r.seq = 1)
      = some (fault .trip (.tx 0) false 1) ∧
    (fault .lockout (.tx 0) true 1).blocking = true ∧ (fault .matrixUnknown (.out 0) true 1).src = .out 0 ∧
    (fault .positionerStall (.out 0) true 1).kind = .positionerStall ∧
    (fault .antennaSuspect (.out 0) true 1).kind = .antennaSuspect ∧
    (faulted [fault .trip (.tx 0) false 1]).takes 1 ∧
    ((reading false 0).hall.path.cols[(0 : Out)]).clear = some ⟨0, some 0⟩ ∧
    consistent (reading false 0).hall 0 (rows ⟨true, true⟩) = false ∧
    consistent (reading false 0).hall 0 (rows ⟨true, false⟩) = true ∧
    (let s := { posed (posRec (some ⟨0, 0, some 0, none, true⟩)) with
       hall := { (posed (posRec (some ⟨0, 0, some 0, none, true⟩))).hall with clear := some ⟨1, 1, .positionerStall, 0⟩ } }
     s.hall.clear = some ⟨1, 1, .positionerStall, 0⟩ ∧ lineHolder s.hall 0 = some 0) := by decide +kernel

/-- R201: a release with a crosspoint of the column still UNKNOWN and the positioner STALLED, and one that frees the output. -/
theorem test_meets_FaultRequests_release :
    let s := faulted [fault .antennaSuspect (.out 0) true 1]
    let h := (s.hall.setXpt 3 0 fun c => { c with st := .unknown }).setPos 0 (some { posRec none with st := .stalled })
    let g := clearOut s.env 1 0 h
    (g.faults.recs.map fun r => (r.kind, r.blocking, r.detail)) =
      [(.matrixUnknown, true, some (.matrix .held (some (3, 0)))), (.positionerStall, false, some (.stall .held))] ∧
    (clearOut s.env 1 0 s.hall).faults.recs = [] ∧ (clearOut s.env 1 0 s.hall).alloc = true ∧
    (let r := rows ⟨true, false⟩
     consistent h 0 r = true ∧ xst (clearRows 1 0 r h) 3 0 ≠ .unknown) := by
  decide +kernel

/-- A clear's read of a positioner at a preset, off every preset, silent, and past its full-travel time. -/
theorem test_meets_FaultRequests_positioner :
    let p : Pos := { posRec (some ⟨0, 2, some 0, none, true⟩) with presets := (tab 16 none).set 3 (some 90) }
    let s := hall fun h => { h.setPos 0 (some p) with clear := some ⟨1, 1, .positionerStall, 0⟩ }
    s.hall.clear = some ⟨1, 1, .positionerStall, 0⟩ ∧ lineHolder s.hall 0 = some 0 ∧ p.preset 3 = some 90 ∧
    (∀ m < 3, p.preset m ≠ some 90) ∧ (∀ n < 16, p.preset n ≠ some 91) ∧ 0 ≤ s.time.now ∧
    p.job = some ⟨0, 2, some 0, none, true⟩ := by decide +kernel

/-- The lists of faults: a record found, one that is not, and a page after another record. -/
theorem test_meets_FaultRequests_lists :
    let s := faulted [fault .trip (.tx 0) false 1, fault .trip (.tx 1) false 2]
    s.takes 1 ∧ s.hall.faults.recs = [fault .trip (.tx 0) false 1] ++ fault .trip (.tx 1) false 2 :: [] ∧
    s.hall.faults.recs.find? (fun r => r.seq = 2) = some (fault .trip (.tx 1) false 2) ∧
    (∀ r ∈ s.hall.faults.recs, r.seq ≠ 3) := by decide +kernel

/-- R204: sixteen records with room, and fourteen long ones without. -/
theorem test_meets_FaultRequests_room :
    let l (n : Nat) (k : FaultKind) : List FaultRec := (List.range n).map fun i => fault k (.tx 0) false (i + 1)
    (faultsListed (l 17 .trip)).length = 16 ∧ (faultsListed (l 3 .trip)).length = 3 ∧
    (faultsListed (l 16 .excludedAtAdmission)).length < 16 := by decide +kernel

/-- What a clear releases: a record that comes to block, and each way out of LOCKOUT. -/
theorem test_meets_FaultReports_release :
    (let l := [fault .trip (.tx 0) false 1, fault .hotSwitch (.tx 0) false 2]
     (∀ z ∈ l, z.blocking = true → z.src ≠ .tx 0) ∧ FaultKind.canBlock .hotSwitch = true ∧ (l.map FaultRec.seq).Nodup) ∧
    (let from_ (contact undef : Bool) (c : Option CabReply) : TxState := ((releaseTx known.env 0
       { (txed fun r => { r with st := .lockout, contact := contact, undef := undef, cond := c }).hall with
         mode := .running }).tx[(0 : Tx)]).st
     from_ false false none = .unreachable ∧ from_ true false none = .unreachable ∧
       from_ true true (some ⟨.cold, false, none, none⟩) = .absent ∧
       from_ true false (some ⟨.cold, true, none, none⟩) = .isLocal ∧
       from_ true false (some ⟨.on 6000 .full 1, false, none, none⟩) = .lowering ∧
       from_ true false (some ⟨.tripped .arc, false, none, none⟩) = .tripped ∧
       from_ true false (some ⟨.standby, false, none, none⟩) = .standby) := by decide +kernel

/-- The release of LOCKOUT into LOCAL: a LOWER sent runs on, an order not sent ends. -/
theorem test_meets_FaultReports_local :
    let of_ (o : Order) : Hall := releaseTx known.env 0 { (txed fun r => { r with
      st := .lockout, contact := true, cond := some ⟨.cold, true, none, none⟩, out := some o }).hall with mode := .running }
    (((of_ (sentOrder .lower)).tx[(0 : Tx)]).st = .isLocal ∧ ((of_ (sentOrder .lower)).tx[(0 : Tx)]).out.isSome = true ∧
      (of_ (sentOrder .lower)).alloc = true) ∧
    ((of_ (Order.mk0 .lower false false)).tx[(0 : Tx)]).out = none := by decide +kernel

theorem test_meets_FaultReports :
    (∀ x ∈ State.reset.hall.faults.recs, x.seq ≠ State.reset.hall.faults.next) ∧
    State.reset.hall.faults.recs.length < 48 ∧
    (let l := (List.range 47).map fun n => fault .trip (.tx 0) false (n + 1)
     (l ++ [fault .lockout (.tx 1) true 48]).length = 48 ∧ (l.map FaultRec.seq).Nodup ∧
       (∀ x ∈ l ++ [fault .lockout (.tx 1) true 48], ¬ (x.kind = .lockout ∧ x.src = .tx 2)) ∧
       ∀ x ∈ l ++ [fault .lockout (.tx 1) true 48], x.seq ≠ 49) := by decide +kernel

theorem test_meets_AdoptionAndResets :
    (State.reset.tables.txs[(0 : Tx)]).defined = false ∧ (known.tables.txs[(0 : Tx)]).defined = true ∧
    State.reset.tables.lock = false ∧ (∀ u : Tx, (State.reset.hall.tx[u]).st ≠ .raising ∧ (State.reset.hall.tx[u]).st ≠ .onAir) ∧
    ((txed fun r => { r with st := .onAir }).hall.tx[(0 : Tx)]).st = .onAir ∧
    (let s := { txed (fun r => { r with st := .raising, cond := some ⟨.raising 6000 .full 1, false, none, none⟩ }) with
       hall := (txed fun r =>
         { r with st := .raising, cond := some ⟨.raising 6000 .full 1, false, none, none⟩ }).hall.setAdopt 0 fun _ =>
           ⟨false, some 0, false, false⟩ }
     s.hall.mode = .adopting ∧ (s.hall.adopt[(0 : Tx)]).judged = false ∧ (s.hall.adopt[(0 : Tx)]).firstReply = some 0 ∧
       s.time.now < 0 + (s.tables.txs[(0 : Tx)]).raise * 1000) := by decide +kernel

/-- R155, R175: what SECTION-RESET gives the orders, by the state, of one pending and a LOWER outstanding. -/
theorem test_meets_AdoptionAndResets_section :
    let after (st : TxState) (o p : Option Order) : TxRec :=
      let s := onDuty (asg .onAir) fun r => { r with st := st, out := o, pend := p, before := some .onAir }
      ((resetSection 0 s.env (s.hall.setStack 0 [⟨item, 0, .preemptedTx⟩])).tx[(0 : Tx)])
    let cool := Order.mk0 .cool true false
    ([after .raising (some (sentOrder .warm)) (some cool), after .onAir none none].map TxRec.lowerInHand) = [true, true] ∧
    ((after .tripped none (some cool)).inHand fun k => decide (k = .clearTrip)) = true ∧
    [(after .unreachable (some (sentOrder .lower)) (some cool)).before,
     (after .lowering (some (sentOrder .lower)) none).before] = [none, some .onAir] ∧
    ([after .unreachable (some (sentOrder .lower)) (some cool), after .lowering (some (sentOrder .lower)) none].map fun r =>
      (r.out, r.pend)) = [(some (sentOrder .lower), none), (some (sentOrder .lower), none)] := by decide +kernel

/-- R193, R206: what a HALL reset says, with a change, a hold, a plan that runs and a directive that waits. -/
theorem test_meets_AdoptionAndResets_hall :
    let s := onDuty (asg .onAir) fun r => { r with st := .onAir, permit := .requested, out := some (Order.mk0 (.raise 1) true false) }
    let h := { s.hall.setHold 0 fun d => { d with inhibit := true, power := some 1 } with
      changes := [⟨9, 0, .withdraw, 1, none, false, [], [], false⟩], dslot := some (2, 8), dlast := some ⟨2, 8, .pending⟩,
      running := some ⟨1, 7, 1, 0, 0, 0, [], none⟩ }
    let g := resetHall s.env (h.setBank 1 fun _ => ⟨.retiring, [], some 0, []⟩)
    g.emit = [.hall .adopting .reset, .changeRejected 9 0 .withdraw 1 .reset, .bank 1 .spent [] (some 0),
      .planAbandoned 1 7 1 0 .reset, .directiveCancelled 2 8 .reset, .holdReset 0 [.inhibit, .power]] ∧
    g.dlast = some ⟨2, 8, .cancelled⟩ ∧ [(g.adopt[(0 : Tx)]).judged, (g.adopt[(1 : Tx)]).judged] = [false, true] ∧
    (g.tx[(0 : Tx)]).out = none ∧ (g.tx[(0 : Tx)]).permit = .requested ∧
    g.path.cols[(0 : Out)] = ⟨false, some ⟨0, none⟩, none⟩ := by decide +kernel

/-- R19, R129, R156: a store erased with a bank, a stack and a deferral item, an assignment that lowers, and a slew in a slot. -/
theorem test_meets_AdoptionAndResets_erase :
    let s := onDuty (asg .onAir) fun r => { r with st := .lowering, out := some (sentOrder .lower) }
    let h := ((s.hall.setStack 0 [⟨item, 0, .preemptedTx⟩]).setPos 0 (some (posRec none))).setPos 1 (some (posRec none))
    let h := { h.setSlot 0 (some ⟨⟨.slew 0 1, 1, [0]⟩, 0, 0, false⟩) with deferral := [⟨{ item with tx := 1 }, .outputBusy⟩] }
    let g := eraseHall { s.env with k := Tables.default } (undefAll s.tables h)
    anyRaised h = false ∧ s.tables.lock = false ∧ [(slewSlot h 0).isSome, (slewSlot h 1).isSome] = [true, false] ∧
    (allBanks.map fun n => (g.banks[n]).st) = List.replicate 4 .empty ∧ g.banks[(0 : BankNo)] = Bank.blank ∧
    (g.asg[(0 : Tx)]).map Asg.phase = some (.ending .aborted .nothing) ∧ g.stack[(0 : Tx)] = [] ∧ g.deferral = [] ∧
    g.emit.count (.expired occ) = 2 ∧ [(g.path.pos[(0 : Out)]).map Pos.gone, (g.path.pos[(1 : Out)]).map Pos.gone]
      = [some true, none] ∧ (g.tx[(0 : Tx)]).undef = true := by decide +kernel

/-- R207: a reply that turns RAISING once the raise timeout has passed is followed by the judgement at once. -/
theorem test_meets_AdoptionAndResets_passed :
    let s := adopting ⟨.raising 6000 .full 1, false, none, none⟩ .raising true id
    let at_ (n : Nat) : Env := { s.env with tm := { s.env.tm with now := n } }
    lapseTime s.tables s.hall 0 = some ((s.tables.txs[(0 : Tx)]).raise * 1000) ∧
    readyToJudge (at_ ((s.tables.txs[(0 : Tx)]).raise * 1000 - 1)) s.hall 0 = false ∧
    readyToJudge (at_ ((s.tables.txs[(0 : Tx)]).raise * 1000)) s.hall 0 = true := by decide +kernel

/-- The rows of R207, a carrier that matches, one that does not, one without a path, and the end of adoption. -/
theorem test_meets_AdoptionAndResets_judgement :
    let on : CabReply := ⟨.on 6000 .full 1, false, none, none⟩
    let judged (s : State) : TxState × List FaultKind :=
      let h := judge s.env 0 s.hall
      ((h.tx[(0 : Tx)]).st, h.faults.recs.map FaultRec.kind)
    let made (h : Hall) : Hall := h.setXpt 0 0 fun c => { c with st := .closed }
    readyToJudge (adopting on .onAir true id).env (adopting on .onAir true id).hall 0 = true ∧
    readyToJudge (adopting ⟨.raising 6000 .full 1, false, none, none⟩ .raising true id).env
      (adopting ⟨.raising 6000 .full 1, false, none, none⟩ .raising true id).hall 0 = false ∧
    judged (adopting on .lockout true id) = (.lockout, [.rfUnexpected]) ∧
    judged (adopting { on with loc := true } .isLocal true id) = (.isLocal, []) ∧
    judged (adopting ⟨.tripped .arc, false, none, none⟩ .tripped false id) = (.lockout, [.lockout]) ∧
    judged (adopting ⟨.standby, false, none, none⟩ .standby true id) = (.standby, [.rfUnexpected]) ∧
    judged (adopting ⟨.raising 6000 .full 1, false, none, none⟩ .raising true id) = (.raising, [.rfUnexpected]) ∧
    judged (adopting ⟨.standby, false, none, none⟩ .standby false id) = (.standby, []) ∧
    judged (adopting on .unreachable true id) = (.unreachable, [.foreignCarrier]) ∧
    judged (adopting on .onAir true id) = (.onAir, [.foreignCarrier]) ∧
    carrierPath (adopting on .onAir true made).hall 0 = some 0 ∧
    (matchCarrier (adopting on .onAir true made).env (adopting on .onAir true made).hall 0 0 6000).isSome = true ∧
    (matchCarrier (adopting on .onAir true made).env (adopting on .onAir true made).hall 0 0 7000).isNone = true ∧
    ((judge (adopting on .onAir true made).env 0 (adopting on .onAir true made).hall).asg[(0 : Tx)]).map Asg.phase
      = some .onAir := by decide +kernel

theorem test_meets_AdoptionAndResets_end :
    let s := adopting ⟨.standby, false, none, none⟩ .standby false fun h => h.setPath id
    let h := { s.hall with adopt := s.hall.adopt.map fun a => { a with judged := true } }
    (∀ u : Tx, readyToJudge s.env h u = false) ∧ (∀ o : Out, (h.path.cols[o]).read = true) ∧
    (∀ u : Tx, (h.adopt[u]).judged = true) ∧ (∀ u : Tx, h.asg[u] = none) ∧ retiringBank h = none ∧
    ((adoptStep s.env h).map Hall.mode) = some .running := by decide +kernel

/-- R207, R212: judged without the clock by rows 2 and 3; adoption's end with an assignment that has stopped, and with a RETIRING
bank. -/
theorem test_meets_AdoptionAndResets_steps :
    let found (rep : CabReply) : Bool :=
      let s := adopting rep .unreachable true id
      readyToJudge { s.env with tm := { s.env.tm with cstate := .unset } } s.hall 0
    found ⟨.on 6000 .full 1, true, none, none⟩ = true ∧ found ⟨.tripped .arc, false, none, none⟩ = true ∧
    found ⟨.on 6000 .full 1, false, none, none⟩ = false ∧
    (let s := { onDuty (asg .waiting) id with time := { known.time with
       cstate := .locked, clock := known.time.clock + 60 * ticksPerMin } }
     occStop live day2000 ≤ s.env.min ∧ (endAdoption s.env s.hall).asg[(0 : Tx)] = none) ∧
    (let s := work fun h => h.setBank 2 fun _ => ⟨.retiring, [], some 0, []⟩
     retiringBank s.hall = some 2 ∧ hasRef 2 s.hall = false ∧
       (((endAdoption s.env s.hall).banks[(2 : BankNo)]).st = .spent)) ∧
    (let s := onDuty (asg .onAir) id
     let h := (s.hall.setBank 0 fun b => { b with st := .retiring })
     retiringBank h = some 0 ∧ hasRef 0 h = true ∧ ((endAdoption s.env h).banks[(0 : BankNo)]).st = .retiring) := by
  decide +kernel

theorem test_meets_Invariants : (∃ t, step State.reset = .next t) := ⟨_, rfl⟩

/-- A hall with an ACTIVE and a RETIRING bank, two positioners, a crosspoint CLOSED, and a throw in a slot under a GRANTED permit
beside a transmitter on the air: banks, lines and permits as their invariants say. -/
def kept : Hall :=
  let h := (State.reset.hall.setBank 0 fun b => { b with st := .active }).setBank 1 fun b => { b with st := .retiring }
  let h := (h.setPos 0 (some (posRec none))).setPos 1 (some { posRec none with line := 1 })
  let h := (h.setTx 0 fun r => { r with permit := .granted }).setTx 1 fun r => { r with st := .onAir }
  h.setSlot 0 (some ⟨⟨.make 0 0, 1, [0]⟩, 0, 0, false⟩)

theorem test_meets_BanksAndLinesInvariant : kept.banksOk ∧ kept.linesOk := by
  have apart : ∀ o p : Out, o = p ∨ (match kept.path.pos[o], kept.path.pos[p] with
      | some q, some r => decide (q.line ≠ r.line)
      | _, _ => true) = true := by decide +kernel
  refine ⟨⟨by decide +kernel, by decide +kernel⟩, fun o p q r hq hr same => ?_⟩
  rcases apart o p with eq | ne
  · exact eq
  · rw [hq, hr] at ne
    exact absurd same (of_decide_eq_true ne)

theorem test_meets_PermitInvariant :
    kept.permitsOk ∧ kept.path.slots[(0 : Fin 4)] = some ⟨⟨.make 0 0, 1, [0]⟩, 0, 0, false⟩ ∧
    (kept.tx[(1 : Tx)]).st = .onAir := by
  have all : ∀ (i : Fin 4) (t : Tx), (kept.tx[t]).permit = .granted ∨ ((kept.path.slots[i]).all fun x =>
      match x.motion.kind with | .make u _ | .brk u _ => decide (u ≠ t) | .slew _ _ => true) = true := by decide +kernel
  refine ⟨⟨by decide +kernel, fun i x t o at_ kind => ?_⟩, by decide +kernel, by decide +kernel⟩
  rcases all i t with granted | none
  · exact granted
  · rw [at_] at none
    rcases kind with kind | kind <;> simp [kind] at none

/-- T1 locked out under its blocking record, A1 closed to it. -/
def locked : Hall :=
  let h := (txed fun r => { r with st := .lockout }).hall.setXpt 0 0 fun c => { c with st := .closed }
  { h with faults := ⟨[fault .lockout (.tx 0) true 1], 2, false⟩ }

theorem test_meets_BlockingInvariant : locked.faultsOk := by
  have only : ∀ r ∈ locked.faults.recs, r = fault .lockout (.tx 0) true 1 := by decide +kernel
  have states : ∀ t : Tx, (locked.tx[t]).st = .lockout ↔ t = 0 := by decide +kernel
  refine ⟨⟨by decide +kernel, by decide +kernel⟩, fun r hr _ => ?_, fun r hr q hq _ _ _ => (only r hr).trans (only q hq).symm,
    fun t => (states t).trans ⟨fun eq => ?_, fun ⟨r, hr, _, src⟩ => ?_⟩, fun c hc => nomatch hc⟩
  · rw [only r hr]; exact ⟨rfl, .inl ⟨0, rfl⟩⟩
  · subst eq; exact ⟨fault .lockout (.tx 0) true 1, by decide +kernel, rfl, rfl⟩
  · rw [only r hr] at src; exact (FaultSource.tx.inj src).symm

theorem test_meets_MatrixInvariant : locked.matrixOk ∧ xst locked 0 0 = .closed := by
  have one : ∀ (t : Tx) (o : Out), xst locked t o = .opened ∨ (t = 0 ∧ o = 0) := by decide +kernel
  have free : ∀ i : Fin 4, locked.path.slots[i] = none := by decide +kernel
  have at_ {t : Tx} {o : Out} (h : xst locked t o ≠ .opened) : t = 0 ∧ o = 0 := (one t o).resolve_left h
  refine ⟨⟨fun t o p ho hp => (at_ ho).2.trans (at_ hp).2.symm, fun o t u ht hu => (at_ ht).1.trans (at_ hu).1.symm,
    fun i x t o hx => ?_, fun i j x y _ hx => ?_, by decide +kernel⟩, by decide +kernel⟩
  · rw [free i] at hx; exact nomatch hx
  · rw [free i] at hx; exact nomatch hx

end Sys2Proof.Tests
end

namespace Sys2Proof.Machine

set_option Elab.async false

/-- From `g` to `h` the lists stay within their bounds, at most one bank ACTIVE and one RETIRING, and the positioners on lines of
their own. -/
structure Keeps (g h : Hall) : Prop where
  sizes : g.sizesOk → h.sizesOk
  banks : g.banksOk → h.banksOk
  lines : g.linesOk → h.linesOk

/-- So does a rule, where it has a next state. -/
def OKeeps (g : Hall) (o : Option Hall) : Prop := ∀ h, o = some h → Keeps g h

section
variable {g h : Hall} {e : Env} {t : Tx} {o : Out} {n : BankNo}

theorem OKeeps.none : OKeeps g none := fun _ q => nomatch q

theorem OKeeps.some (x : Keeps g h) : OKeeps g (some h) := fun _ q => Option.some.inj q ▸ x

theorem OKeeps.ite {c : Prop} [Decidable c] {a b : Option Hall} (x : OKeeps g a) (y : OKeeps g b) : OKeeps g (if c then a else b) := by
  split <;> assumption

namespace Keeps

theorem refl (h : Hall) : Keeps h h := ⟨id, id, id⟩

theorem trans {k : Hall} (x : Keeps g h) (y : Keeps h k) : Keeps g k := ⟨y.sizes ∘ x.sizes, y.banks ∘ x.banks, y.lines ∘ x.lines⟩

theorem ite {c : Prop} [Decidable c] {a b : Hall} (x : Keeps g a) (y : Keeps g b) : Keeps g (if c then a else b) := by
  split <;> assumption

theorem each {α : Type} {l : List α} {f : α → Hall → Hall} (x : Keeps g h) (y : ∀ {a k}, Keeps g k → Keeps g (f a k)) :
    Keeps g (h.each l f) := by
  induction l generalizing h with
  | nil => exact x
  | cons a l ih => exact ih (y x)

/-- The states of the banks stay. -/
theorem banks_of {k : Hall} (b : ∀ n : BankNo, (k.banks[n]).st = (h.banks[n]).st) (w : h.banksOk) : k.banksOk :=
  ⟨fun m n => by rw [b, b]; exact w.active m n, fun m n => by rw [b, b]; exact w.retiring m n⟩

/-- The positioners stay on their lines, or leave. -/
theorem lines_of {k : Hall} (l : ∀ (o : Out) (q : Pos), k.path.pos[o] = some q → ∃ r, h.path.pos[o] = some r ∧ r.line = q.line)
    (w : h.linesOk) : k.linesOk := by
  intro o p q r hq hr qr
  obtain ⟨q', hq', lq⟩ := l o q hq
  obtain ⟨r', hr', lr⟩ := l p r hr
  exact w o p q' r' hq' hr' (lq.trans (qr.trans lr.symm))

/-- A move that leaves banks and positioners as they are. -/
theorem moved {k : Hall} (x : Keeps g h) (m : Moves h k) (b : k.banks = h.banks := by rfl) (l : k.path.pos = h.path.pos := by rfl) :
    Keeps g k :=
  x.trans ⟨m.sizes, banks_of fun _ => by rw [b], lines_of fun o q w => ⟨q, l ▸ w, rfl⟩⟩

/-- An update of what no bound, bank or positioner is part of. -/
theorem plain {k : Hall} (x : Keeps g h) (banks : k.banks = h.banks := by rfl) (changes : k.changes = h.changes := by rfl)
    (deferral : k.deferral = h.deferral := by rfl) (stack : k.stack = h.stack := by rfl) (tx : k.tx = h.tx := by rfl)
    (faults : k.faults = h.faults := by rfl) (pos : k.path.pos = h.path.pos := by rfl) : Keeps g k :=
  x.trans ⟨fun w => ⟨banks ▸ w.banks, changes ▸ w.changes, changes ▸ w.changeIds, deferral ▸ w.deferral, stack ▸ w.stack,
    tx ▸ w.windows, faults ▸ w.faults⟩, banks_of fun _ => by rw [banks], lines_of fun o q w => ⟨q, pos ▸ w, rfl⟩⟩

section
variable {f : TxRec → TxRec} {b : NoticeBody}

protected theorem setTx (x : Keeps g h) (w : ∀ r, (f r).window = r.window := by exact fun _ => rfl) : Keeps g (h.setTx t f) :=
  x.moved ((Moves.refl h).setTx w)
protected theorem note (x : Keeps g h) : Keeps g (h.note b) := x.plain
protected theorem notes {l : List NoticeBody} (x : Keeps g h) : Keeps g (h.notes l) := x.plain
protected theorem say {r : Reply} (x : Keeps g h) : Keeps g (h.say r) := x.plain
protected theorem wantAlloc (x : Keeps g h) : Keeps g h.wantAlloc := x.plain
protected theorem setAsg {a : Option Asg} (x : Keeps g h) : Keeps g (h.setAsg t a) := x.plain
protected theorem mapAsg {f : Asg → Asg} (x : Keeps g h) : Keeps g (h.mapAsg t f) := x.plain
protected theorem beginAsg {a : Asg} (x : Keeps g h) : Keeps g (h.beginAsg t a) := x.plain
protected theorem setIdle {i : Idle} (x : Keeps g h) : Keeps g (h.setIdle t i) := x.plain
protected theorem setAdopt {f : Adopt → Adopt} (x : Keeps g h) : Keeps g (h.setAdopt t f) := x.plain
protected theorem setHold {f : Hold → Hold} (x : Keeps g h) : Keeps g (h.setHold t f) := x.plain
protected theorem setSense {l : SenseLine} {f : Sense → Sense} (x : Keeps g h) : Keeps g (h.setSense l f) := x.plain
protected theorem setSeq {f : PathSeq → PathSeq} (x : Keeps g h) : Keeps g (h.setSeq t f) := x.plain
protected theorem setOwner {w : Option Tx} (x : Keeps g h) : Keeps g (h.setOwner o w) := x.plain
protected theorem setCol {f : Col → Col} (x : Keeps g h) : Keeps g (h.setCol o f) := x.plain
protected theorem setColCmd {c : ColCmd} (x : Keeps g h) : Keeps g (h.setColCmd o c) := x.plain
protected theorem setXpt {f : Xpt → Xpt} (x : Keeps g h) : Keeps g (h.setXpt t o f) := x.plain
protected theorem setDrvCmd {l : Fin 8} {c : DriveCmd} (x : Keeps g h) : Keeps g (h.setDrvCmd l c) := x.plain
protected theorem setQueue {l : List Motion} (x : Keeps g h) : Keeps g (h.setQueue l) := x.plain
protected theorem setSlot {i : Fin 4} {s : Option Slot} (x : Keeps g h) : Keeps g (h.setSlot i s) := x.plain
protected theorem mapSlots {f : Slot → Option Slot} (x : Keeps g h) : Keeps g (h.mapSlots f) := x.plain

end

/-- A stack within its bound. -/
protected theorem setStack {l : List StackItem} (x : Keeps g h)
    (w : (h.stack[t]).length ≤ Config.maxStack → l.length ≤ Config.maxStack) : Keeps g (h.setStack t l) :=
  x.moved ((Moves.refl h).setStack w)

/-- The deferral list within its bound. -/
protected theorem deferral {l : List DeferItem} (x : Keeps g h)
    (w : h.deferral.length ≤ Config.maxDeferral → l.length ≤ Config.maxDeferral) : Keeps g { h with deferral := l } :=
  x.moved ((Moves.refl h).deferral w)

/-- A bank's record: no more entries than the bound, its state as it was or neither ACTIVE nor RETIRING. -/
protected theorem setBank {f : Bank → Bank} (x : Keeps g h)
    (size : h.sizesOk → (f h.banks[n]).recs.length ≤ Config.maxEntries)
    (st : (f h.banks[n]).st = (h.banks[n]).st ∨ (f h.banks[n]).st ≠ .active ∧ (f h.banks[n]).st ≠ .retiring) :
    Keeps g (h.setBank n f) := by
  have back (s : BankState) (hs : s = .active ∨ s = .retiring) (m : BankNo) (w : ((h.setBank n f).banks[m]).st = s) :
      (h.banks[m]).st = s := by
    simp only [Hall.setBank_banks, get_upd] at w
    split at w
    · next q => subst q; rcases st with st | st <;> rcases hs with rfl | rfl <;> simp_all
    · exact w
  exact x.trans ⟨((Moves.refl h).setBank size).sizes, fun w => ⟨fun m k hm hk => w.active m k (back _ (.inl rfl) m hm)
    (back _ (.inl rfl) k hk), fun m k hm hk => w.retiring m k (back _ (.inr rfl) m hm) (back _ (.inr rfl) k hk)⟩, id⟩

/-- A positioner's record, on the line it was. -/
protected theorem mapPos {f : Pos → Pos} (x : Keeps g h) (w : ∀ p, (f p).line = p.line := by exact fun _ => rfl) :
    Keeps g (h.mapPos o f) := by
  refine x.trans ⟨((Moves.refl h).mapPos).sizes, banks_of fun _ => rfl, lines_of fun p q hq => ?_⟩
  simp only [Hall.mapPos_path, get_upd] at hq
  split at hq
  · next s =>
    subst s
    obtain ⟨r, hr, rfl⟩ := Option.map_eq_some_iff.1 hq
    exact ⟨r, hr, (w r).symm⟩
  · exact ⟨q, hq, rfl⟩

/-! ### Ops -/

theorem addRecord_other (sec : Seconds) (r : Report) (blocking : Bool) (displaced : Option Nat) (h : Hall) :
    (addRecord sec r blocking displaced h).banks = h.banks ∧ (addRecord sec r blocking displaced h).path = h.path := ⟨rfl, rfl⟩

theorem report_other (e : Env) (r : Report) (h : Hall) : (report e r h).banks = h.banks ∧ (report e r h).path = h.path := by
  unfold report
  dsimp only
  split
  · exact ⟨rfl, rfl⟩
  · split
    · exact addRecord_other ..
    · split
      · exact ⟨rfl, rfl⟩
      · split
        · exact ⟨rfl, rfl⟩
        · exact addRecord_other ..

protected theorem report {r : Report} (x : Keeps g h) : Keeps g (report e r h) :=
  x.moved (report_moves (Moves.refl h)) (report_other e r h).1 (by rw [(report_other e r h).2])

protected theorem reportTx {k : FaultKind} {d : Option Detail} (x : Keeps g h) : Keeps g (reportTx e k t d h) := x.report

protected theorem reportOut {k : FaultKind} {d : Detail} (x : Keeps g h) : Keeps g (reportOut e k o d h) := x.report

protected theorem reportAsg {k : FaultKind} {d : Option Detail} {withFreq : Bool} (x : Keeps g h) :
    Keeps g (reportAsg e k t d withFreq h) := by
  unfold reportAsg
  split
  · split
    · exact x.report
    · exact x.reportTx
  · exact x.reportTx

/-! ### Banks -/

protected theorem bankNotice (x : Keeps g h) : Keeps g (bankNotice n h) := x.note

protected theorem spendBank (x : Keeps g h) : Keeps g (spendBank n h) :=
  .bankNotice (x.setBank (fun s => s.banks n) (.inr (by simp)))

protected theorem retireNow (x : Keeps g h) : Keeps g (retireNow n h) := .ite x.spendBank x

protected theorem retireCheck (x : Keeps g h) : Keeps g (retireCheck n h) := .ite x x.retireNow

/-! ### Supervisor -/

protected theorem setTxState {new : TxState} {c : TxCause} (x : Keeps g h) : Keeps g (setTxState t new c h) := by
  unfold setTxState
  exact .ite x (.ite x.setTx.note.wantAlloc x.setTx.note)

protected theorem overtaken {o : Order} (x : Keeps g h) : Keeps g (overtaken t o h) := .ite x.mapAsg x

protected theorem overtakeOut {p : Order → Bool} (x : Keeps g h) : Keeps g (overtakeOut t p h) := by
  unfold overtakeOut
  split
  · exact .ite x.setTx.overtaken x
  · exact x

protected theorem overtakePend {p : Order → Bool} (x : Keeps g h) : Keeps g (overtakePend t p h) := by
  unfold overtakePend
  split
  · exact .ite x.setTx.overtaken x
  · exact x

protected theorem ordersOver (x : Keeps g h) : Keeps g (ordersOver t h) := x.overtakeOut.overtakePend

protected theorem makePending {o : Order} (x : Keeps g h) : Keeps g (makePending t o h) := x.overtakePend.setTx

protected theorem queueLower {byTrip : Bool} (x : Keeps g h) : Keeps g (queueLower t byTrip h) := by
  unfold queueLower
  refine .ite (.ite x.setTx x) ?_
  dsimp only
  split
  · exact x.overtakeOut.overtakePend.setTx
  · exact x.overtakeOut.overtakePend.makePending

protected theorem handLower {byTrip : Bool} (x : Keeps g h) : Keeps g (handLower e t byTrip h) := by
  unfold handLower
  refine .ite x ?_
  split
  iterate 2 exact x
  iterate 5 exact .ite x.queueLower x
  exact x.queueLower

protected theorem handClear (x : Keeps g h) : Keeps g (handClear e t h) := by
  unfold handClear
  refine .ite x ?_
  dsimp only
  split
  · exact x.setTx
  · exact x.makePending

protected theorem withdrawRaise (x : Keeps g h) : Keeps g (withdrawRaise t h) := x.setTx

protected theorem repower {kw : Nat} (x : Keeps g h) : Keeps g (repower t kw h) := x.setTx

protected theorem noHandBack {p : OrderKind → Bool} (x : Keeps g h) : Keeps g (noHandBack t p h) := x.setTx

protected theorem dropHandBack (x : Keeps g h) : Keeps g (dropHandBack t h) := x.noHandBack

/-! ### Sequences -/

protected theorem leaveQueued (x : Keeps g h) : Keeps g (leaveQueued t h) := x.setQueue

protected theorem cancelSeq (x : Keeps g h) : Keeps g (cancelSeq t h) := .ite x (.ite x.leaveQueued.setSeq x.leaveQueued.setSeq)

protected theorem outAvailable (x : Keeps g h) : Keeps g (outAvailable o h) := .ite x.wantAlloc x

protected theorem outBecomes {old now : OutState} (x : Keeps g h) : Keeps g (outBecomes old now h) := .ite x.wantAlloc x

protected theorem release (x : Keeps g h) : Keeps g (release o h) := x.setOwner.outAvailable

protected theorem rowOpened (x : Keeps g h) : Keeps g (rowOpened t o h) := by
  unfold rowOpened
  refine .ite ?_ x
  split
  · exact .ite x x.release
  · exact x.release

protected theorem dropBreak (x : Keeps g h) : Keeps g (dropBreak t o h) := x.setQueue

protected theorem xptChangeTo {st : XState} {c : XCause} {after : Hall → OutState} (x : Keeps g h) :
    Keeps g (xptChangeTo t o st c after h) := .ite x (Keeps.ite x.setXpt.dropBreak.rowOpened x.setXpt).note.outBecomes

protected theorem xptChange {st : XState} {c : XCause} {fault : Bool} (x : Keeps g h) : Keeps g (xptChange t o st c fault h) :=
  x.xptChangeTo

protected theorem posChangeTo {st : PosState} {c : PosCause} {after : Hall → OutState} (x : Keeps g h) :
    Keeps g (posChangeTo o st c after h) := (x.mapPos (f := fun p => { p with st := st })).note

protected theorem posChange {st : PosState} {c : PosCause} {fault : Bool} (x : Keeps g h) : Keeps g (posChange o st c fault h) :=
  x.posChangeTo

/-! ### Ends -/

protected theorem pushStack {it : Item} {r : StackReason} (x : Keeps g h) : Keeps g (pushStack e t it r h) := by
  unfold pushStack
  extract_lets new l keep out k
  split
  · exact x.setStack fun _ => by simpa using ‹l.length < Config.maxStack›
  · refine Keeps.each ?_ fun y => y.note.retireCheck
    exact Keeps.wantAlloc (x.setStack fun _ => by simp [keep, Config.maxStack])

protected theorem deferItem {it : Item} {r : DeferReason} (x : Keeps g h) : Keeps g (deferItem e it r h) := by
  unfold deferItem
  split
  · exact Keeps.note (x.deferral fun _ => by rw [insertItem_length]; exact ‹h.deferral.length < Config.maxDeferral›)
  · exact x.report.note

protected theorem passClaim (x : Keeps g h) : Keeps g (passClaim t o h) := by
  unfold passClaim
  split
  · exact x.setOwner.mapAsg
  · exact x.release

protected theorem clearAwaits (x : Keeps g h) : Keeps g (clearAwaits t h) := x.plain

protected theorem completeEnd (x : Keeps g h) : Keeps g (completeEnd e t h) := by
  unfold completeEnd
  split
  · exact x
  · split
    · extract_lets item passed k₁ k₂ k₃ k₄ k₅ k₆
      clear_value item
      have x₁ : Keeps g k₁ := by
        unfold k₁
        split
        · exact .ite x x.pushStack
        · exact x
      have x₄ : Keeps g k₄ := Keeps.note (Keeps.clearAwaits (Keeps.setAsg (x₁.each fun y => y.passClaim)))
      have x₅ : Keeps g k₅ := by
        unfold k₅
        split
        · exact .ite x₄.note x₄
        · exact .ite x₄ x₄.deferItem
        · exact x₄
      have x₆ : Keeps g k₆ := by
        unfold k₆
        split
        · exact x₅.retireCheck
        · exact x₅
      exact x₆.wantAlloc
    · exact x

protected theorem tryEnd (x : Keeps g h) : Keeps g (tryEnd e t h) := by
  unfold tryEnd
  split
  · exact x
  · exact .ite x (.ite x.completeEnd (.ite x x.handLower))

protected theorem endAsg {oc : EndOutcome} {after : After} (x : Keeps g h) : Keeps g (endAsg e t oc after h) := by
  unfold endAsg
  split
  · exact x
  · exact .ite x x.setAsg.withdrawRaise.dropHandBack.cancelSeq.tryEnd

protected theorem abortAsg (x : Keeps g h) : Keeps g (abortAsg e t h) := by
  unfold abortAsg
  split
  · exact x
  · exact .ite x.setAsg x.endAsg

protected theorem failSeq (x : Keeps g h) : Keeps g (failSeq e t h) := x.endAsg.cancelSeq

protected theorem pushAsg {a : Asg} {r : StackReason} (x : Keeps g h) : Keeps g (pushAsg e t a r h) := by
  unfold pushAsg
  split
  · exact .ite x x.pushStack
  · exact x

protected theorem engineLocal (x : Keeps g h) : Keeps g (engineLocal e t h) := by
  unfold engineLocal
  split
  · exact x
  · exact x.setAsg.dropHandBack.cancelSeq.completeEnd

protected theorem engineLockout (x : Keeps g h) : Keeps g (engineLockout e t h) := x.endAsg

protected theorem engineLowerTimeout (x : Keeps g h) : Keeps g (engineLowerTimeout e t h) := x.mapAsg.tryEnd

protected theorem itemsLeave {nt : Occ → NoticeBody} {l : List StackItem} (x : Keeps g h) : Keeps g (itemsLeave nt l h) := by
  induction l generalizing h with
  | nil => exact x
  | cons i l ih => exact ih (.ite x.note x.note.retireCheck)

protected theorem dropStack {p : Item → Bool} {nt : Occ → NoticeBody} (x : Keeps g h) : Keeps g (dropStack t p nt h) := by
  unfold dropStack
  refine .ite x (Keeps.itemsLeave (Keeps.wantAlloc (x.setStack fun w => ?_)))
  exact (List.length_filter_le ..).trans w

protected theorem dropDeferral {p : Item → Bool} {nt : Occ → NoticeBody} (x : Keeps g h) : Keeps g (dropDeferral p nt h) :=
  Keeps.notes (x.deferral fun w => (List.length_filter_le ..).trans w)

/-! ### Freq -/

protected theorem reportExcluded {occ : Occ} {f : Nat} {p : CheckPoint} {a : CheckAnswer} (x : Keeps g h) :
    Keeps g (reportExcluded e occ f p a h) := x.report

protected theorem reportRefusal {p : CheckPoint} {a : CheckAnswer} (x : Keeps g h) : Keeps g (reportRefusal e t p a h) := by
  unfold reportRefusal
  split
  · exact x
  · split
    · exact x.reportExcluded
    · exact x.report

protected theorem endRefused (x : Keeps g h) : Keeps g (endRefused e t h) := x.endAsg

protected theorem refuseAsg {p : CheckPoint} {a : CheckAnswer} (x : Keeps g h) : Keeps g (refuseAsg e t p a h) :=
  x.reportRefusal.endRefused

protected theorem sweepOf {l : List (Tx × CheckAnswer)} (x : Keeps g h) : Keeps g (sweepOf e l h) :=
  Keeps.each (x.each fun y => y.reportRefusal) fun y => y.endRefused

protected theorem sweep (x : Keeps g h) : Keeps g (sweep e h) := x.sweepOf

protected theorem sweepErased (x : Keeps g h) : Keeps g (sweepErased e h) := x.sweepOf

/-! ### Paths -/

protected theorem pathComplete (x : Keeps g h) : Keeps g (pathComplete t h) := x.mapAsg

protected theorem pathRequest {w : Target} (x : Keeps g h) : Keeps g (pathRequest e t w h) := by
  unfold pathRequest
  refine .ite x.failSeq ?_
  split
  · exact .ite x.failSeq (.ite x.pathComplete x.setSeq)
  · exact x.setSeq
  · exact x.setSeq
  · exact x.leaveQueued.setSeq
  · exact x.leaveQueued.setSeq
  · exact x.setSeq
  · exact x.setSeq

protected theorem joinOrQueue {k : MotionKind} (x : Keeps g h) : Keeps g (joinOrQueue t k h) :=
  .ite x.setQueue (.ite x.mapSlots x.plain)

protected theorem seqStep (x : Keeps g h) : OKeeps g (seqStep e t h) := by
  unfold seqStep
  dsimp only
  split
  · exact .none
  · refine .ite .none ?_
    split
    · exact .some x.setSeq
    · exact .some x.setSeq
  · exact .ite (.some x.setSeq) .none
  · exact .some x.setSeq
  · exact .ite (.some x.failSeq) (.ite .none (.ite (.some x.failSeq) (.some x.setSeq)))
  · exact .ite (.some x.failSeq) (.ite (.some (x.setSeq.each fun y => y.joinOrQueue)) .none)
  · exact .ite (.some x.failSeq) (.ite (.some x.setSeq) .none)
  · refine .ite (.some x.failSeq) (.ite (.some x.joinOrQueue) (.ite ?_ (.ite (.some x.setSeq.pathComplete) .none)))
    split
    · exact .ite .none (.ite .none (.some x.joinOrQueue))
    · exact .none

protected theorem startMotion {k : MotionKind} (x : Keeps g h) : Keeps g (startMotion e k h).1 := by
  unfold startMotion
  split
  · exact x.setXpt.setColCmd.outBecomes
  · exact x.setXpt.setColCmd
  · split
    · exact x
    · exact (x.mapPos (f := fun p => { p with st := .slewing _ })).setDrvCmd

protected theorem grantStep (x : Keeps g h) : OKeeps g (grantStep e h) := by
  unfold grantStep
  split
  · exact .some x.setQueue.startMotion.setSlot
  · exact .none

protected theorem colStep (x : Keeps g h) : OKeeps g (colStep e o h) := by
  unfold colStep
  refine .ite .none ?_
  dsimp only
  split
  · exact .ite .none (.some x.setCol.setColCmd)
  · exact .ite .none (.some x.setCol.setColCmd)
  · exact .none

protected theorem queryStep (x : Keeps g h) : OKeeps g (queryStep e o h) := by
  unfold queryStep
  split
  · exact .none
  · split
    · exact .none
    · exact .ite .none (.some (x.mapPos (f := fun p => { p with job := some _ })).setDrvCmd)

protected theorem beginRead {clear : Bool} {now : Ms} (x : Keeps g h) : Keeps g (beginRead o clear now h) := x.mapPos

/-! ### Permits -/

protected theorem waiterFails (x : Keeps g h) : Keeps g (waiterFails e t h) := by
  unfold waiterFails
  split
  · exact x.failSeq
  · exact x.failSeq
  · exact x

protected theorem hotWaiters {l : List Tx} (x : Keeps g h) : Keeps g (hotWaiters e t l h) :=
  x.each fun y => .ite y.cancelSeq y.waiterFails

protected theorem hotThrows (x : Keeps g h) : Keeps g (hotThrows e t h) := by
  refine x.each fun {s k} y => ?_
  dsimp only
  split
  · exact .ite y y.mapSlots.xptChange.reportOut.hotWaiters
  · exact .ite y y.mapSlots.xptChange.reportOut.hotWaiters
  · exact y

protected theorem hotSlews {fed : List Out} (x : Keeps g h) : Keeps g (hotSlews e t fed h) := by
  refine x.each fun {s k} y => ?_
  dsimp only
  split
  · exact .ite y y.mapSlots.posChange.reportOut.hotWaiters
  · exact y

protected theorem hotSwitch {contact : Bool} (x : Keeps g h) : Keeps g (hotSwitch e t contact h) :=
  x.setTxState.overtakeOut.overtakePend.reportTx.handLower.hotThrows.hotSlews.engineLockout.setTx

protected theorem lockoutTrips (x : Keeps g h) : Keeps g (lockoutTrips e t h) := by
  unfold lockoutTrips
  extract_lets w k₁ k₂ k₃ k₄ k₅
  have x₄ : Keeps g k₄ := x.setTxState.overtakePend.dropHandBack.reportAsg
  have x₅ : Keeps g k₅ := by
    unfold k₅
    split
    · exact .ite x₄.report x₄
    · exact x₄
  exact x₅.setTx.engineLockout

protected theorem takeBackPermit (x : Keeps g h) : Keeps g (takeBackPermit e t h) :=
  .ite x.hotSwitch (.ite x.setTx x.setTx.reportTx)

protected theorem takeBackStep (x : Keeps g h) : OKeeps g (takeBackStep e t h) := .ite (.some x.takeBackPermit) .none

protected theorem permitStep (x : Keeps g h) : OKeeps g (permitStep e t h) := by
  unfold permitStep
  dsimp only
  split
  · exact .ite .none (.some x.setTx)
  · exact .ite (.some x.setTx) (.ite (.some x.setTx) .none)
  · exact .ite .none (.ite (.some x.setTx) (.ite (.some x.setTx) (.ite (.some x.setTx) .none)))

/-! ### Trips -/

protected theorem windowLeave {l : List TripEntry} (x : Keeps g h) : Keeps g (windowLeave t l h) := x.mapAsg

protected theorem addTrip {c : TripCause} (x : Keeps g h) : Keeps g (addTrip e t c h) := x.moved (addTrip_moves (Moves.refl h))

protected theorem expireWindow (x : Keeps g h) : Keeps g (expireWindow e t h) := x.moved (expireWindow_moves (Moves.refl h))

protected theorem emptyWindow (x : Keeps g h) : Keeps g (emptyWindow t h) := x.moved (emptyWindow_moves (Moves.refl h))

protected theorem engineTrip {counted : Bool} (x : Keeps g h) : Keeps g (engineTrip e t counted h) := x.mapAsg

protected theorem trip {c : TripCause} (x : Keeps g h) : Keeps g (trip e t c h) := by
  unfold trip
  extract_lets counted k₁ k₂ k₃ k₄ k₅
  have x₃ : Keeps g k₃ := (Keeps.ite x.setTxState x.setTxState.reportAsg).overtakeOut.overtakePend
  have x₄ : Keeps g k₄ := by
    unfold k₄
    split
    iterate 4 exact x₃.handLower
    exact x₃
  exact (Keeps.ite x₄.addTrip x₄).engineTrip.setTx

protected theorem tripLowering {c : CabTrip} (x : Keeps g h) : Keeps g (tripLowering e t c h) := x.setTxState.reportTx.handClear

protected theorem tripUncounted {c : TxCause} (x : Keeps g h) : Keeps g (tripUncounted e t c h) := x.setTxState.handClear

protected theorem rfUnexpected (x : Keeps g h) : Keeps g (rfUnexpected e t h) := x.reportTx.handLower

protected theorem rederive {before : Option TxState} {c : TxCause} (x : Keeps g h) : Keeps g (rederive e t before c h) := by
  unfold rederive
  split
  · exact x
  · refine .ite x.setTxState (.ite x.setTxState.overtakeOut.overtakePend (.ite (.ite x.setTxState x.setTxState.rfUnexpected) ?_))
    split
    · exact .ite x.trip x.tripUncounted
    · exact x.setTxState

/-! ### Orders -/

section
variable {od : Order}

protected theorem declined {r : DeclineReason} {st : Option TxState} (x : Keeps g h) : Keeps g (declined e t od r st h) := by
  unfold declined
  refine .ite ?_ x.reportTx
  split
  iterate 3 exact x.reportTx.endAsg
  exact x.reportTx

protected theorem clearFailed (x : Keeps g h) : Keeps g (clearFailed e t h) := .ite x.trip x

protected theorem clearDeclined (x : Keeps g h) : Keeps g (clearDeclined e t od h) := .ite x.clearFailed x

protected theorem declineUnsent (x : Keeps g h) : Keeps g (declineUnsent e t od h) := x.declined.clearDeclined

protected theorem handOrder {k : OrderKind} (x : Keeps g h) : Keeps g (handOrder e t k h) := by
  unfold handOrder
  dsimp only
  split
  · exact x.overtaken
  · exact x.overtaken
  · exact x.makePending
  · exact .ite x.declineUnsent (.ite x.makePending x.setTx)

protected theorem pendStep (x : Keeps g h) : OKeeps g (pendStep e t h) := by
  unfold pendStep
  dsimp only
  split
  · split
    · exact .some x.setTx.overtaken
    · exact .some x.setTx.overtaken
    · exact .ite (.some x.setTx) .none
    · exact .ite (.ite (.some x.setTx) (.some x.setTx)) (.ite (.some x.setTx.declineUnsent) (.ite .none (.some x.setTx)))
  · exact .none

end

section
variable {a : Asg}

protected theorem askPath (x : Keeps g h) : Keeps g (askPath e t a h) := x.mapAsg.pathRequest

protected theorem askTune (x : Keeps g h) : Keeps g (askTune e t a h) := by
  unfold askTune
  split
  · exact x.handOrder.mapAsg
  · exact x.refuseAsg

protected theorem askRaise (x : Keeps g h) : Keeps g (askRaise e t a h) := by
  unfold askRaise
  split
  · exact x.mapAsg.handOrder
  · exact x.refuseAsg

protected theorem goOnAir {late : Bool} (x : Keeps g h) : Keeps g (goOnAir e t late h) := x.mapAsg

protected theorem muteAsg (x : Keeps g h) : Keeps g (muteAsg e t a h) := .ite x.endAsg x.withdrawRaise.mapAsg

protected theorem claimStep (x : Keeps g h) : OKeeps g (claimStep t a h) := .ite .none (.some x.setOwner.mapAsg)

protected theorem workStep (x : Keeps g h) : OKeeps g (workStep e t a h) := by
  unfold workStep
  refine .ite (.some x.askPath) (.ite (.some x.handOrder) (.ite (.some x.askTune) (.ite (.some x.mapAsg) (.ite ?_ .none))))
  split
  · exact .ite .none (.ite (.some x.mapAsg) (.some x.goOnAir))
  · exact .ite (.some x.mapAsg) (.some x.goOnAir)
  · exact .none

end

protected theorem endStep (x : Keeps g h) : OKeeps g (endStep e t h) := by
  unfold endStep
  split
  · exact .none
  · exact .ite (.some x.completeEnd) .none

protected theorem driveStep (x : Keeps g h) : OKeeps g (driveStep e t h) := by
  unfold driveStep
  split
  · exact .none
  · refine .ite (.ite .none (.ite (.some x.handLower) .none)) ?_
    split
    · next k q => exact .some (x.claimStep k q)
    · exact .ite (.some x.muteAsg) (.ite (.ite (.some x.goOnAir) (.some x.mapAsg)) (.ite (.some x.handLower) (.ite x.workStep
        (.ite (.some x.askRaise) (.ite (.some x.askRaise) .none)))))

/-! ### Engine -/

protected theorem takeOff (x : Keeps g h) : Keeps g (takeOff e t o h) := x.endAsg

protected theorem repowerRetry {viaHold : Bool} {a : Asg} (x : Keeps g h) : Keeps g (repowerRetry e t viaHold a h) :=
  .ite x (.ite x.repower x.refuseAsg)

protected theorem recompute {viaHold mayAwait : Bool} (x : Keeps g h) : Keeps g (recompute e t viaHold mayAwait h) := by
  unfold recompute
  split
  · exact x
  · refine .ite x (.ite ?_ x.mapAsg.takeOff)
    extract_lets k₁ awaited k₂ src b k₃
    have x₁ : Keeps g k₁ := .ite x.mapAsg.release x
    have x₃ : Keeps g k₃ := Keeps.setAsg (.ite x₁.setOwner x₁)
    exact .ite x₃.withdrawRaise (.ite x₃.repowerRetry x₃)

protected theorem recomputeHold {a : Aspect} {mayAwait : Bool} (x : Keeps g h) : Keeps g (recomputeHold e t a mayAwait h) :=
  .ite x x.recompute

protected theorem recomputeFold (x : Keeps g h) : Keeps g (recomputeFold e h) := x.each fun y => .ite y.recompute y

protected theorem displace (x : Keeps g h) : Keeps g (displace e t o h) := by
  unfold displace
  split
  · exact .ite x.endAsg x
  · exact x

protected theorem cancelWaits (x : Keeps g h) : Keeps g (cancelWaits e t o h) := x.each fun y => .ite y.takeOff y

protected theorem holdOnForeign {a : Aspect} {enabled : Bool} (x : Keeps g h) : Keeps g (holdOnForeign e t a enabled h) :=
  .ite x.endAsg x

protected theorem setHoldValue {v : HoldValue} {c : HoldCause} (x : Keeps g h) : Keeps g (setHold e t v c h) := by
  unfold setHold
  refine .ite x ?_
  extract_lets k₁ k₂ k₃ k₄ k₅
  have x₁ : Keeps g k₁ := x.setHold
  have x₂ : Keeps g k₂ := by
    unfold k₂
    split
    · exact .ite x₁ x₁.outAvailable
    · exact x₁
  have x₃ : Keeps g k₃ := x₂.note
  have x₄ : Keeps g k₄ := by
    unfold k₄
    split
    · exact x₃.displace.cancelWaits
    · exact x₃
  have x₅ : Keeps g k₅ := x₄.holdOnForeign.recomputeHold
  exact .ite x₅.wantAlloc x₅

protected theorem clearHold {a : Aspect} {c : HoldCause} (x : Keeps g h) : Keeps g (clearHold e t a c h) := by
  unfold clearHold
  refine .ite x ?_
  extract_lets k₁ k₂
  have x₁ : Keeps g k₁ := x.setHold
  have x₂ : Keeps g k₂ := by
    unfold k₂
    split
    · exact x₁.outAvailable
    · exact x₁
  exact x₂.note.recomputeHold.wantAlloc

protected theorem recomputeReset {power : Bool} (x : Keeps g h) : Keeps g (recomputeReset e t power h) := .ite x x.recompute

protected theorem resetHold (x : Keeps g h) : Keeps g (resetHold e t h) := by
  unfold resetHold
  refine .ite x ?_
  extract_lets k₁ k₂
  have x₁ : Keeps g k₁ := x.setHold.note
  have x₂ : Keeps g k₂ := by
    unfold k₂
    split
    · exact x₁.outAvailable
    · exact x₁
  exact x₂.recomputeReset.wantAlloc

/-! ### Admission -/

protected theorem createAsg {it : Item} {base eff : Params} {origin : Origin} (x : Keeps g h) :
    Keeps g (createAsg t it base eff origin h) := x.beginAsg.setOwner.note

protected theorem preempt {it : Item} {base eff : Params} (x : Keeps g h) : Keeps g (preempt e t it base eff h) := by
  unfold preempt
  extract_lets o awaits new k₁ k₂ k₃
  clear_value awaits
  have x₁ : Keeps g k₁ := by
    unfold k₁
    split
    · extract_lets l₁ l₂ drop l₃ l₄ l₅
      have y : Keeps g l₅ := Keeps.note (Keeps.clearAwaits
        (x.pushAsg.withdrawRaise.dropHandBack.cancelSeq.beginAsg.each fun y => y.release))
      split
      · exact y.retireCheck
      · exact y
    · exact x.beginAsg
  have x₃ : Keeps g k₃ := (Keeps.ite x₁ x₁.setOwner).note
  split
  · exact x₃.endAsg
  · exact x₃

protected theorem allocateNew {it : Item} {en : Entry} (x : Keeps g h) : Keeps g (allocateNew e it en h) := by
  unfold allocateNew
  dsimp only
  split
  · split
    · exact x.deferItem
    · exact x.deferItem
    · exact x.createAsg
    · exact .ite x.preempt x.deferItem
  · exact x.reportExcluded.note

/-- The mark of an entry. -/
protected theorem markBank {id : Nat} {m : Minutes} (x : Keeps g h) : Keeps g (h.setBank n fun b => b.mark id m) :=
  x.setBank (fun s => by simpa [Bank.mark] using s.banks n) (.inl rfl)

protected theorem admitCand {c : Cand} (x : Keeps g h) : Keeps g (admitCand e n c h) := by
  unfold admitCand
  split
  · exact x
  · exact .ite x.markBank.allocateNew x

protected theorem scan (x : Keeps g h) : Keeps g (scan e h) := by
  unfold scan
  refine .ite x ?_
  split
  · exact x
  · exact x.each fun y => y.admitCand

protected theorem leaveWait {c : RunCand} (x : Keeps g h) : Keeps g (leaveWait c h) := by
  unfold leaveWait
  refine .ite (x.setStack fun w => ?_) (x.deferral fun w => (List.length_filter_le ..).trans w)
  simp only [List.length_tail]
  omega

protected theorem reworkReasons {k : Tables} (x : Keeps g h) : Keeps g (reworkReasons k h) := x.deferral fun w => by simpa using w

protected theorem runWalk (x : Keeps g h) : OKeeps g (runWalk e h) := by
  unfold runWalk
  split
  · exact .none
  · split
    · exact .none
    · dsimp only
      split
      · exact .some x.leaveWait.createAsg
      · exact .some x.leaveWait.reportExcluded.note.retireCheck

protected theorem runStep (x : Keeps g h) : OKeeps g (runStep e h) := by
  unfold runStep
  refine .ite .none (.ite (.some x.plain) ?_)
  dsimp only
  split
  · next k q => exact .some (x.reworkReasons.runWalk k q)
  · exact .some x.reworkReasons.plain

end Keeps
end
end Sys2Proof.Machine

namespace Sys2Proof.Machine

set_option Elab.async false
section
variable {g h : Hall} {e : Env} {t : Tx} {o : Out} {n : BankNo}

/-! ### Changeovers -/

/-- Banks at most retire: some that were RETIRING are SPENT. -/
def Spends (g h : Hall) : Prop := ∀ m : BankNo, Retires g.banks[m] h.banks[m]

namespace Spends

theorem refl (h : Hall) : Spends h h := fun _ => .inl rfl

theorem trans {k : Hall} (x : Spends g h) (y : Spends h k) : Spends g k := fun m => (x m).trans (y m)

theorem same {k : Hall} (x : Spends g h) (b : k.banks = h.banks := by rfl) : Spends g k := fun m => by rw [b]; exact x m

theorem each {α : Type} {l : List α} {f : α → Hall → Hall} (x : Spends g h) (y : ∀ a k, Spends k (f a k)) : Spends g (h.each l f) := by
  induction l generalizing h with
  | nil => exact x
  | cons a l ih => exact ih (x.trans (y a h))

/-- A bank that is not SPENT has been in its state before. -/
theorem back (x : Spends g h) {m : BankNo} (w : (h.banks[m]).st ≠ .spent) : h.banks[m] = g.banks[m] := by
  rcases x m with q | ⟨_, q⟩
  · exact q
  · rw [q] at w; exact absurd rfl w

/-- A bank that was not RETIRING is as it was. -/
theorem forth (x : Spends g h) {m : BankNo} (w : (g.banks[m]).st ≠ .retiring) : h.banks[m] = g.banks[m] := by
  rcases x m with q | ⟨r, _⟩
  · exact q
  · exact absurd r w

protected theorem recs (x : Spends g h) (m : BankNo) : (h.banks[m]).recs = (g.banks[m]).recs := by
  rcases x m with q | ⟨_, q⟩ <;> rw [q]

protected theorem retireCheck : Spends h (retireCheck n h) := (retireCheck_ends (Ends.refl (fun _ => True) h)).banks

protected theorem endAsg {oc : EndOutcome} : Spends h (endAsg e t oc .nothing h) :=
  (endAsg_ends (Ends.refl (fun _ => True) h) trivial).banks

protected theorem itemsLeave {nt : Occ → NoticeBody} {l : List StackItem} (x : Spends g h) : Spends g (itemsLeave nt l h) := by
  induction l generalizing h with
  | nil => exact x
  | cons i l ih =>
    refine ih ?_
    split
    · exact x.same
    · exact (x.same (k := h.note (nt i.item.occ))).trans Spends.retireCheck

protected theorem dropStack {p : Item → Bool} {nt : Occ → NoticeBody} : Spends h (dropStack t p nt h) := by
  unfold dropStack
  dsimp only
  split
  · exact .refl h
  · exact Spends.itemsLeave (Spends.same (.refl h))

end Spends

/-- R14 step 1: what the end of the RETIRING bank `r` does, before its notice. -/
def retireRest (e : Env) (r : BankNo) (h : Hall) : Hall :=
  let mine (a : Asg) : Bool := a.sched.any fun s => decide (s.occ.bank = r)
  let k := { h.setBank r fun b => { b with st := .spent } with
    asg := h.asg.map fun (a : Option Asg) => a.map fun x => if mine x then { x with counts := false } else x }
  (k.each allTx fun t k => if (k.asg[t]).any mine then endAsg e t .changeover .nothing k else k).each allTx fun t k =>
    dropStack t (fun i => decide (i.occ.bank = r)) .changeover k

theorem clearRetiring_none (w : retiringBank h = none) : clearRetiring e h = h := by
  unfold clearRetiring; rw [w]

theorem clearRetiring_some {r : BankNo} (w : retiringBank h = some r) : clearRetiring e h = bankNotice r (retireRest e r h) := by
  unfold clearRetiring; rw [w]; rfl

theorem retireRest_spends {r : BankNo} : Spends (h.setBank r fun b => { b with st := .spent }) (retireRest e r h) := by
  unfold retireRest
  refine Spends.each (Spends.each (Spends.same (.refl _)) fun t k => ?_) fun t k => .dropStack
  split
  · exact .endAsg
  · exact .refl k

theorem retiringBank_some {r : BankNo} (w : retiringBank h = some r) : (h.banks[r]).st = .retiring := by
  simpa using List.find?_some w

theorem retiringBank_eq_none (w : retiringBank h = none) (m : BankNo) : (h.banks[m]).st ≠ .retiring := by
  simpa using List.find?_eq_none.1 w m (by simp)

theorem activeBank_some {r : BankNo} (w : activeBank h = some r) : (h.banks[r]).st = .active := by
  simpa using List.find?_some w

theorem activeBank_eq_none (w : activeBank h = none) (m : BankNo) : (h.banks[m]).st ≠ .active := by
  simpa using List.find?_eq_none.1 w m (by simp)

/-- R14 step 1 leaves no bank RETIRING, and every other bank as it was. -/
theorem clearRetiring_banks (w : h.banksOk) (m : BankNo) :
    ((clearRetiring e h).banks[m]).st ≠ .retiring ∧
    ((h.banks[m]).st ≠ .retiring → (clearRetiring e h).banks[m] = h.banks[m]) := by
  cases q : retiringBank h with
  | none =>
    rw [clearRetiring_none q]
    exact ⟨retiringBank_eq_none q m, fun _ => rfl⟩
  | some r =>
    have hr := retiringBank_some q
    rw [clearRetiring_some q]
    have at_ : ((h.setBank r fun b => { b with st := .spent }).banks[m]).st ≠ .retiring := by
      simp only [Hall.setBank_banks, get_upd]
      split
      · simp
      · next ne => exact fun v => ne (w.retiring r m hr v)
    have keep := (retireRest_spends (e := e)).forth at_
    rw [bankNotice, Hall.note_banks, keep]
    refine ⟨at_, fun v => ?_⟩
    have ne : r ≠ m := fun z => v (z ▸ hr)
    simp [Hall.setBank_banks, ne]

/-- R14 steps 2 and 3: what the changeover to bank `n` does to the ACTIVE bank `o`, before its record changes. -/
def retireItems (e : Env) (n o : BankNo) (h : Hall) : Hall :=
  let from_ := ((h.banks[n]).start).getD 0
  dropDeferral (fun i => decide (i.occ.bank = o)) .changeover (h.each allTx fun t k =>
    if (k.asg[t]).any fun a => a.sched.any fun s => decide (s.occ.bank = o) && decide (from_ ≤ s.start) then
      endAsg e t .changeover .nothing k
    else k)

theorem retireActive_none (w : activeBank h = none) : retireActive e n h = h := by
  unfold retireActive; rw [w]

/-- R14 step 3: the record of the bank `a` that was ACTIVE. -/
def retireBank (a : BankNo) (h : Hall) : Hall :=
  bankNotice a (h.setBank a fun b => { b with st := if hasRef a h then .retiring else .spent })

theorem retireActive_some {a : BankNo} (w : activeBank h = some a) :
    retireActive e n h = retireBank a (retireItems e n a h) := by
  unfold retireActive; rw [w]; rfl

theorem retireBank_st {a : BankNo} (m : BankNo) : ((retireBank a h).banks[m]).st =
    if a = m then (if hasRef a h then .retiring else .spent) else (h.banks[m]).st := by
  simp only [retireBank, bankNotice, Hall.note_banks, Hall.setBank_banks, get_upd]
  split <;> rfl

theorem dropDeferral_banks (p : Item → Bool) (nt : Occ → NoticeBody) (h : Hall) : (dropDeferral p nt h).banks = h.banks := rfl

theorem retireItems_spends {a : BankNo} : Spends h (retireItems e n a h) := by
  unfold retireItems
  refine Spends.same ?_ (dropDeferral_banks ..)
  refine Spends.each (.refl h) fun t k => ?_
  split
  · exact .endAsg
  · exact .refl k

/-- Where bank `a` is the ACTIVE one and none is RETIRING, its retirement leaves none ACTIVE and at most itself RETIRING. -/
theorem retireBank_banks {a : BankNo} {k : Hall} (w : h.banksOk) (none : ∀ m : BankNo, (h.banks[m]).st ≠ .retiring)
    (ha : (h.banks[a]).st = .active) (s : Spends h k) :
    (∀ m : BankNo, ((retireBank a k).banks[m]).st ≠ .active) ∧ (retireBank a k).banksOk := by
  have st (m : BankNo) : ((retireBank a k).banks[m]).st =
      if a = m then (if hasRef a k then .retiring else .spent) else (h.banks[m]).st := by
    rw [retireBank_st, s.forth (none m)]
  have active (m : BankNo) (ne : a ≠ m) : (h.banks[m]).st ≠ .active := fun v => ne (w.active a m ha v)
  refine ⟨fun m => ?_, ⟨fun m k hm _ => ?_, fun m k hm hk => ?_⟩⟩
  · rw [st]
    split
    · split <;> simp
    · exact active m ‹_›
  · rw [st] at hm
    split at hm
    · split at hm <;> cases hm
    · exact absurd hm (active m ‹_›)
  · rw [st] at hm hk
    split at hm
    · split at hk
      · exact (‹a = m›).symm.trans ‹a = k›
      · exact absurd hk (none k)
    · exact absurd hm (none m)

/-- R14 steps 2 and 3 leave no bank ACTIVE, and at most one RETIRING, where none was. -/
theorem retireActive_banks (w : h.banksOk) (none : ∀ m : BankNo, (h.banks[m]).st ≠ .retiring) :
    (∀ m : BankNo, ((retireActive e n h).banks[m]).st ≠ .active) ∧ (retireActive e n h).banksOk := by
  cases q : activeBank h with
  | none =>
    rw [retireActive_none q]
    exact ⟨activeBank_eq_none q, w⟩
  | some a =>
    rw [retireActive_some q]
    exact retireBank_banks w none (activeBank_some q) retireItems_spends

/-- R4, R14: a changeover leaves one bank ACTIVE and at most one RETIRING. -/
theorem changeover_banksOk (w : h.banksOk) (wc : (clearRetiring e h).banksOk) : (changeover e n h).banksOk := by
  obtain ⟨active, ok⟩ := retireActive_banks (e := e) (n := n) wc fun m => (clearRetiring_banks (e := e) w m).1
  have st (m : BankNo) : ((changeover e n h).banks[m]).st =
      if n = m then .active else ((retireActive e n (clearRetiring e h)).banks[m]).st := by
    simp only [changeover, bankNotice, Hall.note_banks, Hall.setBank_banks, get_upd]
    split <;> rfl
  refine ⟨fun m k hm hk => ?_, fun m k hm hk => ?_⟩
  · rw [st] at hm hk
    split at hm
    · split at hk
      · exact (‹n = m›).symm.trans ‹n = k›
      · exact absurd hk (active k)
    · exact absurd hm (active m)
  · rw [st] at hm hk
    split at hm
    · cases hm
    · split at hk
      · cases hk
      · exact ok.retiring m k hm hk

theorem retireBank_lines {a : BankNo} (w : h.linesOk) : (retireBank a h).linesOk := w

theorem changeover_eq : changeover e n h =
    bankNotice n ((retireActive e n (clearRetiring e h)).setBank n fun b => { b with st := .active }) := rfl

theorem changeover_lines (w : (retireActive e n (clearRetiring e h)).linesOk) : (changeover e n h).linesOk := by
  rw [changeover_eq]
  generalize retireActive e n (clearRetiring e h) = k at w
  exact w

namespace Keeps

protected theorem clearRetiring (x : Keeps g h) : Keeps g (clearRetiring e h) := by
  unfold clearRetiring
  split
  · exact x
  · extract_lets mine k₁ k₂ k₃ k₄
    have x₁ : Keeps g k₁ := x.setBank (fun s => s.banks _) (.inr (by simp))
    have x₂ : Keeps g k₂ := x₁.plain
    have x₃ : Keeps g k₃ := x₂.each fun y => .ite y.endAsg y
    have x₄ : Keeps g k₄ := x₃.each fun y => y.dropStack
    exact x₄.bankNotice

protected theorem retireItems {a : BankNo} (x : Keeps g h) : Keeps g (retireItems e n a h) := by
  unfold retireItems
  refine Keeps.dropDeferral ?_
  exact x.each fun y => .ite y.endAsg y

protected theorem changeover (x : Keeps g h) : Keeps g (changeover e n h) := by
  have c : Keeps h (clearRetiring e h) := (refl h).clearRetiring
  refine x.trans ⟨(changeover_moves (Moves.refl h)).sizes, fun w => changeover_banksOk w (c.banks w), fun w => ?_⟩
  have lines : ∀ k : Hall, k.linesOk → (retireActive e n k).linesOk := by
    intro k v
    cases q : activeBank k with
    | none => rwa [retireActive_none q]
    | some a => rw [retireActive_some q]; exact retireBank_lines ((refl k).retireItems.lines v)
  exact changeover_lines (lines _ (c.lines w))

protected theorem changeovers {k : Nat} (x : Keeps g h) : Keeps g (changeovers e k h) := by
  induction k generalizing h with
  | zero => exact x
  | succ k ih =>
    unfold changeovers
    split
    · exact ih x.changeover
    · exact x

protected theorem changeoverScan (x : Keeps g h) : Keeps g (changeoverScan e h) := x.changeovers.scan

protected theorem changeoverIfDue (x : Keeps g h) : Keeps g (changeoverIfDue e h) := .ite x.changeoverScan x

protected theorem endStopped (x : Keeps g h) : Keeps g (endStopped e h) := by
  refine x.each fun {t k} y => ?_
  split
  · exact .ite y.endAsg y
  · exact y

protected theorem expireItems (x : Keeps g h) : Keeps g (expireItems e h) := by
  unfold expireItems
  refine Keeps.dropDeferral ?_
  exact x.each fun y => y.dropStack

protected theorem startWaiting {late : Bool} (x : Keeps g h) : Keeps g (startWaiting e late h) := x.each fun y => y.mapAsg

protected theorem engineMinute (x : Keeps g h) : Keeps g (engineMinute e h) :=
  .ite x (.ite x.endStopped.expireItems.startWaiting.changeoverScan x.changeoverIfDue)

protected theorem engineStep (x : Keeps g h) : Keeps g (engineStep e h) :=
  .ite x.endStopped.expireItems.startWaiting.changeoverScan x.changeoverIfDue

/-! ### Changes -/

section
variable {c : Change} {en : Entry}

protected theorem amendRest {a : Asg} (x : Keeps g h) : Keeps g (amendRest e t a h) := .ite x.recompute x.mapAsg.takeOff

protected theorem amendAsg (x : Keeps g h) : Keeps g (amendAsg e c en t h) := by
  unfold amendAsg
  split
  · exact x
  · split
    · exact x
    · exact .ite x (.ite x.endAsg x.setAsg.amendRest)

protected theorem amendStack (x : Keeps g h) : Keeps g (amendStack e c en t h) := by
  unfold amendStack
  extract_lets mine k₁ out k₂
  have x₁ : Keeps g k₁ := x.dropStack
  have x₂ : Keeps g k₂ := Keeps.wantAlloc (x₁.setStack fun w => (List.length_filter_le ..).trans w)
  exact .ite (x₁.setStack fun w => by simpa using w) (.ite x₁ (x₂.each fun y => y.deferItem))

protected theorem amendDeferral (x : Keeps g h) : Keeps g (amendDeferral e c en h) :=
  have lines : (amendDeferral e c en h).path = h.path := rfl
  x.moved (amendDeferral_moves (Moves.refl h)) rfl (by rw [lines])

/-- A bank with an entry put into it, where there is room. -/
protected theorem putBank (x : Keeps g h) (w : h.sizesOk → ((h.banks[n]).find en.id).isSome = true ∨
    (h.banks[n]).recs.length < Config.maxEntries) : Keeps g (h.setBank n fun b => b.put en) :=
  x.setBank (fun s => put_length _ _ (w s) (s.banks n)) (.inl (by unfold Bank.put; split <;> rfl))

protected theorem removeBank {id : Nat} (x : Keeps g h) : Keeps g (h.setBank n fun b => b.remove id) :=
  x.setBank (fun s => (remove_length _ _).trans (s.banks n)) (.inl rfl)

protected theorem applyChange (x : Keeps g h) (w : h.sizesOk → ∀ en, c.kind ≠ .withdraw → c.entry = some en →
    ((h.banks[c.bank]).find en.id).isSome = true ∨ (h.banks[c.bank]).recs.length < Config.maxEntries) :
    Keeps g (applyChange e c h) := by
  unfold applyChange
  split
  · next k q => exact x.putBank fun s => w s _ (by simp [k]) q
  · next k q =>
    exact Keeps.amendDeferral (((x.putBank fun s => w s _ (by simp [k]) q).each fun y => y.amendAsg).each fun y => y.amendStack)
  · exact Keeps.dropDeferral ((x.removeBank.each fun y => y.endAsg).each fun y => y.dropStack)
  · exact x

/-- R24: a change that passes its examination puts its entry under an id that is held, or where there is room. -/
theorem room_of_validate {k : Tables} (q : validate k h c = none) (ok : c.idOk) (en : Entry) (kind : c.kind ≠ .withdraw)
    (entry : c.entry = some en) :
    ((h.banks[c.bank]).find en.id).isSome = true ∨ (h.banks[c.bank]).recs.length < Config.maxEntries := by
  rw [ok en entry]
  unfold validate at q
  rw [entry] at q
  cases kd : c.kind with
  | withdraw => exact absurd kd kind
  | add =>
    rw [kd] at q
    dsimp only at q
    split at q
    · cases q
    · split at q
      · cases q
      · exact .inr (by omega)
  | amend =>
    rw [kd] at q
    dsimp only at q
    split at q
    · exact .inl ‹_›
    · cases q

protected theorem popChange (x : Keeps g h) : Keeps g (popChange h) := x.moved (popChange_moves (Moves.refl h))

protected theorem rejectHead {r : RejectReason} (x : Keeps g h) : Keeps g (rejectHead c r h) := x.popChange.note

protected theorem examine {l : List Change} (x : Keeps g h) (q : h.changes = c :: l) : Keeps g (examine e c h) := by
  unfold examine
  extract_lets st work k₁
  refine .ite x.rejectHead ?_
  split
  · exact x.rejectHead
  · next v =>
    have x₁ : Keeps g k₁ := (x.applyChange fun s => room_of_validate v (s.changeIds c (by simp [q]))).popChange.note
    refine .ite (.ite x₁ x₁.wantAlloc) (x.moved (Moves.changes (Moves.refl h) fun s => ⟨by simp [q], fun d m => ?_⟩))
    rcases List.mem_cons.1 m with rfl | m
    · exact s.changeIds c (by simp [q])
    · exact s.changeIds d (List.mem_of_mem_tail m)

protected theorem changeStep (x : Keeps g h) : OKeeps g (changeStep e h) := by
  unfold changeStep
  split
  · exact .none
  · next q => exact .ite .none (.ite (.some (x.examine q)) .none)

protected theorem recheckHead (x : Keeps g h) : Keeps g (recheckHead h) := x.moved (recheckHead_moves (Moves.refl h))

end

/-! ### Plans -/

section
variable {r : Running}

protected theorem startStep (x : Keeps g h) : Keeps g (startStep e h) := by
  unfold startStep
  split
  · exact x
  · have y (r : Running) : Keeps g { h with running := some r } := x.plain
    refine .ite ((y _).each fun z => z.setHoldValue) ?_
    split
    · split
      · exact y _
      · exact (y _).setHoldValue
    · exact (y _).clearHold
    · exact y _

protected theorem acceptPlan {k tag : Nat} (x : Keeps g h) : Keeps g (acceptPlan e k tag h) := by
  have y : Keeps g { h with dslot := none, dlast := some ⟨k, tag, .accepted⟩ } := x.plain
  unfold acceptPlan
  extract_lets k₁
  have x₁ : Keeps g k₁ := y.note
  exact Keeps.startStep x₁.plain

protected theorem endPlan (x : Keeps g h) : Keeps g (endPlan e r h) := by
  have y : Keeps g { h with running := none } := x.plain
  unfold endPlan
  dsimp only
  split
  · exact y.note.acceptPlan
  · exact y.note

protected theorem stepOver {res : StepResult} (x : Keeps g h) : Keeps g (stepOver e r res h) := by
  unfold stepOver
  extract_lets r' k₁
  have x₁ : Keeps g k₁ := x.note
  exact .ite (Keeps.startStep x₁.plain) x₁.endPlan

protected theorem planStep (x : Keeps g h) : OKeeps g (planStep e h) := by
  unfold planStep
  split
  · exact .none
  · split
    · exact .some x.stepOver
    · exact .ite (.some x.stepOver) .none

protected theorem startPlan0 {tag : Nat} (x : Keeps g h) : Keeps g (startPlan0 e tag h) := by
  unfold startPlan0
  extract_lets k₁
  have x₁ : Keeps g k₁ := by
    unfold k₁
    split
    · exact x.note
    · exact x
  have x₂ : Keeps g { k₁ with running := some ⟨0, tag, 1, e.now, 0, 0, [], none⟩ } := x₁.plain
  exact x₂.note.startStep

protected theorem estopPlan (x : Keeps g h) : Keeps g (estopPlan e h) := .ite x x.startPlan0

protected theorem resetPlans (x : Keeps g h) : Keeps g (resetPlans h) := by
  unfold resetPlans
  extract_lets k₁
  have x₁ : Keeps g k₁ := by
    unfold k₁
    split
    · exact x.plain
    · exact x
  split
  · exact x₁.plain
  · exact x₁

end

/-! ### Recovery -/

protected theorem setRcv {f : Recovery → Recovery} (x : Keeps g h) : Keeps g (setRcv t f h) := x.setTx

protected theorem startWait (x : Keeps g h) : Keeps g (startWait e t h) := x.setRcv

protected theorem clearRefused (x : Keeps g h) : Keeps g (clearRefused e t h) := .ite x.setRcv.handClear x.setRcv

protected theorem refuseRetry (x : Keeps g h) : Keeps g (refuseRetry e t h) := .ite x.setRcv x.clearRefused

protected theorem handRetry {kw : Nat} (x : Keeps g h) : Keeps g (handRetry e t kw h) := by
  unfold handRetry
  dsimp only
  split
  · exact x.handClear.makePending.setRcv
  · exact x.setRcv.handOrder
  · exact x.declineUnsent.setRcv

protected theorem askRetry (x : Keeps g h) : Keeps g (askRetry e t h) := by
  unfold askRetry
  split
  · exact x.refuseRetry
  · exact .ite x.refuseRetry (.ite x.setAsg.mapAsg.handRetry x.setAsg.refuseAsg.setRcv)

protected theorem decideRetry (x : Keeps g h) : Keeps g (decideRetry e t h) := .ite x.lockoutTrips (.ite x.setRcv x.setRcv)

protected theorem recoveryStep (x : Keeps g h) : OKeeps g (recoveryStep e t h) := by
  unfold recoveryStep
  dsimp only
  split
  · exact .ite (.some x.clearRefused) .none
  · exact .ite (.some x.startWait) .none
  · exact .ite .none (.some x.decideRetry)
  · exact .ite (.ite .none (.some x.clearRefused)) (.ite .none (.some x.askRetry))
  · exact .ite .none (.ite (.some x.setRcv) (.some x.setRcv))
  · exact .ite .none (.some x.setRcv)

protected theorem idleStep (x : Keeps g h) : OKeeps g (idleStep e t h) :=
  .ite (.ite .none (.some x.setIdle)) (.ite (.some x.setIdle) .none)

protected theorem goAbsent {c : TxCause} (x : Keeps g h) : Keeps g (goAbsent t c h) := x.setTxState.setTx

protected theorem undefStep (x : Keeps g h) : OKeeps g (undefStep e t h) := .ite (.some x.goAbsent.setAdopt) .none

/-! ### Adoption -/

protected theorem adoptAsg {a : Asg} (x : Keeps g h) : Keeps g (adoptAsg t o a h) := x.beginAsg.setOwner.setTx

protected theorem reportForeign {w : ForeignWord} {f : Option Nat} {a : Option CheckAnswer} (x : Keeps g h) :
    Keeps g (reportForeign e t w f a h) := x.report

protected theorem adoptForeign {f kw : Nat} {m : Mode} (x : Keeps g h) : Keeps g (adoptForeign e t o f m kw h) := by
  unfold adoptForeign
  extract_lets preset p k₁
  split
  · have x₁ : Keeps g k₁ := x.adoptAsg.reportForeign
    exact Keeps.note x₁.plain
  · exact x.reportForeign.handLower

protected theorem adoptCarrier {f kw : Nat} {m : Mode} (x : Keeps g h) : Keeps g (adoptCarrier e t o f m kw h) := by
  unfold adoptCarrier
  split
  · exact x.adoptForeign
  · refine .ite x.adoptForeign ?_
    extract_lets sc k₁
    have x₁ : Keeps g k₁ := x.markBank.adoptAsg
    exact Keeps.note x₁.plain

protected theorem judgeCarrier (x : Keeps g h) : Keeps g (judgeCarrier e t h) := by
  unfold judgeCarrier
  split
  · exact x.setTx.handLower.reportForeign
  · split
    · split
      · exact x.adoptCarrier
      · exact x.reportForeign.handLower
    · exact x

protected theorem judge (x : Keeps g h) : Keeps g (judge e t h) := by
  unfold judge
  extract_lets k r c k₁ k₂
  have y : Keeps g k := x.setAdopt
  have y₂ : Keeps g k₂ := y.setTxState.reportTx.setTx
  exact .ite (.ite y.rfUnexpected y) (.ite (.ite y y.setTxState.ordersOver) (.ite (.ite y₂.handLower y₂)
    (.ite y.judgeCarrier (.ite y.rfUnexpected (.ite y.reportTx.handLower y)))))

protected theorem endAdoption (x : Keeps g h) : Keeps g (endAdoption e h) := by
  unfold endAdoption
  extract_lets k₁ k₂ k₃
  have x₁ : Keeps g k₁ := x.each fun y => .ite y.endAsg y
  have x₂ : Keeps g k₂ := by
    unfold k₂
    split
    · exact x₁.retireNow
    · exact x₁
  have x₃ : Keeps g k₃ := by
    unfold k₃
    clear_value k₂
    exact Keeps.note x₂.plain
  exact .ite x₃.wantAlloc.changeoverScan x₃.wantAlloc

protected theorem adoptStep (x : Keeps g h) : OKeeps g (adoptStep e h) := by
  unfold adoptStep
  refine .ite .none ?_
  split
  · exact .some x.judge
  · exact .ite (.some x.endAdoption) .none

/-! ### Settle -/

protected theorem forTx {f : Env → Tx → Hall → Option Hall} (y : ∀ {t}, OKeeps g (f e t h)) : OKeeps g (forTx f e h) := by
  intro k q
  obtain ⟨t, _, q⟩ := List.exists_of_findSome?_eq_some q
  exact y k q

protected theorem forOut {f : Env → Out → Hall → Option Hall} (y : ∀ {o}, OKeeps g (f e o h)) : OKeeps g (forOut f e h) := by
  intro k q
  obtain ⟨t, _, q⟩ := List.exists_of_findSome?_eq_some q
  exact y k q

/-- So does each rule. -/
protected theorem rule {r : Rule} (m : r ∈ rules) (x : Keeps g h) : OKeeps g (r e h) := by
  simp only [rules, List.mem_cons, List.not_mem_nil, or_false] at m
  rcases m with rfl | rfl | rfl | rfl | rfl | rfl | rfl | rfl | rfl | rfl | rfl | rfl | rfl | rfl | rfl | rfl
  · exact .forTx x.takeBackStep
  · exact .forTx x.endStep
  · exact x.changeStep
  · exact .forTx x.permitStep
  · exact .forTx x.recoveryStep
  · exact .forTx x.undefStep
  · exact .forTx x.driveStep
  · exact .forTx x.pendStep
  · exact .forTx x.seqStep
  · exact x.grantStep
  · exact .forOut x.colStep
  · exact .forOut x.queryStep
  · exact x.planStep
  · exact x.adoptStep
  · exact x.runStep
  · exact .forTx x.idleStep

protected theorem settle {k : Nat} (x : Keeps g h) : Keeps g (settle k e h) := by
  induction k generalizing h with
  | zero => exact x
  | succ k ih =>
    unfold settle
    split
    · next q =>
      obtain ⟨r, m, q⟩ := List.exists_of_findSome?_eq_some q
      exact ih (Keeps.rule m x _ q)
    · exact x

end Keeps

end
end Sys2Proof.Machine

namespace Sys2Proof.Machine

set_option Elab.async false
section
variable {g h : Hall} {e : Env} {t : Tx} {o : Out} {n : BankNo}

namespace Keeps

/-! ### The Fault Table -/

/-- The Fault Table within its bound, its numbers apart. -/
protected theorem faults {f : FaultTable} (x : Keeps g h) (w : h.faults.ok → f.ok) : Keeps g { h with faults := f } :=
  x.moved ((Moves.refl h).faults w)

/-- Records that keep their numbers, but for those that leave. -/
theorem faults_ok_of_sublist {f k : FaultTable} (s : (k.recs.map FaultRec.seq).Sublist (f.recs.map FaultRec.seq))
    (w : f.ok) : k.ok := by
  have len := s.length_le
  simp only [List.length_map] at len
  exact ⟨len.trans w.1, w.2.sublist s⟩

protected theorem removeFault {seq : Nat} (x : Keeps g h) : Keeps g (removeFault seq h) :=
  x.faults (faults_ok_of_sublist (List.filter_sublist.map _))

protected theorem carryBlock {s : FaultSource} (x : Keeps g h) : Keeps g (carryBlock s h) := by
  unfold carryBlock
  refine .ite x ?_
  split
  · exact x
  · next f _ =>
    have same : (h.faults.recs.map fun x => if x.seq = f.seq then { f with blocking := true } else x).map FaultRec.seq =
        h.faults.recs.map FaultRec.seq := by
      rw [List.map_map]
      refine List.map_congr_left fun r _ => ?_
      simp only [Function.comp_apply]
      split
      · exact Eq.symm ‹r.seq = f.seq›
      · rfl
    exact Keeps.note (x.faults fun w => faults_ok_of_sublist (f := h.faults) (by rw [same]) w)

protected theorem heldCauses (x : Keeps g h) : Keeps g (heldCauses e o h) := by
  unfold heldCauses
  extract_lets k
  have y : Keeps g k := x.each fun y => .ite y.reportOut y
  clear_value k
  exact .ite y.reportOut y

protected theorem clearOut {seq : Nat} (x : Keeps g h) : Keeps g (clearOut e seq o h) := by
  unfold clearOut
  extract_lets k
  have y : Keeps g k := x.removeFault.heldCauses.carryBlock
  exact .ite y y.wantAlloc

protected theorem leaveLockout (x : Keeps g h) : Keeps g (leaveLockout e t h) :=
  .ite x.setTx.setTxState (.ite x.goAbsent x.rederive)

protected theorem releaseTx (x : Keeps g h) : Keeps g (releaseTx e t h) := x.emptyWindow.setTx.leaveLockout.wantAlloc

protected theorem clearTx {seq : Nat} (x : Keeps g h) : Keeps g (clearTx e seq t h) := by
  unfold clearTx
  extract_lets k
  have y : Keeps g k := x.removeFault.carryBlock
  exact .ite y y.releaseTx

/-- The FAULT-CLEAR in hand is none of what is bounded. -/
protected theorem inHand {c : Option Clear} (x : Keeps g h) : Keeps g { h with clear := c } := x.plain

protected theorem answerClear {c : Clear} {st : Status} (x : Keeps g h) : Keeps g (answerClear c st h) := x.inHand.say

protected theorem clearGranted {c : Clear} (x : Keeps g h) : Keeps g (clearGranted e c h) := x.clearOut.answerClear

protected theorem askRelease {tag : Nat} {r : FaultRec} (x : Keeps g h) : Keeps g (askRelease e tag r o h) := by
  unfold askRelease
  dsimp only
  split
  · exact x.inHand.setCol
  · exact .ite x.clearGranted x.inHand.beginRead
  · exact x.clearGranted

protected theorem clearRecord {tag : Nat} {r : FaultRec} (x : Keeps g h) : Keeps g (clearRecord e tag r h) := by
  unfold clearRecord
  dsimp only
  refine .ite x.removeFault.say ?_
  split
  · exact x.clearTx.say
  · exact x.askRelease
  · exact x.removeFault.say

/-! ### The matrix -/

section
variable {rows : Vector Contacts 12}

protected theorem storeReport (x : Keeps g h) : Keeps g (storeReport o rows h) := x.each fun y => y.setXpt

protected theorem freeMotion {p : MotionKind → Bool} (x : Keeps g h) : Keeps g (freeMotion p h) := x.mapSlots

protected theorem progressRow (x : Keeps g h) : Keeps g (progressRow o rows t h) := by
  unfold progressRow
  split
  · exact x
  · split
    · exact x.freeMotion.xptChange
    · exact x.freeMotion.xptChange
    · exact x

protected theorem progress (x : Keeps g h) : Keeps g (progress o rows h) := x.each fun y => y.progressRow

protected theorem readRow {read : List Tx} (x : Keeps g h) : Keeps g (readRow e read o rows t h) := by
  unfold readRow
  dsimp only
  refine .ite x ?_
  split
  · exact x.xptChange
  · exact .ite x.xptChange.reportOut (.ite x.xptChange x.xptChange.reportOut)

protected theorem readResult (x : Keeps g h) : Keeps g (readResult e o rows h) :=
  (x.progress.each fun y => y.readRow).setCol

protected theorem restHanded {wasMade : Bool} (x : Keeps g h) : Keeps g (restHanded e o t wasMade h) := by
  unfold restHanded
  extract_lets k₁ k₂
  have x₁ : Keeps g k₁ := .ite x.failSeq x
  have x₂ : Keeps g k₂ := .ite x₁.hotSwitch x₁
  exact x₂.each fun y => .ite y.failSeq y

protected theorem restRow (x : Keeps g h) : Keeps g (restRow e o rows t h) :=
  .ite x (.ite x.reportOut x.xptChange.reportOut.restHanded)

protected theorem restReport (x : Keeps g h) : Keeps g (restReport e o rows h) := x.progress.each fun y => y.restRow

protected theorem clearRow {seq : Nat} (x : Keeps g h) : Keeps g (clearRow seq o rows t h) := x.xptChangeTo.mapSlots

protected theorem clearRows {seq : Nat} (x : Keeps g h) : Keeps g (clearRows seq o rows h) := x.each fun y => y.clearRow

protected theorem clearRead (x : Keeps g h) : Keeps g (clearRead e o rows h) := by
  unfold clearRead
  extract_lets ok k
  have y : Keeps g k := x.setCol
  split
  · exact y
  · exact .ite y.clearRows.clearGranted y.answerClear

protected theorem columnReport (x : Keeps g h) : Keeps g (columnReport o rows e h) :=
  .ite x.storeReport.readResult (.ite x.storeReport.clearRead x.storeReport.restReport)

end

protected theorem silentColumn (x : Keeps g h) : Keeps g (silentColumn e o h) := x.reportOut.setCol

protected theorem silentClear (x : Keeps g h) : Keeps g (silentClear o h) := by
  unfold silentClear
  dsimp only
  split
  · exact x.setCol.answerClear
  · exact x.setCol

protected theorem readTimeout (x : Keeps g h) : Keeps g (readTimeout o e h) := by
  unfold readTimeout
  split
  · exact .ite x.silentColumn x.setCol
  · exact .ite x.silentClear x.setCol
  · exact x

protected theorem throwTimeout (x : Keeps g h) : Keeps g (throwTimeout t o e h) := by
  unfold throwTimeout
  split
  · exact x
  · exact .ite x.freeMotion (x.freeMotion.xptChange.reportOut.each fun y => y.waiterFails)

/-! ### Positioners -/

/-- A positioner's record, on a line that no other holds. -/
protected theorem setPos {p : Option Pos} (x : Keeps g h)
    (w : ∀ q, p = some q → ∀ (u : Out) (r : Pos), h.path.pos[u] = some r → u ≠ o → r.line ≠ q.line) :
    Keeps g (h.setPos o p) := by
  refine x.trans ⟨((Moves.refl h).setPos).sizes, banks_of fun _ => rfl, fun v a b q r hq hr l => ?_⟩
  simp only [Hall.setPos_path, get_upd] at hq hr
  split at hq
  · split at hr
    · exact (‹o = a›).symm.trans ‹o = b›
    · exact absurd l.symm (w q hq b r hr (Ne.symm ‹_›))
  · split at hr
    · exact absurd l (w r hr a q hq (Ne.symm ‹_›))
    · exact v a b q r hq hr l

protected theorem removePos (x : Keeps g h) : Keeps g (h.setPos o none) := x.setPos fun _ q => nomatch q

theorem freeLine_free {l : Fin 8} (w : freeLine h = some l) (u : Out) (r : Pos) (q : h.path.pos[u] = some r) : r.line ≠ l := by
  intro v
  have f := List.find?_some w
  simp only [Bool.not_eq_true', List.any_eq_false] at f
  exact f u (List.mem_finRange u) (by simpa [q] using v)

protected theorem slewFlag {slewable : Bool} (x : Keeps g h) : Keeps g (slewFlag o slewable e h) := by
  refine .ite (Keeps.beginRead (x.setPos fun q w u r v _ => ?_)) x.removePos
  obtain ⟨l, hl, rfl⟩ := Option.map_eq_some_iff.1 w
  exact freeLine_free hl u r v

protected theorem moveLine {l : Option (Fin 8)} (x : Keeps g h)
    (w : ∀ m, l = some m → ∀ (u : Out) (r : Pos), h.path.pos[u] = some r → r.line ≠ m) : Keeps g (moveLine o l e h) := by
  unfold moveLine
  split
  · next m =>
    refine Keeps.beginRead ?_
    show Keeps g (h.setPos o (h.path.pos[o].map _))
    refine x.setPos fun q v u r hr _ => ?_
    obtain ⟨p, _, rfl⟩ := Option.map_eq_some_iff.1 v
    exact w m rfl u r hr
  · exact x

section
variable {p : Pos}

protected theorem readDone (x : Keeps g h) : Keeps g (readDone o h) := x.mapPos

protected theorem readState {old new : PosState} {fault : Bool} (x : Keeps g h) : Keeps g (readState o old new fault h) :=
  .ite x x.posChange

protected theorem readRest {clear : Bool} {az : Nat} (x : Keeps g h) : Keeps g (readRest e o p clear az h) := by
  unfold readRest
  extract_lets n k
  have y : Keeps g k := x.readDone
  refine .ite y.readState ?_
  split
  · exact y
  · exact .ite y.posChangeTo.clearGranted y.answerClear

protected theorem readStalled {clear : Bool} {w : StallWord} (x : Keeps g h) : Keeps g (readStalled e o p clear w h) := by
  unfold readStalled
  extract_lets k
  have y : Keeps g k := x.readDone
  refine .ite y.readState.reportOut ?_
  split
  · exact y
  · exact y.answerClear

protected theorem slewEnded (x : Keeps g h) : Keeps g (slewEnded e o h) := by
  unfold slewEnded
  dsimp only
  refine .ite ?_ x
  split
  · exact x.removePos.clearGranted
  · exact x.removePos

protected theorem slewComplete {k : Nat} (x : Keeps g h) : Keeps g (slewComplete e o k h) := x.freeMotion.posChange.slewEnded

protected theorem slewStalls {l : List Tx} {w : StallWord} {c : PosCause} (x : Keeps g h) : Keeps g (slewStalls e o l w c h) :=
  (x.freeMotion.posChange.reportOut.each fun y => y.waiterFails).slewEnded

protected theorem queryAnswer {j : PosJob} {r : DriveReport} (x : Keeps g h) : Keeps g (queryAnswer e o p j r h) := by
  unfold queryAnswer
  split
  · exact x.readRest
  · exact x.mapPos
  · exact x

protected theorem slewAnswer {s : Slot} {r : DriveReport} (x : Keeps g h) : Keeps g (slewAnswer e o p s r h) := by
  unfold slewAnswer
  split
  · exact .ite x (.ite x.slewComplete x.slewStalls)
  · exact x

protected theorem positionerReport {l : Fin 8} {r : DriveReport} (x : Keeps g h) : Keeps g (positionerReport l r e h) := by
  unfold positionerReport
  split
  · exact x
  · next o _ =>
    split
    · exact x
    · extract_lets k
      have y : Keeps g k := x.mapPos
      split
      · exact y.queryAnswer
      · exact y.slewAnswer
      · exact y

protected theorem queryTimeout (x : Keeps g h) : Keeps g (queryTimeout o e h) := by
  unfold queryTimeout
  split
  · exact x
  · exact .ite x.readStalled x.mapPos

protected theorem queryRepeat (x : Keeps g h) : Keeps g (queryRepeat o e h) := by
  unfold queryRepeat
  split
  · exact x
  · exact Keeps.setDrvCmd x.mapPos

protected theorem readFullTravelTimeout (x : Keeps g h) : Keeps g (readFullTravelTimeout o e h) := by
  unfold readFullTravelTimeout
  split
  · exact x
  · exact x.readStalled

protected theorem slewTimeout (x : Keeps g h) : Keeps g (slewTimeout o e h) := by
  unfold slewTimeout
  split
  · exact x
  · exact .ite x.freeMotion.slewEnded x.slewStalls

end

/-! ### Cabinets -/

section
variable {od : Order} {last : Nat} {c : Cond} {rep : CabReply}

protected theorem backToPend (x : Keeps g h) : Keeps g (backToPend t od h) := by
  have y : Keeps g (h.setTx t fun r => { r with out := none }) := x.setTx
  exact .ite y.overtaken y.makePending

protected theorem retest (x : Keeps g h) : Keeps g (retest e t od h) := by
  have drop : Keeps g (h.setTx t fun r => { r with out := none }) := x.setTx
  unfold retest
  dsimp only
  split
  · exact drop.overtaken
  · exact drop.overtaken
  · exact .ite x x.backToPend
  · exact .ite (.ite x drop) (.ite drop.declineUnsent (.ite x.backToPend x))

protected theorem startExchange {m : CabMsg} (x : Keeps g h) : Keeps g (startExchange e t m h) := x.setTx

protected theorem raiseSent (x : Keeps g h) : Keeps g (raiseSent t od h) := .ite x.mapAsg x

theorem lastRaise_window (k : OrderKind) (r : TxRec) : (lastRaise k r).window = r.window := by unfold lastRaise; split <;> rfl

protected theorem sendFirst (x : Keeps g h) : Keeps g (sendFirst e t od last h) := by
  unfold sendFirst
  extract_lets no s o' k
  have y : Keeps g k := x.setTx fun r => lastRaise_window _ _
  exact y.setTxState.raiseSent.startExchange

protected theorem slotBare (x : Keeps g h) : Keeps g (slotBare e t last h) := .ite (Keeps.startExchange x.setTx) x.startExchange

protected theorem slotMessage (x : Keeps g h) : Keeps g (slotMessage e t last h) := by
  unfold slotMessage
  split
  · exact .ite x.startExchange (.ite x.sendFirst (.ite x.slotBare x.startExchange))
  · exact x.slotBare

/-- A rule taken where it has a next state. -/
theorem getD {k : Option Hall} (x : Keeps g h) (y : OKeeps g k) : Keeps g (k.getD h) := by
  cases k with
  | none => exact x
  | some k => exact y k rfl

protected theorem retestAll (x : Keeps g h) : Keeps g (retestAll e t h) := by
  unfold retestAll
  extract_lets k
  have y : Keeps g k := by
    unfold k
    split
    · exact .ite x.retest x
    · exact x
  exact y.getD y.pendStep

protected theorem cabinetSlot (x : Keeps g h) : Keeps g (cabinetSlot t e h) := by
  unfold cabinetSlot
  refine .ite x ?_
  split
  · exact x.startExchange
  · exact x.retestAll.slotMessage

protected theorem endOrder (x : Keeps g h) : Keeps g (endOrder t h) := x.setTx

protected theorem orderState {s : TxState} {u : TxCause} (x : Keeps g h) : Keeps g (orderState t s u h) := by
  unfold orderState
  split
  · exact x
  · exact x
  · exact x
  · exact x.setTxState

protected theorem orderRederive {u : TxCause} (x : Keeps g h) : Keeps g (orderRederive e t u h) := by
  unfold orderRederive
  split
  · exact x
  · exact x
  · exact x
  · exact x.rederive

protected theorem orderFailed (x : Keeps g h) : Keeps g (orderFailed e t od h) := .ite x.endAsg x

protected theorem declineState (x : Keeps g h) : Keeps g (declineState t od h) := .ite x.orderState x

protected theorem orderDeclined {r : DeclineReason} (x : Keeps g h) : Keeps g (orderDeclined e t od r h) := by
  unfold orderDeclined
  extract_lets k₁ k₂
  have y : Keeps g k₂ := x.endOrder.declineState.declined
  exact .ite y.setTx y.clearDeclined

protected theorem engineDone (x : Keeps g h) : Keeps g (engineDone t od h) := .ite x.mapAsg x

protected theorem raiseDone {kw : Nat} (x : Keeps g h) : Keeps g (raiseDone t kw h) := x.setTx

protected theorem lowerTripped {u : CabTrip} {taken : Bool} (x : Keeps g h) : Keeps g (lowerTripped e t od u taken h) :=
  .ite x.orderState x.tripLowering

protected theorem orderDone {taken : Bool} (x : Keeps g h) : Keeps g (orderDone e t od c taken h) := by
  unfold orderDone
  extract_lets k
  have y : Keeps g k := x.endOrder
  split
  · exact y.orderState.raiseDone.engineDone
  · exact y.lowerTripped
  · exact y.orderRederive
  · exact y.orderState.engineDone

protected theorem raiseTripped {u : CabTrip} (x : Keeps g h) : Keeps g (raiseTripped e t u h) := by
  unfold raiseTripped
  extract_lets ended
  have y : Keeps g ended := x.overtakeOut
  split
  iterate 2 exact x.trip
  iterate 6 exact y.tripUncounted
  · exact y
  · exact x

protected theorem orderProgress (x : Keeps g h) : Keeps g (orderProgress e t od c h) := by
  unfold orderProgress
  split
  · exact x.setTx
  · exact .ite x.endOrder.orderState.reportTx.orderFailed x
  · exact x.raiseTripped
  · exact x

protected theorem replyOrder {taken : Bool} (x : Keeps g h) : Keeps g (replyOrder e t rep taken h) := by
  unfold replyOrder
  split
  · exact x
  · refine .ite x ?_
    split
    · exact x.orderDeclined
    · extract_lets o' k
      have y : Keeps g k := x.setTx
      exact .ite y.orderDone y.orderProgress

protected theorem sendAgain {kw : Nat} (x : Keeps g h) : Keeps g (sendAgain t kw h) := by
  unfold sendAgain
  dsimp only
  refine .ite x ?_
  split
  · exact x.setTx
  · exact x.makePending.setTx

protected theorem carrierLost (x : Keeps g h) : Keeps g (carrierLost t c h) := by
  unfold carrierLost
  refine .ite x ?_
  split
  · exact x.setTxState.sendAgain
  · exact x.setTxState

protected theorem trippedRad (x : Keeps g h) : Keeps g (trippedRad e t h) := .ite x x.reportTx.handLower.setRcv

protected theorem conditionSeen (x : Keeps g h) : Keeps g (conditionSeen e t c h) := by
  have un : Keeps g (if (h.tx[t]).lowerInHand then h else rfUnexpected e t h) := .ite x x.rfUnexpected
  unfold conditionSeen
  dsimp only
  split
  iterate 2 exact x.trip
  · exact x
  iterate 6 exact x.tripUncounted
  iterate 2 exact .ite x x.carrierLost
  · exact .ite (.ite x x.handLower) x.setTxState
  · exact .ite x.trippedRad (.ite x.setTxState x)
  iterate 5 exact .ite un x.setTxState
  · exact .ite un x
  · exact x

protected theorem localTaken {takeover : Bool} (x : Keeps g h) : Keeps g (localTaken e t takeover h) := by
  unfold localTaken
  extract_lets k₁ k₂
  have x₁ : Keeps g k₁ := x.ordersOver
  have x₂ : Keeps g k₂ := .ite x₁.reportTx x₁
  exact x₂.engineLocal

protected theorem noticeAnyway {old : TxState} {u : TxCause} (x : Keeps g h) : Keeps g (noticeAnyway t old u h) := .ite x.note x

protected theorem regain (x : Keeps g h) : Keeps g (regain e t h) := by
  unfold regain
  extract_lets old k₁ k₂ k₃
  have x₁ : Keeps g k₁ := x.setTx
  have x₂ : Keeps g k₂ := .ite x₁.rederive x₁
  have x₃ : Keeps g k₃ := x₂.noticeAnyway
  exact .ite x₃.localTaken x₃

protected theorem localFlag (x : Keeps g h) : Keeps g (localFlag e t rep h) := by
  unfold localFlag
  split
  · exact x
  · exact x
  · exact x
  · exact x.rederive
  · exact x.setTxState.localTaken
  · exact x

protected theorem unjudgedOrder (x : Keeps g h) : Keeps g (unjudgedOrder t od rep h) := by
  unfold unjudgedOrder
  split
  · exact .ite x.setTx x.endOrder
  · exact .ite x.endOrder (.ite x.overtakeOut x.setTx)

protected theorem unjudgedReply (x : Keeps g h) : Keeps g (unjudgedReply t rep h) := by
  unfold unjudgedReply
  extract_lets old k₁ k₂ k₃
  have x₁ : Keeps g k₁ := x.setTx
  have x₂ : Keeps g k₂ := .ite x₁ x₁.setTxState
  have x₃ : Keeps g k₃ := .ite x₂ x₂.noticeAnyway
  refine .ite x₃.ordersOver ?_
  split
  · exact x₃
  · exact .ite x₃ x₃.unjudgedOrder

protected theorem storeReply (x : Keeps g h) : Keeps g (storeReply e t rep h) := Keeps.setAdopt x.setTx

protected theorem conditionAfterDecline {was : TxState} (x : Keeps g h) : Keeps g (conditionAfterDecline e t was c h) := by
  unfold conditionAfterDecline
  split
  · exact .ite x.trip x.conditionSeen
  · exact x.conditionSeen

protected theorem judgedReply (x : Keeps g h) : Keeps g (judgedReply e t rep h) := by
  unfold judgedReply
  extract_lets r lost k₁ now taken k₂
  have x₁ : Keeps g k₁ := (Keeps.ite x.regain x).localFlag
  have x₂ : Keeps g k₂ := x₁.replyOrder
  exact .ite x₂.conditionAfterDecline (.ite x₂ x₂.conditionSeen)

protected theorem cabinetReply (x : Keeps g h) : Keeps g (cabinetReply t rep e h) :=
  .ite x (.ite x.storeReply.unjudgedReply x.storeReply.judgedReply)

protected theorem loseTx (x : Keeps g h) : Keeps g (loseTx e t h) := by
  have y : Keeps g (h.setTx t fun r => { r with before := if r.contact then keptBefore r.st else none }) := x.setTx
  exact (Keeps.ite x y.setTxState).noticeAnyway.reportTx

protected theorem missedReply (x : Keeps g h) : Keeps g (missedReply t e h) := by
  unfold missedReply
  refine .ite x ?_
  extract_lets n first k₁ k₂
  have x₁ : Keeps g k₁ := x.setTx
  have x₂ : Keeps g k₂ := .ite x₁.setAdopt x₁
  exact .ite x₂.loseTx x₂

protected theorem warmTimeout (x : Keeps g h) : Keeps g (warmTimeout t e h) := by
  unfold warmTimeout
  split
  · exact x
  · exact (Keeps.ite x.endOrder.orderRederive x.endOrder.orderState).reportTx.orderFailed

protected theorem tuneTimeout (x : Keeps g h) : Keeps g (tuneTimeout t e h) := by
  unfold tuneTimeout
  split
  · exact x
  · exact x.endOrder.orderState.reportTx.orderFailed

protected theorem raiseTimeout (x : Keeps g h) : Keeps g (raiseTimeout t e h) := by
  unfold raiseTimeout
  split
  · exact x
  · exact .ite x.endOrder.setTxState.reportTx.trip x.endOrder.reportTx.handLower

protected theorem lowerTimeout (x : Keeps g h) : Keeps g (lowerTimeout t e h) := by
  unfold lowerTimeout
  split
  · exact x
  · have y := (x.endOrder (t := t)).setTx (t := t) (f := fun r => { r with resend := rfpActive e h t && decide ((h.tx[t]).st ≠ .isLocal) })
    exact .ite y.reportTx.engineLowerTimeout y.reportTx

protected theorem coolTimeout (x : Keeps g h) : Keeps g (coolTimeout t e h) := by
  unfold coolTimeout
  split
  · exact x
  · exact x.endOrder.orderRederive.reportTx

protected theorem clearTripTimeout (x : Keeps g h) : Keeps g (clearTripTimeout t e h) := by
  unfold clearTripTimeout
  split
  · exact x
  · exact .ite x.endOrder.reportTx.clearFailed x.endOrder

end

end Keeps

end
end Sys2Proof.Machine

namespace Sys2Proof.Machine

set_option Elab.async false
section
variable {g h : Hall} {e : Env} {t : Tx} {o : Out} {n : BankNo}

namespace Keeps

/-! ### Holds, plans and the engine's requests -/

protected theorem expireAll (x : Keeps g h) : Keeps g (expireAll h) := by
  unfold expireAll
  refine Keeps.dropDeferral ?_
  exact x.each fun y => y.dropStack

protected theorem setMode {m : HallMode} {c : HallCause} (x : Keeps g h) : Keeps g (setMode m c h) := by
  have y : Keeps g { h with mode := m } := x.plain
  exact y.note

protected theorem quiesceHall (x : Keeps g h) : Keeps g (quiesceHall e h) := by
  unfold quiesceHall
  extract_lets k
  have y : Keeps g k := (x.setMode.each fun y => y.abortAsg).expireAll
  clear_value k
  exact (y.each fun z => z.cancelSeq).recheckHead

protected theorem resumeHall (x : Keeps g h) : Keeps g (resumeHall e h) := x.setMode.scan

protected theorem idleExpiry (x : Keeps g h) : Keeps g (idleExpiry t e h) := .ite x (.ite x.setIdle x.setIdle.handOrder)

protected theorem recoveryEdited (x : Keeps g h) : Keeps g (recoveryEdited e h) := (x.each fun y => y.expireWindow).recomputeFold

protected theorem recoveryDelayExpiry (x : Keeps g h) : Keeps g (recoveryDelayExpiry t e h) := .ite x.setRcv x

protected theorem adoptionLapse (x : Keeps g h) : Keeps g (adoptionLapse t e h) := .ite x.setAdopt x

protected theorem planTimeout (x : Keeps g h) : Keeps g (planTimeout e h) := by
  unfold planTimeout
  split
  · exact x.stepOver
  · exact x

/-! ### Transmitters -/

protected theorem defineTx (x : Keeps g h) : Keeps g (defineTx t h) := by
  unfold defineTx
  extract_lets k₁ k₂
  have x₁ : Keeps g k₁ := x.setTx
  have x₂ : Keeps g k₂ := .ite x₁.setAdopt x₁
  clear_value k₁ k₂
  exact .ite (Keeps.setTxState x₂.setTx) x₁

protected theorem undefineTx (x : Keeps g h) : Keeps g (undefineTx t h) := x.goAbsent.setAdopt

/-! ### Sense lines -/

section
variable {l : SenseLine}

protected theorem rfpOn (x : Keeps g h) : Keeps g (rfpOn e t h) := .ite x.takeBackPermit (.ite x x.reportTx)

protected theorem rfpOff (x : Keeps g h) : Keeps g (rfpOff t h) := x.setTx

protected theorem doorOn (x : Keeps g h) : Keeps g (doorOn e t h) := .ite x.trip x

protected theorem muteOne (x : Keeps g h) : Keeps g (muteOne e t h) := by
  unfold muteOne
  split
  · exact .ite x.muteAsg x
  · exact x

protected theorem estopOn (x : Keeps g h) : Keeps g (estopOn e h) := by
  unfold estopOn
  extract_lets k
  have y : Keeps g k := x.each fun y => .ite y.handLower y
  clear_value k
  exact (y.each fun z => z.muteOne).estopPlan

protected theorem lineTrip {c : TripCause} (x : Keeps g h) : Keeps g (lineTrip e t c h) := .ite x.trip x

protected theorem senseNotice {active masked : Bool} (x : Keeps g h) : Keeps g (senseNotice l active masked h) := by
  unfold senseNotice
  split
  · exact x.note
  · exact x.note
  · exact x

protected theorem lineLevel {active masked : Bool} (x : Keeps g h) : Keeps g (lineLevel e l active masked h) := by
  unfold lineLevel
  refine .ite x ?_
  split
  · exact x.rfpOn
  · exact x.rfpOff
  · exact x.doorOn
  · exact x.estopOn
  · exact x.lineTrip
  · exact x.lineTrip
  · exact x

protected theorem lineEdge {masked : Bool} (x : Keeps g h) : Keeps g (lineEdge e l masked h) := by
  unfold lineEdge
  refine .ite x ?_
  split
  · exact x.lineTrip
  · exact x.lineTrip
  · exact x

protected theorem lineMeaning {masked : Bool} {old new : Option Bool} (x : Keeps g h) :
    Keeps g (lineMeaning e l masked old new h) := by
  unfold lineMeaning
  split
  · exact x
  · exact .ite x x.senseNotice.lineLevel

protected theorem qualify {new : Bool} (x : Keeps g h) : Keeps g (qualify l new e h) := by
  unfold qualify
  extract_lets old cfg k
  have y : Keeps g k := x.setSense
  exact .ite y.lineEdge y.lineMeaning

protected theorem rawChange {high : Bool} (x : Keeps g h) : Keeps g (rawChange l high e h) := .ite x x.setSense

protected theorem doorEdited {old new : SenseCfg} {was now : Bool} (x : Keeps g h) : Keeps g (doorEdited e l old new was now h) :=
  .ite x.note.lineLevel (.ite x.note x)

protected theorem senseEdited {old new : SenseCfg} (x : Keeps g h) : Keeps g (senseEdited l old new e h) := by
  unfold senseEdited
  dsimp only
  split
  · split
    · exact x.doorEdited
    · exact .ite x x.senseNotice.lineLevel
  · exact x

end

/-! ### Resets -/

protected theorem dropPending (x : Keeps g h) : Keeps g (dropPending t h) := x.setTx

protected theorem rejectAll (x : Keeps g h) : Keeps g (rejectAll h) := by
  have y : Keeps g { h with changes := [] } := x.moved ((Moves.refl h).changes fun _ => ⟨Nat.zero_le _, fun _ m => nomatch m⟩)
  exact y.notes

protected theorem discardAll (x : Keeps g h) : Keeps g (discardAll h) :=
  x.trans ⟨fun w => ⟨w.banks, w.changes, w.changeIds, Nat.zero_le _, fun t => by simp [discardAll, tab], w.windows, w.faults⟩,
    banks_of fun _ => rfl, id⟩

protected theorem resetPath (x : Keeps g h) : Keeps g (resetPath h) := by
  have y : Keeps g ((h.setQueue []).each allTx cancelSeq) := x.setQueue.each fun y => y.cancelSeq
  unfold resetPath
  generalize (h.setQueue []).each allTx cancelSeq = k at y
  exact y.plain

protected theorem resetTx (x : Keeps g h) : Keeps g (resetTx t h) := Keeps.setTx x.dropPending.noHandBack

protected theorem restartAdoption {k : Tables} (x : Keeps g h) : Keeps g (restartAdoption k h) := x.plain

protected theorem resetHall (x : Keeps g h) : Keeps g (resetHall e h) := by
  unfold resetHall
  extract_lets k₁ k₂ k₃
  have x₁ : Keeps g k₁ := x.restartAdoption.note
  have x₂ : Keeps g k₂ := x₁.rejectAll.discardAll.resetPath.each fun y => y.resetTx
  have x₃ : Keeps g k₃ := by
    unfold k₃
    split
    · exact x₂.retireNow
    · exact x₂
  clear_value k₃
  exact x₃.resetPlans.each fun y => y.resetHold

protected theorem sectionTx (x : Keeps g h) : Keeps g (sectionTx e t h) := by
  unfold sectionTx
  extract_lets st k₁ k₂
  have x₁ : Keeps g k₁ := x.dropPending.emptyWindow
  have x₂ : Keeps g k₂ := x₁.setTx
  exact .ite x₂.handLower (.ite x₂.handClear x₂)

protected theorem sectionEngine (x : Keeps g h) : Keeps g (sectionEngine e t h) := x.abortAsg.dropStack.setIdle

protected theorem resetSection (x : Keeps g h) : Keeps g (resetSection t e h) := by
  have y : Keeps g (resetHold e t (cancelSeq t (sectionEngine e t (sectionTx e t h)))) := x.sectionTx.sectionEngine.cancelSeq.resetHold
  exact .ite y.recheckHead y

protected theorem undefAll {k : Tables} (x : Keeps g h) : Keeps g (undefAll k h) := by
  unfold undefAll
  exact x.each fun y => .ite y.setTx y

protected theorem eraseBanks (x : Keeps g h) : Keeps g (eraseBanks h) := by
  unfold eraseBanks
  refine x.each fun {n k} y => .ite y (Keeps.bankNotice ?_)
  exact y.setBank (fun _ => Nat.zero_le _) (.inr (by simp [Bank.blank]))

protected theorem abortScheduled (x : Keeps g h) : Keeps g (abortScheduled e h) := by
  unfold abortScheduled
  exact x.each fun y => .ite y.abortAsg y

protected theorem erasePositioners (x : Keeps g h) : Keeps g (erasePositioners h) := by
  unfold erasePositioners
  exact x.each fun y => .ite y.mapPos y.removePos

protected theorem eraseHall (x : Keeps g h) : Keeps g (eraseHall e h) := by
  unfold eraseHall
  extract_lets k₁ k₂
  have x₁ : Keeps g k₁ := x.eraseBanks.abortScheduled.expireAll
  clear_value k₁
  have x₂ : Keeps g k₂ := x₁.resetPlans.each fun y => y.resetHold
  clear_value k₂
  exact x₂.erasePositioners.sweepErased.recheckHead

/-- R18: power-on keeps the banks and the positioners' lines; it empties the other lists. -/
protected theorem powerOn {k : Tables} {raw : Tab Bool 50} : Keeps h (Hall.powerOn k h.banks h.path.pos raw) where
  sizes w := ⟨w.banks, Nat.zero_le _, fun _ m => (nomatch m), Nat.zero_le _, fun t => by simp [Hall.powerOn, tab],
    fun t => by simp [Hall.powerOn, TxRec.powerOn], Nat.zero_le _, List.nodup_nil⟩
  banks := banks_of fun _ => rfl
  lines := by
    refine lines_of fun o q w => ?_
    simp only [Hall.powerOn, Path.powerOn, Fin.getElem_fin, Vector.getElem_map, Option.map_eq_some_iff] at w
    obtain ⟨p, hp, rfl⟩ := w
    exact ⟨p, (Option.filter_eq_some_iff.1 hp).1, rfl⟩

end Keeps

end
end Sys2Proof.Machine
namespace Sys2Proof.Machine

set_option Elab.async false

/-- From `s` to `m` what `Keeps` says of the hall holds, and the notice queue stays within its bound. -/
structure Sound (s m : State) : Prop where
  hall : Keeps s.hall m.hall
  notices : s.link.notices.length ≤ Config.maxNotices → m.link.notices.length ≤ Config.maxNotices

/-- So it is for whatever a command leads to. -/
def Leads (s : State) (r : Result) : Prop := ∀ t, r = .next t → Sound s t

section
variable {s m : State} {t : Tx} {o : Out}

namespace Sound

theorem refl (s : State) : Sound s s := ⟨.refl _, id⟩

theorem trans {k : State} (x : Sound s m) (y : Sound m k) : Sound s k := ⟨x.hall.trans y.hall, y.notices ∘ x.notices⟩

theorem ite {c : Prop} [Decidable c] {a b : State} (x : Sound s a) (y : Sound s b) : Sound s (if c then a else b) := by
  split <;> assumption

/-- An effect on the hall. -/
theorem on {h : Hall} (x : Sound s m) (w : Keeps m.hall h) : Sound s { m with hall := h } := ⟨x.hall.trans w, x.notices⟩

protected theorem onHall {f : Env → Hall → Hall} (x : Sound s m) (w : ∀ {g h}, Keeps g h → Keeps g (f m.env h)) :
    Sound s (m.onHall f) := x.on (w (.refl _))

/-- An update of what is neither hall nor notice queue. -/
theorem plain {k : State} (x : Sound s m) (hall : k.hall = m.hall := by rfl) (notices : k.link.notices = m.link.notices := by rfl) :
    Sound s k := ⟨hall ▸ x.hall, fun w => notices ▸ x.notices w⟩

protected theorem note {b : NoticeBody} (x : Sound s m) : Sound s (m.note b) := x.on (Keeps.note (.refl _))

protected theorem say {tag : Nat} {r : Option Req} {st : Status} {b : ReplyBody} (x : Sound s m) : Sound s (m.say tag r st b) :=
  x.on (Keeps.say (.refl _))

protected theorem setBank {n : BankNo} {f : Bank → Bank} (x : Sound s m) (w : Keeps m.hall (m.hall.setBank n f)) :
    Sound s (m.setBank n f) := x.on w

protected theorem setTables {f : Tables → Tables} (x : Sound s m) : Sound s (m.setTables f) := x.plain

protected theorem setTime {f : TimeBase → TimeBase} (x : Sound s m) : Sound s (m.setTime f) := x.plain

/-- The state an answer leaves. -/
protected theorem ans {st : Status} {b : ReplyBody} (x : Sound s m) : Sound s (m.ans st b).s := x

protected theorem ok (x : Sound s m) : Sound s m.ok.s := x

protected theorem hold {l : Held} {tag : Option Nat} (x : Sound s m) : Sound s (m.hold l tag) := .ite x.note x.plain

protected theorem finish (x : Sound s m) : Sound s (finish m) := by
  have v : Keeps s.hall (settle Config.settleFuel m.env m.hall) := x.hall.settle
  refine ⟨?_, fun w => ?_⟩
  · show Keeps s.hall { settle Config.settleFuel m.env m.hall with said := [], emit := [] }
    generalize settle Config.settleFuel m.env m.hall = h at v
    exact v.plain
  · show ((m.link.deliver _ _ _).moveUp _).notices.length ≤ _
    rw [Link.moveUp_notices]
    exact Link.deliver_notices _ _ _ _ (x.notices w)

protected theorem taking {i : Instr} {tag : Nat} {r : Req} {f : State → State} (w : Sound s (f s)) : Sound s (s.taking i tag r f) :=
  .ite (refl s).hold (.ite w (refl s).say)

protected theorem named {α : Type} {x : Option α} {f : α → Ans} (w : ∀ a, x = some a → Sound s (f a).s) :
    Sound s (named s x f).s := by
  cases x with
  | none => exact refl s
  | some a => exact w a rfl

theorem ans_ite {c : Prop} [Decidable c] {a b : Ans} (x : Sound s a.s) (y : ¬ c → Sound s b.s) : Sound s (if c then a else b).s := by
  split
  · exact x
  · exact y ‹_›

end Sound

namespace Leads

protected theorem done (x : Sound s m) : Leads s (.next (finish m)) := fun _ q => Host.Outcome.next.inj q ▸ x.finish

protected theorem request {i : Instr} {tag : Nat} {r : Req} {f : State → Ans} (w : Sound s (f s).s) : Leads s (request i tag r f s) :=
  .done (.taking w.say)

protected theorem happen {f : Env → Hall → Hall} (w : ∀ {g h}, Keeps g h → Keeps g (f s.env h)) : Leads s (happen s f) :=
  .done ((Sound.refl s).onHall w)

end Leads

namespace Sound

/-! ### Banks and changes -/

section
variable {bank : Nat}

protected theorem withBank {f : BankNo → Bank → Ans} (w : ∀ n, Sound s (f n s.hall.banks[n]).s) : Sound s (withBank bank s f).s :=
  .named fun n _ => w n

/-- A bank as it was, but for a state that is neither ACTIVE nor RETIRING, or emptied. -/
theorem restate {n : BankNo} {f : Bank → Bank} (size : (f s.hall.banks[n]).recs.length ≤ (s.hall.banks[n]).recs.length)
    (st : (f s.hall.banks[n]).st ≠ .active ∧ (f s.hall.banks[n]).st ≠ .retiring) : Sound s (s.setBank n f) :=
  (refl s).setBank ((Keeps.refl _).setBank (fun w => size.trans (w.banks n)) (.inr st))

protected theorem bankOpen {label : Option (List Char)} : Sound s (bankOpen bank label s).s :=
  .withBank fun _ => ans_ite (refl s) fun _ => ans_ite (refl s) fun _ => restate (Nat.zero_le _) (by simp)

protected theorem entryPut {f : EntryForm} : Sound s (entryPut bank f s).s := by
  refine .withBank fun n => ans_ite (refl s) fun _ => .named fun en _ => ?_
  split
  · exact refl s
  · refine ans_ite (refl s) fun room => (refl s).setBank ((Keeps.refl _).putBank fun _ => ?_)
    simp only [Bool.and_eq_true, decide_eq_true_eq, not_and, Option.isNone_iff_eq_none] at room
    rw [Option.isSome_iff_ne_none]
    by_cases v : (s.hall.banks[n]).find en.id = none
    · exact .inr (Nat.lt_of_not_le (room v))
    · exact .inl v

protected theorem entryDrop {id : Nat} : Sound s (entryDrop bank id s).s :=
  .withBank fun _ => ans_ite (refl s) fun _ => ans_ite (refl s) fun _ => (refl s).setBank (Keeps.refl _).removeBank

protected theorem bankCommit {d : DateForm} {hhmm : Nat} : Sound s (bankCommit bank d hhmm s).s := by
  refine .withBank fun n => .named fun start _ => ans_ite (refl s) fun _ => ?_
  split
  · exact refl s
  · have y : Sound s (s.setBank n fun b => { b with st := .committed, start := some start }) := restate le_rfl (by simp)
    exact ans_ite (y.onHall fun z => z.changeoverIfDue) fun _ => y

protected theorem bankUncommit : Sound s (bankUncommit bank s).s :=
  .withBank fun _ => ans_ite (refl s) fun _ => restate le_rfl (by simp)

protected theorem bankRelease : Sound s (bankRelease bank s).s :=
  .withBank fun _ => ans_ite (restate (Nat.zero_le _) (by simp [Bank.blank])) fun _ => refl s

protected theorem bankRestage {label : Option (List Char)} : Sound s (bankRestage bank label s).s :=
  .withBank fun _ => ans_ite (refl s) fun _ => ans_ite (refl s) fun _ => restate le_rfl (by simp)

protected theorem bankStatus : Sound s (bankStatus bank s).s := .withBank fun _ => refl s

protected theorem entryGet {id : Nat} : Sound s (entryGet bank id s).s := by
  refine .withBank fun n => ?_
  split
  · exact refl s
  · exact refl s

protected theorem entryList {first : Nat} : Sound s (entryList bank first s).s := .withBank fun _ => refl s

theorem entryOf_id {f : EntryForm} {en : Entry} (w : entryOf f = some en) : en.id = f.id := by
  simp only [entryOf, Option.bind_eq_bind, Option.bind_eq_some_iff] at w
  obtain ⟨_, _, _, _, _, _, _, _, _, _, _, _, _, _, w⟩ := w
  split at w
  · rw [← Option.some.inj w]
  · cases w

/-- R20: the entry of a change has the change's id. -/
theorem changeEntry_id {id : Nat} {f : Option EntryForm} {en : Entry} (w : changeEntry id f = some (some en)) : en.id = id := by
  unfold changeEntry at w
  split at w
  · cases w
  · split at w
    · next v =>
      split at w
      · cases w
      · obtain rfl := Option.some.inj (Option.some.inj w)
        exact entryOf_id v
    · cases w

/-- A change that joins the queue. -/
theorem postChange {c : Change} (room : s.hall.changes.length < Config.maxChanges) (ok : c.idOk) :
    Sound s { s with hall := { s.hall with changes := s.hall.changes ++ [c] } } := by
  refine (refl s).on ⟨fun w => ⟨w.banks, ?_, fun d m => ?_, w.deferral, w.stack, w.windows, w.faults⟩, Keeps.banks_of fun _ => rfl, id⟩
  · simpa using room
  · rcases List.mem_append.1 m with m | m
    · exact w.changeIds d m
    · rwa [List.mem_singleton.1 m]

protected theorem changePost {tag id : Nat} {kind : Option ChangeKind} {f : Option EntryForm} :
    Sound s (changePost tag bank kind id f s).s := by
  refine ans_ite (refl s) fun _ => .named fun n _ => .named fun k _ => ans_ite (refl s) fun _ => .named fun en q =>
    ans_ite (refl s) fun room => (postChange (Nat.lt_of_not_le room) fun x v => ?_).ans
  exact changeEntry_id (q.trans (congrArg some v))

end

/-! ### The Time Base -/

protected theorem clockNotice {p : Option (ClockTick × ClockTick)} (x : Sound s m) : Sound s (m.clockNotice p) := x.note

protected theorem minute (x : Sound s m) : Sound s m.minute := x.onHall fun z => z.engineMinute

protected theorem pulse (x : Sound s m) : Sound s (pulse m) := by
  unfold pulse
  extract_lets k₁ k₂
  have x₁ : Sound s k₁ := x.setTime
  have x₂ : Sound s k₂ := .ite x₁.clockNotice x₁
  exact .ite x (.ite x₂.minute x₂)

protected theorem stepClock {v : ClockTick} (x : Sound s m) : Sound s (stepClock v m) := by
  unfold stepClock
  extract_lets k₁ k₂ k₃ k₄
  have x₂ : Sound s k₂ := x.setTime.clockNotice
  have x₃ : Sound s k₃ := .ite (x₂.onHall fun z => z.report) x₂
  have x₄ : Sound s k₄ := x₃.onHall fun z => z.engineStep
  exact .ite x₄.minute x₄

protected theorem timeSet {d : DateForm} {h k sec : Nat} : Sound s (timeSet d h k sec s).s :=
  .named fun _ _ => ans_ite (refl s).stepClock.ans fun _ => ans_ite (refl s) fun _ => ans_ite (refl s).setTime.ans fun _ => (refl s).stepClock.ans

protected theorem slewWorkedOff : Sound s (slewWorkedOff s) := .ite (refl s).setTime (refl s)

protected theorem pulseAbsence : Sound s (pulseAbsence s) := by
  unfold pulseAbsence
  extract_lets k
  have x : Sound s k := (refl s).setTime
  exact .ite (.ite (x.clockNotice.onHall fun z => z.report) x) (refl s)

/-! ### The engine and the Frequency Check -/

protected theorem engineSet {lead cool : Option Nat} : Sound s (engineSet lead cool s).s :=
  ans_ite (refl s).setTables.ok fun _ => refl s

protected theorem quiesce : Sound s (quiesce s).s := ans_ite ((refl s).onHall fun z => z.quiesceHall) fun _ => refl s

protected theorem resume : Sound s (resume s).s := ans_ite ((refl s).onHall fun z => z.resumeHall) fun _ => refl s

protected theorem exclusionAdd {low high : Nat} {modes : Option (List (Option Mode))} : Sound s (exclusionAdd low high modes s).s :=
  .named fun _ _ => ans_ite (refl s) fun _ => ans_ite (refl s) fun _ => (refl s).setTables.onHall fun z => z.sweep

protected theorem exclusionDrop {index : Nat} : Sound s (exclusionDrop index s).s :=
  ans_ite (refl s) fun _ => ans_ite (refl s) fun _ => ans_ite (refl s) fun _ => (refl s).setTables.onHall fun z => z.sweep

protected theorem outputDefine {o : Option Out} {low high rating throw : Option Nat} {slew : Option Bool} :
    Sound s (outputDefine o low high rating throw slew s).s := by
  refine .named fun o _ => ?_
  extract_lets d r change k₁ k₂
  have x₁ : Sound s k₁ := (refl s).setTables
  have x₂ : Sound s k₂ := .ite (x₁.onHall fun z => z.slewFlag) x₁
  exact ans_ite (refl s) fun _ => ans_ite (refl s) fun _ => ans_ite (refl s) fun _ => ans_ite (refl s) fun _ =>
    x₂.onHall fun z => z.sweep

protected theorem outputUndefine {o : Option Out} : Sound s (outputUndefine o s).s :=
  .named fun _ _ => ans_ite (refl s) fun _ => ans_ite (refl s) fun _ => (refl s).setTables.ok

protected theorem check {freq power : Option Nat} {mode : Option Mode} {o : Option Out} {t : Option (Option Tx)} :
    Sound s (checkRequest freq mode o power t s).s :=
  .named fun _ _ => .named fun _ _ => .named fun _ _ => .named fun _ _ => ans_ite (refl s) fun _ => refl s

/-! ### Faults -/

protected theorem faultClear {tag seq : Nat} : Sound s (faultClear tag seq s) := by
  unfold faultClear
  refine .ite (refl s).say ?_
  split
  · exact (refl s).say
  · exact (refl s).onHall fun z => z.clearRecord

protected theorem faultList {first : Nat} : Sound s (faultList first s).s := by
  unfold faultList
  dsimp only
  split
  · exact refl s
  · exact refl s

protected theorem faultGet {seq : Nat} : Sound s (faultGet seq s).s := by
  unfold faultGet
  split
  · exact refl s
  · exact refl s

protected theorem faultClearOverflow : Sound s (faultClearOverflow s).s := (refl s).on ((Keeps.refl _).faults id)

/-! ### The matrix and the positioners -/

protected theorem matrixStatus {x : Option MatrixSubject} : Sound s (matrixStatus x s).s := by
  refine .named fun x _ => ?_
  cases x with
  | out o => exact refl s
  | tx t => exact refl s

protected theorem withPos {o : Option Out} {f : Out → Pos → Ans} (w : ∀ o p, s.hall.path.pos[o] = some p → Sound s (f o p).s) :
    Sound s (withPos o s f).s := by
  refine .named fun o _ => ?_
  split
  · exact refl s
  · exact w _ _ ‹_›

/-- R120: a line that no other positioner holds, and that is not the antenna's own, is free. -/
theorem newLine_free {p : Pos} {line : Option Nat} {h : Hall} (hp : h.path.pos[o] = some p)
    (w : (((newLine p line).bind (lineHolder h)).filter fun u => decide (u ≠ o)) = none) (l : Fin 8) (q : newLine p line = some l)
    (u : Out) (r : Pos) (v : h.path.pos[u] = some r) : r.line ≠ l := by
  intro e
  have ne : l ≠ p.line := by simpa using (Option.filter_eq_some_iff.1 q).2
  have holds : (lineHolder h l).isSome := by
    rw [lineHolder, List.find?_isSome]
    exact ⟨u, List.mem_finRange u, by simp [v, e]⟩
  obtain ⟨a, ha⟩ := Option.isSome_iff_exists.1 holds
  have own : ∀ b, lineHolder h l = some b → b = o := by simpa [q] using w
  have same : a = o := own a ha
  unfold lineHolder at ha
  have hl := List.find?_some ha
  rw [same, hp] at hl
  exact ne (by simpa using (of_decide_eq_true hl).symm)

protected theorem positionerSet {o : Option Out} {line rate : Option Nat} : Sound s (positionerSet o line rate s).s := by
  refine .withPos fun o p hp => ans_ite (refl s) fun _ => ?_
  extract_lets l
  split
  · exact refl s
  · next free =>
    refine ans_ite (refl s) fun _ => (refl s).on (Keeps.moveLine (Keeps.refl _).mapPos fun m q u r v => ?_)
    simp only [Hall.mapPos_path, get_upd] at v
    split at v
    · next c =>
      subst c
      obtain ⟨k, hk, rfl⟩ := Option.map_eq_some_iff.1 v
      exact newLine_free hp free m q o k hk
    · exact newLine_free hp free m q u r v

theorem setPreset_line (p : Pos) (n : Nat) (az : Option Nat) : (p.setPreset n az).line = p.line := by
  unfold Pos.setPreset
  split <;> rfl

protected theorem presetSet {o : Option Out} {n : Nat} {az : Option Nat} : Sound s (presetSet o n az s).s :=
  .withPos fun _ _ _ => ans_ite (refl s) fun _ => ans_ite (refl s) fun _ =>
    (refl s).on ((Keeps.refl _).mapPos fun p => setPreset_line p n az)

protected theorem positionerStatus {o : Option Out} : Sound s (positionerStatus o s).s := .withPos fun _ _ _ => refl s

/-! ### Transmitters, sense lines and recovery -/

protected theorem txDefine {t : Option Tx} {rating warm tune raise lower : Option Nat} :
    Sound s (txDefine t rating warm tune raise lower s).s :=
  .named fun _ _ => ans_ite (refl s) fun _ => .ok (.onHall (refl s).setTables fun z => z.defineTx.sweep)

protected theorem txUndefine {t : Option Tx} : Sound s (txUndefine t s).s :=
  .named fun _ _ => ans_ite (refl s) fun _ => ans_ite (refl s) fun _ => .ok (.onHall (refl s).setTables fun z => z.undefineTx)

protected theorem qualificationExpiry {l : SenseLine} : Sound s (qualificationExpiry l s) := by
  unfold qualificationExpiry
  split
  · exact refl s
  · extract_lets k
    have x : Sound s k := (refl s).onHall fun z => z.qualify
    exact .ite x.pulse x

protected theorem senseSet {l : Option SenseLine} {mode : Option (Option SenseMode)} {mask : Option Bool} {qual : Option Nat} :
    Sound s (senseSet l mode mask qual s).s :=
  .named fun _ _ => ans_ite (refl s) fun _ => (refl s).setTables.onHall fun z => z.senseEdited

protected theorem recoverySet {delay retries window foldback : Option Nat} : Sound s (recoverySet delay retries window foldback s).s :=
  ans_ite (refl s) fun _ => (refl s).setTables.onHall fun z => z.recoveryEdited

/-! ### Holds, plans and directives -/

protected theorem holdSet {t : Option Tx} {v : Option HoldForm} : Sound s (holdSet t v s).s := by
  refine .named fun t _ => .named fun v _ => ?_
  split
  · exact refl s
  · exact refl s
  · exact refl s
  · exact .ok (.onHall (refl s) fun z => z.setHoldValue)

protected theorem holdClear {t : Option Tx} {a : Option Aspect} : Sound s (holdClear t a s).s :=
  .named fun _ _ => .named fun _ _ => .ok (.onHall (refl s) fun z => z.clearHold)

protected theorem holdStatus {t : Option (Option Tx)} : Sound s (holdStatus t s).s := by
  unfold holdStatus
  split <;> exact refl s

protected theorem planLoad {plan : Nat} {steps : List StepForm} : Sound s (planLoad plan steps s).s :=
  .named fun _ _ => .named fun _ _ => ans_ite (refl s) fun _ => (refl s).setTables.ok

protected theorem planDrop {plan : Nat} : Sound s (planDrop plan s).s :=
  .named fun _ _ => ans_ite (refl s) fun _ => ans_ite (refl s) fun _ => (refl s).setTables.ok

protected theorem planGet {plan : Nat} : Sound s (planGet plan s).s := by
  refine ans_ite (refl s) fun _ => .named fun n _ => ?_
  split <;> exact refl s

protected theorem planSet {step : Option Nat} : Sound s (planSet step s).s := ans_ite (refl s).setTables.ok fun _ => refl s

protected theorem directivePost {tag plan : Nat} : Sound s (directivePost tag plan s).s := by
  refine ans_ite ?_ fun _ => .named fun _ _ => ans_ite (refl s) fun _ => ?_
  · exact ans_ite (refl s) fun _ => .ans (.onHall (refl s) fun z => z.startPlan0)
  · exact ans_ite (refl s) fun _ => ans_ite (.ans (.onHall (refl s) fun z => z.acceptPlan)) fun _ => (refl s).on (Keeps.refl _).plain

protected theorem directiveWithdraw : Sound s (directiveWithdraw s).s := by
  unfold directiveWithdraw
  split
  · exact (refl s).on (Keeps.refl _).plain
  · exact ans_ite (refl s) fun _ => refl s
  · exact refl s

/-! ### Resets and the link -/

protected theorem hallReset : Sound s (hallReset s).s := by
  have y : Sound s { s with link := { s.link with notices := [], receiving := none } } := ⟨.refl _, fun _ => Nat.zero_le _⟩
  exact y.onHall fun z => z.resetHall

protected theorem sectionReset {t : Option Tx} : Sound s (sectionReset t s).s :=
  .named fun _ _ => ans_ite (refl s) fun _ => (refl s).onHall fun z => z.resetSection

protected theorem storeErase : Sound s (storeErase s).s := by
  refine ans_ite (refl s) fun _ => ans_ite (refl s) fun _ => ?_
  have y : Sound s { s with hall := undefAll s.tables s.hall } := (refl s).on (Keeps.refl _).undefAll
  exact y.setTables.onHall fun z => z.eraseHall

protected theorem powerUp : Sound s (powerUp s) := ⟨.powerOn, fun _ => Nat.zero_le _⟩

protected theorem lineSent : Sound s (lineSent s) := ⟨.refl _, fun w => (Link.startSend_notices _).trans w⟩

protected theorem hallStatus : Sound s (hallStatus s).s := (refl s).plain

theorem resyncLink_notices (d : Dir) (l : Link) : (resyncLink d l).notices.length ≤ l.notices.length := by
  cases d <;> simp [resyncLink, resyncIn, resyncOut]

protected theorem resync {d : Option (Option Dir)} : Sound s (resync d s).s := by
  unfold resync
  split
  · exact refl s
  · exact refl s
  · exact ⟨.refl _, (resyncLink_notices _ _).trans⟩

protected theorem resyncNow {tag : Nat} {d : Option (Option Dir)} : Sound s (resyncNow tag d s) := .ite Sound.resync.say (refl s).say

protected theorem requestBadForm {head : LineHead} : Sound s (requestBadForm head s) := .ite (refl s).hold (refl s).say

protected theorem resyncLine {l : List Char} : Sound s (resyncLine l s) := by
  unfold resyncLine
  split
  · exact .resyncNow
  · exact (refl s).say

protected theorem lineComplete {l : List Char} : Sound s (lineComplete l s) :=
  .ite (.ite (refl s) (.ite (refl s).note (.ite (refl s).note (.ite .resyncLine (refl s).hold)))) (refl s).plain

end Sound

/-- Every command keeps the sizes, the banks and the lines. -/
theorem exec_leads (c : Instr) (s : State) : Leads s (exec c s) := by
  cases c with
  | powerOn => exact fun _ q => Host.Outcome.next.inj q ▸ Sound.powerUp
  | lineComplete => exact .done .lineComplete
  | requestBadForm => exact .done .requestBadForm
  | outboundLineSent => exact .done .lineSent
  | bankOpen => exact .request .bankOpen
  | entryPut => exact .request .entryPut
  | entryDrop => exact .request .entryDrop
  | bankCommit => exact .request .bankCommit
  | bankUncommit => exact .request .bankUncommit
  | bankRelease => exact .request .bankRelease
  | bankRestage => exact .request .bankRestage
  | bankStatus => exact .request .bankStatus
  | entryGet => exact .request .entryGet
  | entryList => exact .request .entryList
  | changePost => exact .request .changePost
  | changeList => exact .request (.refl s)
  | timeSet => exact .request .timeSet
  | timeStatus => exact .request (.refl s)
  | minuteEvent => exact .done (Sound.refl s).minute
  | slewWorkedOff => exact .done .slewWorkedOff
  | pulseAbsenceTimeout => exact .done .pulseAbsence
  | engineSet => exact .request .engineSet
  | quiesce => exact .request .quiesce
  | resume => exact .request .resume
  | assignmentStatus => exact .request (.named fun _ _ => .refl s)
  | deferralList => exact .request (.refl s)
  | idleTimerExpiry => exact .happen fun z => z.idleExpiry
  | exclusionAdd => exact .request .exclusionAdd
  | exclusionDrop => exact .request .exclusionDrop
  | outputDefine => exact .request .outputDefine
  | outputUndefine => exact .request .outputUndefine
  | exclusionList => exact .request (.refl s)
  | outputGet => exact .request (.named fun _ _ => .refl s)
  | check => exact .request .check
  | licenceLock => exact .request (Sound.refl s).setTables.ok
  | columnReport => exact .happen fun z => z.columnReport
  | readTimeout => exact .happen fun z => z.readTimeout
  | throwTimeout => exact .happen fun z => z.throwTimeout
  | matrixStatus => exact .request .matrixStatus
  | motionList => exact .request (.refl s)
  | positionerSet => exact .request .positionerSet
  | presetSet => exact .request .presetSet
  | positionerStatus => exact .request .positionerStatus
  | positionerReport => exact .happen fun z => z.positionerReport
  | queryTimeout => exact .happen fun z => z.queryTimeout
  | queryRepeat => exact .happen fun z => z.queryRepeat
  | readFullTravelTimeout => exact .happen fun z => z.readFullTravelTimeout
  | slewTimeout => exact .happen fun z => z.slewTimeout
  | txDefine => exact .request .txDefine
  | txUndefine => exact .request .txUndefine
  | txStatus => exact .request (.named fun _ _ => .refl s)
  | cabinetSlot => exact .happen fun z => z.cabinetSlot
  | cabinetReply => exact .happen fun z => z.cabinetReply
  | missedReply => exact .happen fun z => z.missedReply
  | warmTimeout => exact .happen fun z => z.warmTimeout
  | tuneTimeout => exact .happen fun z => z.tuneTimeout
  | raiseTimeout => exact .happen fun z => z.raiseTimeout
  | lowerTimeout => exact .happen fun z => z.lowerTimeout
  | coolTimeout => exact .happen fun z => z.coolTimeout
  | clearTripTimeout => exact .happen fun z => z.clearTripTimeout
  | senseRawChange => exact .happen fun z => z.rawChange
  | qualificationTimerExpiry => exact .done .qualificationExpiry
  | senseSet => exact .request .senseSet
  | senseStatus => exact .request (.named fun _ _ => .refl s)
  | recoverySet => exact .request .recoverySet
  | tripWindowEntryExpiry => exact .happen fun z => z.expireWindow
  | recoveryDelayExpiry => exact .happen fun z => z.recoveryDelayExpiry
  | holdSet => exact .request .holdSet
  | holdClear => exact .request .holdClear
  | holdStatus => exact .request .holdStatus
  | planLoad => exact .request .planLoad
  | planDrop => exact .request .planDrop
  | planGet => exact .request .planGet
  | planSet => exact .request .planSet
  | directiveStatus => exact .request (.refl s)
  | directivePost => exact .request .directivePost
  | directiveWithdraw => exact .request .directiveWithdraw
  | planStepTimeout => exact .happen fun z => z.planTimeout
  | faultClear => exact .done (.taking .faultClear)
  | faultList => exact .request .faultList
  | faultGet => exact .request .faultGet
  | faultClearOverflow => exact .request .faultClearOverflow
  | adoptionConditionLapse => exact .happen fun z => z.adoptionLapse
  | hallStatus => exact .request .hallStatus
  | identify => exact .request (.refl s)
  | resync => exact .done .resyncNow
  | hallReset => exact .request .hallReset
  | sectionReset => exact .request .sectionReset
  | storeErase => exact .request .storeErase

/-- So does every step. -/
theorem step_leads (s : State) : Leads s (step s) := by
  unfold step
  split
  · next i rest _ =>
    have y : Sound s { s with pending := rest } := (Sound.refl s).plain
    exact fun t q => y.trans (exec_leads i _ t q)
  · split
    · next w q =>
      have y : Sound s w.2 := by
        unfold takeWaiting at q
        split at q
        · split at q
          · cases q
          · rw [← Option.some.inj q]
            exact (Sound.refl s).plain
        · cases q
      exact fun t q => y.trans (exec_leads w.1 w.2 t q)
    · exact fun _ q => Host.Outcome.next.inj q ▸ (Sound.refl s).plain

end
end Sys2Proof.Machine

namespace Sys2Proof.Proofs

set_option Elab.async false
section
open Machine

/-- Settles O60, by the `Sound` lemma of each command. -/
theorem sizesInvariant : Obligations.SizesInvariant := fun s t w q =>
  let x := step_leads s t q
  ⟨x.hall.sizes w.hall, x.notices w.notices⟩

/-- Settles O55, by the `Sound` lemma of each command. -/
theorem banksAndLinesInvariant : Obligations.BanksAndLinesInvariant :=
  ⟨fun s t w q => (step_leads s t q).hall.banks w, fun s t w q => (step_leads s t q).hall.lines w⟩

end
end Sys2Proof.Proofs
namespace Sys2Proof.Machine

set_option Elab.async false
section
variable {s m : State} {tag : Nat} {c i : Instr} {r : Req} {f : State → Ans} {n : BankNo}

/-! ### Requests that are answered -/

/-- A request on a free link whose answer changes nothing. -/
theorem answers_request {st : Status} {b : ReplyBody} (w : s.takes tag) (h : exec c s = request i tag r f s)
    (a : f s = s.ans st b) : Answers c s tag r st b :=
  completes_request w h (by rw [a]; rfl)

/-- A request on a free link that is refused. -/
theorem refused_request {st : Status} (w : s.takes tag) (h : exec c s = request i tag r f s) (a : f s = s.refuse st) :
    Answers c s tag r st .nothing := answers_request w h a

/-- A request on a free link that is answered OK. -/
theorem takenOk_request (w : s.takes tag) (h : exec c s = request i tag r f s) (a : f s = m.ok) : TakenOk c s m tag r :=
  completes_request w h (by rw [a]; rfl)

/-- R4: a bank's number is 1 to 4. -/
theorem bankOf_none {bank : Nat} (w : ¬ (1 ≤ bank ∧ bank ≤ 4)) : bankOf bank = none := dif_neg w

theorem withBank_none {bank : Nat} {f : BankNo → Bank → Ans} (w : ¬ (1 ≤ bank ∧ bank ≤ 4)) :
    withBank bank s f = s.refuse .range := by rw [withBank, bankOf_none w, named_none]

@[simp] theorem withBank_succ {f : BankNo → Bank → Ans} : withBank (n.val + 1) s f = f n s.hall.banks[n] := by
  rw [withBank, bankOf_succ, named_some]

/-- R20: with the right form, the bank is looked at first. -/
theorem changePost_range {bank id : Nat} {k : ChangeKind} {f : Option EntryForm} (form : changeForm (some k) f = true)
    (w : ¬ (1 ≤ bank ∧ bank ≤ 4)) : changePost tag bank (some k) id f s = s.refuse .range := by
  unfold changePost
  rw [form, bankOf_none w]
  rfl

/-! ### Entries of a bank -/

theorem find_none {b : Bank} {id : Nat} : b.find id = none ↔ ∀ r ∈ b.recs, r.entry.id ≠ id := by
  simp [Bank.find]

theorem find_isNone {b : Bank} {id : Nat} : (b.find id).isNone = true ↔ ∀ r ∈ b.recs, r.entry.id ≠ id := by
  rw [Option.isNone_iff_eq_none, find_none]

theorem find_id {b : Bank} {id : Nat} {x : EntryRec} (w : b.find id = some x) : x.entry.id = id := by
  simpa using List.find?_some w

/-- R7: where each id stands once, a removal takes one entry. -/
theorem filter_id_length {l : List EntryRec} {id : Nat} (d : (l.map fun x => x.entry.id).Nodup) (w : ∃ x ∈ l, x.entry.id = id) :
    (l.filter fun x => x.entry.id ≠ id).length + 1 = l.length := by
  induction l with
  | nil => obtain ⟨x, hx, _⟩ := w; cases hx
  | cons y l ih =>
    obtain ⟨fresh, d⟩ := List.nodup_cons.1 d
    by_cases q : y.entry.id = id
    · have all : l.filter (fun x => x.entry.id ≠ id) = l :=
        List.filter_eq_self.2 fun x m => by
          have ne : x.entry.id ≠ y.entry.id := fun v => fresh (List.mem_map.2 ⟨x, m, v⟩)
          simpa [← q] using ne
      rw [List.filter_cons_of_neg (by simp [q]), all, List.length_cons]
    · obtain ⟨x, hx, hid⟩ := w
      have hx : x ∈ l := (List.mem_cons.1 hx).resolve_left fun v => q (v ▸ hid)
      simp [q, ← ih d ⟨x, hx, hid⟩]

theorem entryDrop_state {id : Nat} (st : (s.hall.banks[n]).st ≠ .staging) : entryDrop (n.val + 1) id s = s.refuse .state := by
  rw [entryDrop, withBank_succ, if_pos st]

theorem entryDrop_notFound {id : Nat} (st : (s.hall.banks[n]).st = .staging) (gone : ∀ x ∈ (s.hall.banks[n]).recs, x.entry.id ≠ id) :
    entryDrop (n.val + 1) id s = s.refuse .notFound := by
  rw [entryDrop, withBank_succ, if_neg (not_not.2 st), if_pos (find_isNone.2 gone)]

theorem entryDrop_ok {id : Nat} (st : (s.hall.banks[n]).st = .staging) (held : ∃ x ∈ (s.hall.banks[n]).recs, x.entry.id = id) :
    entryDrop (n.val + 1) id s = (s.setBank n fun b => b.remove id).ok := by
  have some : ¬ ((s.hall.banks[n]).find id).isNone = true := by
    obtain ⟨x, hx, hid⟩ := held
    exact fun v => find_isNone.1 v x hx hid
  rw [entryDrop, withBank_succ, if_neg (not_not.2 st), if_neg some]

theorem setBank_const (g : Bank → Bank) : s.setBank n g = s.setBank n fun _ => g s.hall.banks[n] := by
  simp only [State.setBank, Hall.setBank, upd]

theorem entryGet_some {id : Nat} {x : EntryRec} (q : (s.hall.banks[n]).find id = some x) :
    entryGet (n.val + 1) id s = s.ans .ok (.entry x.entry x.mark) := by
  rw [entryGet, withBank_succ, q]

theorem entryGet_none {id : Nat} (q : (s.hall.banks[n]).find id = none) : entryGet (n.val + 1) id s = s.refuse .notFound := by
  rw [entryGet, withBank_succ, q]

theorem bankStatus_eq : bankStatus (n.val + 1) s = s.ans .ok
    (.bank n (s.hall.banks[n]).st (s.hall.banks[n]).label (s.hall.banks[n]).recs.length (s.hall.banks[n]).start) :=
  withBank_succ

/-- R17: the ids of a bank from the one given. -/
def idsFrom (b : Bank) (first : Nat) : List Nat := (b.recs.map fun x => x.entry.id).filter fun i => first ≤ i

theorem entryList_eq {first : Nat} : entryList (n.val + 1) first s =
    s.ans .ok (.ids ((idsFrom s.hall.banks[n] first).take 40) ((idsFrom s.hall.banks[n] first).drop 40).head?) :=
  withBank_succ

end
end Sys2Proof.Machine

namespace Sys2Proof.Proofs

set_option Elab.async false
section
open Machine

/-- Settles O11, by the range test that each request begins with. -/
theorem namesOutsideTheirLists : Obligations.NamesOutsideTheirLists := by
  intro tag s w
  refine ⟨fun bank out => ⟨?_, ?_, ?_, ?_, ?_, ?_, ?_, ?_, ?_, ?_, fun k id => ⟨?_, fun f kind => ?_⟩⟩,
    ?_, ?_, ?_, ?_, ?_, ?_, ?_, ?_, ?_, ?_, ?_, ?_, ?_, ?_, ?_, ?_, ?_, ?_, ?_⟩
  · exact fun l => refused_request w rfl (withBank_none out)
  · exact fun f => refused_request w rfl (withBank_none out)
  · exact fun id => refused_request w rfl (withBank_none out)
  · exact fun d m => refused_request w rfl (withBank_none out)
  · exact refused_request w rfl (withBank_none out)
  · exact refused_request w rfl (withBank_none out)
  · exact fun l => refused_request w rfl (withBank_none out)
  · exact refused_request w rfl (withBank_none out)
  · exact fun id => refused_request w rfl (withBank_none out)
  · exact fun id => refused_request w rfl (withBank_none out)
  · exact refused_request w rfl (changePost_range rfl out)
  · refine refused_request w rfl (changePost_range ?_ out)
    rcases kind with rfl | rfl <;> rfl
  · exact refused_request w rfl rfl
  · exact fun a b c d e => refused_request w rfl rfl
  · exact refused_request w rfl rfl
  · exact refused_request w rfl rfl
  · exact refused_request w rfl rfl
  · exact fun a b => refused_request w rfl rfl
  · exact fun a b => refused_request w rfl rfl
  · exact refused_request w rfl rfl
  · exact fun a b c d e => refused_request w rfl rfl
  · exact refused_request w rfl rfl
  · exact refused_request w rfl rfl
  · exact fun a b c => refused_request w rfl rfl
  · exact refused_request w rfl rfl
  · exact fun v => refused_request w rfl rfl
  · exact fun t => refused_request w rfl (by cases t <;> rfl)
  · exact fun a => refused_request w rfl rfl
  · exact fun t => refused_request w rfl (by cases t <;> rfl)
  · exact refused_request w rfl rfl
  · exact refused_request w rfl rfl

/-- Settles O13, by the tests of R7 in their order. -/
theorem entryDrop : Obligations.EntryDrop := by
  intro tag id n s w
  refine ⟨fun st held => ⟨takenOk_request w rfl ((entryDrop_ok st held).trans ?_), fun d => filter_id_length d held⟩,
    fun st gone => refused_request w rfl (entryDrop_notFound st gone), fun st => refused_request w rfl (entryDrop_state st)⟩
  rw [setBank_const, setBank_const (g := fun b => { b with recs := _ })]
  rfl

/-- Settles O15, by each request's tests in their order. -/
theorem bankStates : Obligations.BankStates := by
  intro tag n label s w
  refine ⟨fun st ok => takenOk_request w rfl ?_, fun st bad => refused_request w rfl ?_, fun st => refused_request w rfl ?_,
    fun st => takenOk_request w rfl ?_, fun st => refused_request w rfl ?_,
    fun st => takenOk_request w rfl ?_, fun st st' => refused_request w rfl ?_,
    fun st ok => takenOk_request w rfl ?_, fun st bad => refused_request w rfl ?_, fun st => refused_request w rfl ?_⟩
  · rw [bankOpen, withBank_succ, if_neg (not_not.2 st), if_neg (by simp [ok])]
  · rw [bankOpen, withBank_succ, if_neg (not_not.2 st), if_pos (by simp [bad])]
  · rw [bankOpen, withBank_succ, if_pos st]
  · rw [bankUncommit, withBank_succ, if_neg (not_not.2 st)]
  · rw [bankUncommit, withBank_succ, if_pos st]
  · rw [bankRelease, withBank_succ, if_pos (by simpa using st)]
    rfl
  · rw [bankRelease, withBank_succ, if_neg (by simpa using ⟨st, st'⟩)]
  · rw [bankRestage, withBank_succ, if_neg (not_not.2 st), if_neg (by simp [ok])]
  · rw [bankRestage, withBank_succ, if_neg (not_not.2 st), if_pos (by simp [bad])]
  · rw [bankRestage, withBank_succ, if_pos st]

/-- Settles O16, by the three requests' answers; those of an EMPTY bank are instances of them. -/
theorem bankReads : Obligations.BankReads := by
  intro tag id n s w
  have status := answers_request (c := .bankStatus tag (n.val + 1)) w rfl bankStatus_eq
  have list := answers_request (c := .entryList tag (n.val + 1) id) w rfl entryList_eq
  refine ⟨status, fun x q => answers_request w rfl (entryGet_some q), fun q => refused_request w rfl (entryGet_none q), list,
    fun blank => ⟨?_, refused_request w rfl (entryGet_none ?_), ?_⟩⟩
  · rw [blank] at status
    exact status
  · rw [blank]
    rfl
  · rw [blank] at list
    exact list

end
end Sys2Proof.Proofs
namespace Sys2Proof.Machine

set_option Elab.async false
section
variable {s m : State} {tag : Nat} {n : BankNo} {h : Hall} {k : Tables} {en : Entry} {b : Bank}

/-! ### The tests of an entry -/

/-- R6, R8, R24: the tests of an entry, as the statements write them. -/
theorem entryFault_eq : entryFault k h en =
    (let answer := check k h ⟨some en.freq, some en.mode, some en.out, some en.power, none⟩
     if txDefined k h en.tx = false ∨ (k.outs[en.out]).defined = false then some (.notFound, none)
     else if en.preset.isSome ≠ (k.outs[en.out]).slewable ∨ (k.txs[en.tx]).rating < en.power then some (.range, none)
     else if answer ≠ .permitted then some (answer.status, some answer)
     else none) := by
  unfold entryFault
  simp only [Bool.or_eq_true, Bool.not_eq_true']
  by_cases d : txDefined k h en.tx = false ∨ (k.outs[en.out]).defined = false
  · rw [if_pos d, if_pos d]
  rw [if_neg d, if_neg d]
  by_cases p : en.preset.isSome ≠ (k.outs[en.out]).slewable
  · rw [if_pos p, if_pos (.inl p)]
  rw [if_neg p]
  by_cases q : (k.txs[en.tx]).rating < en.power
  · rw [if_pos q, if_pos (.inr q)]
  rw [if_neg q, if_neg (by simp only [p, q, or_self, not_false_eq_true])]
  split
  · next v => rw [if_neg (not_not.2 v)]
  · next v => rw [if_pos v]

/-- R6: the transmitter and the output of an entry are defined. -/
def EntryDefined (k : Tables) (h : Hall) (en : Entry) : Prop := txDefined k h en.tx = true ∧ (k.outs[en.out]).defined = true

/-- R6: the entry carries a preset exactly when its output is slewable. -/
def PresetFits (k : Tables) (en : Entry) : Prop := en.preset.isSome = (k.outs[en.out]).slewable

/-- R6: the entry's power is within the transmitter's rating. -/
def PowerFits (k : Tables) (en : Entry) : Prop := en.power ≤ (k.txs[en.tx]).rating

theorem entryFault_notFound (d : ¬ EntryDefined k h en) : entryFault k h en = some (.notFound, none) := by
  rw [entryFault_eq]
  exact if_pos (by simpa [EntryDefined, or_iff_not_imp_left] using d)

theorem entryFault_range (d : EntryDefined k h en) (p : ¬ PresetFits k en ∨ ¬ PowerFits k en) :
    entryFault k h en = some (.range, none) := by
  obtain ⟨dt, d_out⟩ := d
  rw [entryFault_eq]
  dsimp only
  rw [if_neg (by rw [dt, d_out]; decide)]
  exact if_pos (p.imp_right Nat.lt_of_not_le)

theorem entryFault_check (d : EntryDefined k h en) (p : PresetFits k en) (q : PowerFits k en) : entryFault k h en =
    (let answer := check k h ⟨some en.freq, some en.mode, some en.out, some en.power, none⟩
     if answer ≠ .permitted then some (answer.status, some answer) else none) := by
  obtain ⟨dt, d_out⟩ := d
  rw [entryFault_eq]
  dsimp only
  rw [if_neg (by rw [dt, d_out]; decide)]
  exact if_neg (not_or.2 ⟨not_not.2 p, Nat.not_lt.2 q⟩)

/-! ### An entry put into a bank -/

theorem put_of_some {old : EntryRec} (w : b.find en.id = some old) :
    b.put en = { b with recs := b.recs.map fun r => if r.entry.id = en.id then { r with entry := en } else r } := by
  unfold Bank.put; rw [w]

theorem put_of_none (w : b.find en.id = none) : b.put en = { b with recs := insertRec ⟨en, none⟩ b.recs } := by
  unfold Bank.put; rw [w]

/-- R1: a record goes in front of the first of higher id. -/
theorem insertRec_split (r : EntryRec) (l : List EntryRec) : ∃ before after, l = before ++ after ∧
    insertRec r l = before ++ r :: after ∧ (∀ x ∈ before, x.entry.id ≤ r.entry.id) ∧ ∀ x, after.head? = some x → r.entry.id < x.entry.id := by
  induction l with
  | nil => exact ⟨[], [], rfl, rfl, fun _ m => (nomatch m), fun _ m => nomatch m⟩
  | cons y l ih =>
    unfold insertRec
    split
    · next lt => exact ⟨[], y :: l, rfl, rfl, fun _ m => (nomatch m), fun x m => Option.some.inj m ▸ lt⟩
    · next le =>
      obtain ⟨before, after, hl, hi, hb, ha⟩ := ih
      refine ⟨y :: before, after, congrArg _ hl, congrArg _ hi, fun x m => ?_, ha⟩
      rcases List.mem_cons.1 m with rfl | m
      · exact Nat.le_of_not_lt le
      · exact hb x m

/-- R6: a new entry stands behind those of lower id and, in a bank in id order, before those of higher. -/
theorem put_new_recs (free : b.find en.id = none) : ∃ before after, b.recs = before ++ after ∧
    (b.put en).recs = before ++ ⟨en, none⟩ :: after ∧ (∀ x ∈ before, x.entry.id < en.id) ∧
    ((b.recs.map fun r => r.entry.id).Pairwise (· < ·) → ∀ x ∈ after, en.id < x.entry.id) := by
  obtain ⟨before, after, hl, hi, hb, ha⟩ := insertRec_split ⟨en, none⟩ b.recs
  refine ⟨before, after, hl, by rw [put_of_none free]; exact hi, fun x m => ?_, fun sorted x m => ?_⟩
  · have ne := find_none.1 free x (by rw [hl]; exact List.mem_append_left _ m)
    exact Nat.lt_of_le_of_ne (hb x m) ne
  · cases after with
    | nil => cases m
    | cons y l =>
      have first : en.id < y.entry.id := ha y rfl
      rw [hl, List.map_append, List.map_cons] at sorted
      have rest := (List.pairwise_cons.1 (List.pairwise_append.1 sorted).2.1).1
      rcases List.mem_cons.1 m with rfl | m
      · exact first
      · exact first.trans (rest _ (List.mem_map_of_mem m))

theorem put_new_length (free : b.find en.id = none) : (b.put en).recs.length = b.recs.length + 1 := by
  rw [put_of_none free]
  exact insertRec_length _ _

theorem put_new_find (free : b.find en.id = none) : (b.put en).find en.id = some ⟨en, none⟩ := by
  obtain ⟨before, after, hl, hp, hb, _⟩ := put_new_recs free
  rw [Bank.find, hp, List.find?_append, List.find?_eq_none.2, Option.none_or, List.find?_cons_of_pos (by simp)]
  intro x m
  simpa using (hb x m).ne

theorem put_new_find_other (free : b.find en.id = none) {id : Nat} (ne : id ≠ en.id) : (b.put en).find id = b.find id := by
  obtain ⟨before, after, hl, hp, _, _⟩ := put_new_recs free
  rw [Bank.find, Bank.find, hp, hl, List.find?_append, List.find?_append, List.find?_cons_of_neg (by simpa using ne.symm)]

theorem put_old_find {old : EntryRec} (w : b.find en.id = some old) : (b.put en).find en.id = some ⟨en, old.mark⟩ := by
  rw [put_of_some w, Bank.find, List.find?_map]
  have same : ((fun r : EntryRec => decide (r.entry.id = en.id)) ∘ fun r => if r.entry.id = en.id then { r with entry := en } else r) =
      fun r => decide (r.entry.id = en.id) := by
    funext r
    simp only [Function.comp_apply]
    split <;> simp [*]
  rw [same]
  exact (congrArg _ w).trans (by rw [Option.map_some, if_pos (find_id w)])

theorem put_old_find_other {old : EntryRec} (w : b.find en.id = some old) {id : Nat} (ne : id ≠ en.id) :
    (b.put en).find id = b.find id := by
  rw [put_of_some w, Bank.find, List.find?_map]
  have same : ((fun r : EntryRec => decide (r.entry.id = id)) ∘ fun r => if r.entry.id = en.id then { r with entry := en } else r) =
      fun r => decide (r.entry.id = id) := by
    funext r
    simp only [Function.comp_apply]
    split
    · next q => simp [q, ne.symm]
    · rfl
  rw [same]
  change (b.find id).map _ = _
  cases q : b.find id with
  | none => rfl
  | some x => rw [Option.map_some, if_neg (by rw [find_id q]; exact ne)]

theorem put_other (b : Bank) (en : Entry) : (b.put en).st = b.st ∧ (b.put en).label = b.label ∧ (b.put en).start = b.start := by
  unfold Bank.put
  split <;> exact ⟨rfl, rfl, rfl⟩

/-! ### ENTRY-PUT -/

section
variable {f : EntryForm}

theorem entryPut_state (st : (s.hall.banks[n]).st ≠ .staging) : entryPut (n.val + 1) f s = s.refuse .state := by
  rw [entryPut, withBank_succ, if_pos st]

theorem entryPut_range (st : (s.hall.banks[n]).st = .staging) (q : entryOf f = none) :
    entryPut (n.val + 1) f s = s.refuse .range := by
  rw [entryPut, withBank_succ, if_neg (not_not.2 st), q, named_none]

theorem entryPut_fault {st : Status} {a : Option CheckAnswer} (w : (s.hall.banks[n]).st = .staging) (q : entryOf f = some en)
    (fault : entryFault s.tables s.hall en = some (st, a)) :
    entryPut (n.val + 1) f s = s.ans st (a.elim .nothing .answer) := by
  rw [entryPut, withBank_succ, if_neg (not_not.2 w), q, named_some, fault]
  cases a <;> rfl

theorem entryPut_full (w : (s.hall.banks[n]).st = .staging) (q : entryOf f = some en) (pass : entryFault s.tables s.hall en = none)
    (free : (s.hall.banks[n]).find en.id = none) (full : 400 ≤ (s.hall.banks[n]).recs.length) :
    entryPut (n.val + 1) f s = s.refuse .full := by
  rw [entryPut, withBank_succ, if_neg (not_not.2 w), q, named_some, pass, free]
  exact if_pos (by rw [Bool.and_eq_true, decide_eq_true_eq]; exact ⟨rfl, full⟩)

theorem entryPut_ok (w : (s.hall.banks[n]).st = .staging) (q : entryOf f = some en) (pass : entryFault s.tables s.hall en = none)
    (room : ((s.hall.banks[n]).find en.id).isSome = true ∨ (s.hall.banks[n]).recs.length < 400) :
    entryPut (n.val + 1) f s = (s.setBank n fun _ => (s.hall.banks[n]).put en).ok := by
  rw [entryPut, withBank_succ, if_neg (not_not.2 w), q, named_some, pass]
  dsimp only
  rw [if_neg, setBank_const]
  rw [Bool.and_eq_true, decide_eq_true_eq, Option.isNone_iff_eq_none, ← Option.not_isSome_iff_eq_none]
  rintro ⟨free, full⟩
  exact room.elim free (Nat.not_lt.2 full)

end

end
end Sys2Proof.Machine

namespace Sys2Proof.Proofs

set_option Elab.async false
section
open Machine

/-- Settles O12, by the tests of R6 in their order and the lemmas about `Bank.put`. -/
theorem entryPut : Obligations.EntryPut := by
  intro tag n f s w
  refine ⟨fun st => refused_request w rfl (entryPut_state st), fun st q => refused_request w rfl (entryPut_range st q), fun en st q => ?_⟩
  have pass (d : EntryDefined s.tables s.hall en) (p : PresetFits s.tables en) (k : PowerFits s.tables en)
      (a : check s.tables s.hall ⟨some en.freq, some en.mode, some en.out, some en.power, none⟩ = .permitted) :
      entryFault s.tables s.hall en = none := by
    rw [entryFault_check d p k]
    exact if_neg (not_not.2 a)
  refine ⟨fun d => ?_, fun d p => ?_, fun d p k => ?_, fun d p k a => ?_, fun d p k a free full => ?_, fun d p k a free room => ?_,
    fun old d p k a held => ?_⟩
  · exact refused_request w rfl (entryPut_fault st q (entryFault_notFound d))
  · exact refused_request w rfl (entryPut_fault st q (entryFault_range d (.inl p)))
  · exact refused_request w rfl (entryPut_fault st q (entryFault_range d (.inr k)))
  · exact answers_request w rfl (entryPut_fault st q ((entryFault_check d p k).trans (if_pos a)))
  · exact refused_request w rfl (entryPut_full st q (pass d p k a) free full)
  · obtain ⟨same_st, same_label, same_start⟩ := put_other s.hall.banks[n] en
    exact ⟨_, takenOk_request w rfl (entryPut_ok st q (pass d p k a) (.inr room)), put_new_find free,
      fun id ne => put_new_find_other free ne, put_new_recs free, put_new_length free, same_st, same_label, same_start⟩
  · obtain ⟨same_st, same_label, same_start⟩ := put_other s.hall.banks[n] en
    exact ⟨_, takenOk_request w rfl (entryPut_ok st q (pass d p k a) (.inl (by rw [held]; rfl))), put_old_find held,
      fun id ne => put_old_find_other held ne, by rw [put_of_some held], same_st, same_label, same_start⟩

end
end Sys2Proof.Proofs
namespace Sys2Proof.Machine

set_option Elab.async false
section
variable {k : Tables} {s : State} {pos : Tab (Option Pos) 28}

/-! ### Power-on -/

theorem get_ofFn {α : Type} {n : Nat} (f : Fin n → α) (i : Fin n) : (Vector.ofFn f)[i] = f i := by simp

theorem tab_ext {α : Type} {n : Nat} {v w : Tab α n} (x : ∀ i : Fin n, v[i] = w[i]) : v = w :=
  Vector.ext fun i hi => x ⟨i, hi⟩

/-- R157: the record of a line is its own. -/
theorem senseLine_senseIx (l : SenseLine) : senseLine (senseIx l) = l := by
  have lines : ∀ t : Tx, senseLine (senseIx (.rfp t)) = .rfp t ∧ senseLine (senseIx (.refl t)) = .refl t ∧
      senseLine (senseIx (.arc t)) = .arc t ∧ senseLine (senseIx (.door t)) = .door t := by decide
  cases l with
  | rfp t => exact (lines t).1
  | refl t => exact (lines t).2.1
  | arc t => exact (lines t).2.2.1
  | door t => exact (lines t).2.2.2
  | estop => rfl
  | pulse => rfl

theorem powerOn_sense (l : SenseLine) : k.powerOn.sense[senseIx l] = reloadSense l k.sense[senseIx l] := by
  unfold Tables.powerOn
  dsimp only
  rw [get_ofFn, senseLine_senseIx]

theorem powerOn_line (banks : Tab Bank 4) (raw : Tab Bool 50) (l : SenseLine) :
    (Hall.powerOn k banks pos raw).line l = Sense.powerOn k.sense[senseIx l] raw[senseIx l] := by
  unfold Hall.line Hall.powerOn
  dsimp only
  rw [get_ofFn]

theorem powerOn_pos (o : Out) : (Path.powerOn pos).pos[o] = (pos[o].filter fun q => !q.gone).map Pos.powerOn := by
  simp [Path.powerOn]

theorem powerOn_pos_some {o : Out} {p : Pos} (w : pos[o] = some p) (stays : p.gone = false) :
    (Path.powerOn pos).pos[o] = some p.powerOn := by
  rw [powerOn_pos, w, Option.filter_some_pos (by rw [stays]; rfl), Option.map_some]

theorem powerOn_pos_none {o : Out} (w : ∀ p, pos[o] = some p → p.gone = true) : (Path.powerOn pos).pos[o] = none := by
  rw [powerOn_pos, Option.filter_eq_none_iff.2 fun p q => by simp [w p q], Option.map_none]

/-- A positioner record that power-on keeps is on the line. -/
def OnLine (pos : Tab (Option Pos) 28) (l : Fin 8) : Prop := ∃ (o : Out) (p : Pos), pos[o] = some p ∧ p.gone = false ∧ p.line = l

theorem any_onLine (l : Fin 8) :
    (pos.toList.any fun p => p.any fun q => !q.gone && decide (q.line = l)) = true ↔ OnLine pos l := by
  simp only [List.any_eq_true, Option.any_eq_true, Bool.and_eq_true, Bool.not_eq_true', decide_eq_true_eq]
  constructor
  · rintro ⟨x, m, p, rfl, gone, line⟩
    obtain ⟨i, hi, v⟩ := List.getElem_of_mem m
    exact ⟨⟨i, by simpa using hi⟩, p, by simpa using v, gone, line⟩
  · rintro ⟨o, p, v, gone, line⟩
    exact ⟨pos[o], by simp, p, v, gone, line⟩

theorem powerOn_drvCmd_some {l : Fin 8} (w : OnLine pos l) : (Path.powerOn pos).drvCmd[l] = some .query := by
  unfold Path.powerOn
  dsimp only
  rw [get_ofFn, if_pos ((any_onLine l).2 w)]

theorem powerOn_drvCmd_none {l : Fin 8} (w : ¬ OnLine pos l) : (Path.powerOn pos).drvCmd[l] = none := by
  unfold Path.powerOn
  dsimp only
  rw [get_ofFn, if_neg (mt (any_onLine l).1 w)]

/-! ### The state after reset -/

theorem default_sense (l : SenseLine) : Tables.default.sense[senseIx l] = senseDefault l := by
  unfold Tables.default
  dsimp only
  rw [get_ofFn, senseLine_senseIx]

theorem default_powerOn : Tables.default.powerOn = Tables.default := by
  have sense : Tables.default.powerOn.sense = Tables.default.sense := tab_ext fun i => by
    unfold Tables.powerOn Tables.default
    dsimp only
    rw [get_ofFn, get_ofFn]
    cases senseLine i <;> rfl
  exact congrArg (fun v => { Tables.default with sense := v }) sense

theorem reset_pos : State.reset.hall.path.pos = tab 28 none := tab_ext fun o => by
  show (Path.powerOn (tab 28 none)).pos[o] = _
  rw [powerOn_pos, get_tab]
  rfl

theorem reset_raw : State.reset.hall.sense.map Sense.raw = tab 50 false := tab_ext fun i => by
  simp [State.reset, Hall.powerOn, Sense.powerOn, tab]

theorem reset_powerUp : powerUp State.reset = State.reset := by
  have hall : Hall.powerOn State.reset.tables.powerOn State.reset.hall.banks State.reset.hall.path.pos
      (State.reset.hall.sense.map Sense.raw) = State.reset.hall := by
    rw [reset_pos, reset_raw]
    exact congrArg (fun k => Hall.powerOn k (tab 4 Bank.blank) (tab 28 none) (tab 50 false)) default_powerOn
  unfold powerUp
  dsimp only
  rw [hall]
  exact congrArg (fun k => ({ State.reset with tables := k } : State)) default_powerOn

theorem reset_bank (n : BankNo) : State.reset.hall.banks[n] = Bank.blank := get_tab 4 _ n

theorem reset_tx (t : Tx) : State.reset.hall.tx[t] = TxRec.powerOn false := by
  show (Vector.ofFn _)[t] = _
  rw [get_ofFn]
  simp [Tables.default, tab, TxDef.default]

theorem reset_xst (t : Tx) (o : Out) : xst State.reset.hall t o = .opened := by
  simp [xst, State.reset, Hall.powerOn, Path.powerOn, tab]

theorem reset_slot (i : Fin 4) : State.reset.hall.path.slots[i] = none := get_tab 4 _ i

theorem default_ok : Tables.default.ok where
  excl := ⟨Nat.zero_le _, fun _ m => nomatch m⟩
  outs := by decide
  slewable := by decide
  txs := by decide
  rcv := by decide
  engine := by decide
  plans n l q := nomatch (get_tab 32 _ n).symm.trans q
  stepTo := by decide
  sense l := by
    rw [default_sense]
    have qual : 1 ≤ 20 ∧ 20 ≤ 250 := by decide
    cases l with
    | rfp t => exact ⟨rfl, rfl, qual⟩
    | refl t => exact ⟨rfl, qual⟩
    | arc t => exact ⟨rfl, qual⟩
    | door t => exact ⟨rfl, qual⟩
    | estop => exact ⟨rfl, rfl, qual⟩
    | pulse => exact rfl

theorem reset_sizesOk : State.reset.sizesOk where
  hall := {
    banks := fun n => by rw [reset_bank]; exact Nat.zero_le _
    changes := Nat.zero_le _
    changeIds := fun _ m => nomatch m
    deferral := Nat.zero_le _
    stack := fun t => (congrArg List.length (get_tab 12 _ t)).trans_le (Nat.zero_le _)
    windows := fun t => by rw [reset_tx]; exact Nat.zero_le _
    faults := ⟨Nat.zero_le _, List.nodup_nil⟩ }
  notices := Nat.zero_le _

theorem reset_banksOk : State.reset.hall.banksOk where
  active m n q := by rw [reset_bank] at q; cases q
  retiring m n q := by rw [reset_bank] at q; cases q

theorem reset_linesOk : State.reset.hall.linesOk := fun o p q r hq => by
  rw [reset_pos, get_tab] at hq
  cases hq

theorem reset_faultsOk : State.reset.hall.faultsOk where
  table := ⟨Nat.zero_le _, List.nodup_nil⟩
  kinds _ m := nomatch m
  one _ m := nomatch m
  lockout t := by
    rw [reset_tx]
    exact ⟨fun q => (nomatch q), fun ⟨_, m, _⟩ => (nomatch m)⟩
  clear _ q := nomatch q

theorem reset_matrixOk : State.reset.hall.matrixOk where
  row t o p q := absurd (reset_xst t o) q
  column o t u q := absurd (reset_xst t o) q
  throws i x t o q := by rw [reset_slot] at q; cases q
  apart i j x y ne q := by rw [reset_slot] at q; cases q
  breaks _ m := nomatch m

theorem reset_permitsOk : State.reset.hall.permitsOk where
  quiet t q := by rw [reset_tx] at q; cases q
  held i x t o q := by rw [reset_slot] at q; cases q

end
end Sys2Proof.Machine

namespace Sys2Proof.Proofs

set_option Elab.async false
section
open Machine

/-- Settles O5, by what the reset state holds field by field. -/
theorem resetState : Obligations.ResetState :=
  ⟨congrArg Host.Outcome.next reset_powerUp, rfl, rfl, default_ok, reset_sizesOk, reset_banksOk, reset_linesOk, reset_faultsOk,
    reset_matrixOk, reset_permitsOk⟩

/-- Settles O6: `powerUp` field by field. -/
theorem powerOn : Obligations.PowerOn := by
  intro s
  refine ⟨powerUp s, rfl, rfl, rfl, ⟨rfl, rfl, rfl, rfl, rfl, rfl, rfl, rfl, rfl⟩, fun l => ?_, rfl,
    fun o p w stays => powerOn_pos_some w stays, fun o w => powerOn_pos_none w,
    fun l => ⟨fun w => powerOn_drvCmd_some w, fun w => powerOn_drvCmd_none fun ⟨o, p, v, gone, line⟩ => w o p v gone line⟩,
    ⟨rfl, rfl, rfl, rfl, rfl, rfl, rfl, rfl, rfl, rfl, rfl, rfl, rfl⟩, fun u => ?_, fun o => ?_, rfl, rfl, fun i => get_tab 4 _ i,
    fun l => ?_, rfl⟩
  · refine (powerOn_sense l).trans ?_
    cases l <;> rfl
  · have tx : (powerUp s).hall.tx[u] = TxRec.powerOn (s.tables.txs[u]).defined := get_ofFn _ u
    exact ⟨get_tab 12 _ u, get_tab 12 _ u, get_tab 12 _ u, get_tab 12 _ u, get_tab 12 _ u, get_ofFn _ u,
      by rw [tx]; rfl, tx⟩
  · exact ⟨fun u => (congrArg (fun v : Tab Xpt 12 => v[u]) (get_tab 28 _ o)).trans (get_tab 12 _ u), get_tab 28 _ o, get_tab 28 _ o,
      get_tab 28 _ o⟩
  · have raw : (s.hall.sense.map Sense.raw)[senseIx l] = (s.hall.line l).raw := by simp [Hall.line]
    have line : (powerUp s).hall.line l = Sense.powerOn s.tables.powerOn.sense[senseIx l] (s.hall.sense.map Sense.raw)[senseIx l] :=
      powerOn_line _ _ l
    rw [line, raw, powerOn_sense]
    exact ⟨rfl, rfl, by cases l <;> rfl⟩

end
end Sys2Proof.Proofs
namespace Sys2Proof.Machine

set_option Elab.async false
section
variable {g h : Hall} {e : Env} {t : Tx} {n : BankNo}

/-! ### Walks that end assignments -/

theorem nodup_allTx : allTx.Nodup := List.nodup_finRange 12

/-- The walk over the transmitters that ends the assignments whose occurrence satisfies `q`. -/
def endWhere (e : Env) (q : Option Sched → Bool) (oc : EndOutcome) (h : Hall) : Hall :=
  h.each allTx fun t k => if (k.asg[t]).any (fun a => q a.sched) then endAsg e t oc .nothing k else k

/-- An assignment that such a walk ends. -/
def EndsHere (q : Option Sched → Bool) (h : Hall) (t : Tx) : Prop := ∃ a, h.asg[t] = some a ∧ q a.sched = true ∧ a.phase.isEnding = false

section
variable {q : Option Sched → Bool} {oc : EndOutcome} {a : Asg}

theorem endWhere_eq : endWhere e q oc h = h.each allTx (endEach e (fun _ a => q a.sched) fun _ _ => oc) := by
  refine congrArg (h.each allTx) (funext fun t => funext fun k => ?_)
  unfold endEach
  cases k.asg[t] <;> rfl

theorem core_sched {a b : Asg} (w : a.core = b.core) : a.sched = b.sched := congrArg (fun c => c.2.1) w

theorem endWhere_walk : Ends (EndsHere q h) h (endWhere e q oc h) ∧
    ∀ (t : Tx) (a : Asg), h.asg[t] = some a → q a.sched = true → a.phase.isEnding = false → EndedTo oc a (endWhere e q oc h).asg[t] := by
  obtain ⟨ends, ended⟩ := endEach_each (e := e) (c := fun _ a => q a.sched) (o := fun _ _ => oc)
    (fun _ _ _ w => ⟨congrArg q (core_sched w), rfl⟩) allTx nodup_allTx h
  rw [endWhere_eq]
  exact ⟨ends.mono fun u v => v.2, fun t => ended t (mem_allTx t)⟩

theorem endWhere_ends : Ends (EndsHere q h) h (endWhere e q oc h) := endWhere_walk.1

theorem endWhere_ended (ha : h.asg[t] = some a) (w : q a.sched = true) (p : a.phase.isEnding = false) :
    EndedTo oc a (endWhere e q oc h).asg[t] := endWhere_walk.2 t a ha w p

/-- Any other assignment keeps its core. -/
theorem endWhere_keeps (w : ∀ a, h.asg[t] = some a → q a.sched = true → a.phase.isEnding = true) :
    ((endWhere e q oc h).asg[t]).map Asg.core = (h.asg[t]).map Asg.core :=
  endWhere_ends.asg t fun ⟨a, ha, hq, hp⟩ => by rw [w a ha hq] at hp; cases hp

theorem EndedTo.cases {x : Option Asg} (w : EndedTo oc a x) :
    x = none ∨ ∃ b, x = some b ∧ b.core = (.ending oc .nothing, a.sched, a.eff, a.counts, a.trips, a.fold) := by
  rcases w with w | w
  · exact .inl w
  · exact .inr (Option.map_eq_some_iff.1 w)

end

/-! ### Items that leave -/

section
variable {p : Item → Bool} {nt : Occ → NoticeBody}

theorem itemsLeave_ends {d : Tx → Prop} {l : List StackItem} (x : Ends d g h) : Ends d g (itemsLeave nt l h) := by
  induction l generalizing h with
  | nil => exact x
  | cons i l ih =>
    refine ih ?_
    split
    · exact x.note
    · exact retireCheck_ends x.note

theorem itemsLeave_asg {l : List StackItem} : (itemsLeave nt l h).asg = h.asg := by
  induction l generalizing h with
  | nil => rfl
  | cons i l ih =>
    refine ih.trans ?_
    split
    · rfl
    · exact retireCheck_asg _ _

theorem dropStack_asg : (dropStack t p nt h).asg = h.asg := by
  unfold dropStack
  dsimp only
  split
  · rfl
  · exact itemsLeave_asg

theorem dropStack_deferral : (dropStack t p nt h).deferral = h.deferral := by
  unfold dropStack
  dsimp only
  split
  · rfl
  · exact (itemsLeave_ends (Ends.refl (fun _ => False) _)).deferral

theorem dropStack_stacks : (dropStack t p nt h).stack = upd h.stack t fun l => l.filter fun i => !p i.item := by
  unfold dropStack
  dsimp only
  split
  · next none =>
    refine tab_ext fun u => ?_
    rw [get_upd]
    split
    · next eq =>
      subst eq
      rw [List.isEmpty_iff, List.filter_eq_nil_iff] at none
      exact (List.filter_eq_self.2 fun i m => by simpa using none i m).symm
    · rfl
  · exact (itemsLeave_ends (Ends.refl (fun _ => False) _)).stack

theorem dropStack_stack (u : Tx) : (dropStack t p nt h).stack[u] = if t = u then (h.stack[u]).filter fun i => !p i.item else h.stack[u] := by
  rw [dropStack_stacks, get_upd]
  split
  · next eq => rw [eq]
  · rfl

theorem dropStacks_asg {l : List Tx} : (h.each l fun t => dropStack t p nt).asg = h.asg := by
  induction l generalizing h with
  | nil => rfl
  | cons t l ih => exact ih.trans dropStack_asg

theorem dropStacks_deferral {l : List Tx} : (h.each l fun t => dropStack t p nt).deferral = h.deferral := by
  induction l generalizing h with
  | nil => rfl
  | cons t l ih => exact ih.trans dropStack_deferral

theorem dropStacks_stack_of {l : List Tx} (u : Tx) : (h.each l fun t => dropStack t p nt).stack[u] =
    if u ∈ l then (h.stack[u]).filter fun i => !p i.item else h.stack[u] := by
  induction l generalizing h with
  | nil => rfl
  | cons t l ih =>
    refine ih.trans ?_
    rw [dropStack_stack]
    by_cases eq : t = u
    · subst eq
      simp
    · simp [eq, Ne.symm eq]

/-- R70: the items of every stack that satisfy `p` are gone. -/
theorem dropStacks_stack (u : Tx) : (h.each allTx fun t => dropStack t p nt).stack[u] = (h.stack[u]).filter fun i => !p i.item := by
  rw [dropStacks_stack_of, if_pos (mem_allTx u)]

end

/-! ### What a changeover does to stacks, deferrals and assignments -/

/-- An occurrence of a bank. -/
def ofBank (r : BankNo) (s : Option Sched) : Bool := s.any fun x => decide (x.occ.bank = r)

/-- R14 step 1, first part: bank `r` SPENT, its assignments no references. -/
def unrefer (r : BankNo) (h : Hall) : Hall :=
  { h.setBank r fun b => { b with st := .spent } with
    asg := h.asg.map fun (a : Option Asg) => a.map fun x => if ofBank r x.sched then { x with counts := false } else x }

theorem retireRest_eq {r : BankNo} : retireRest e r h = (endWhere e (ofBank r) .changeover (unrefer r h)).each allTx fun t =>
    dropStack t (fun i => decide (i.occ.bank = r)) .changeover := rfl

/-- R14 step 2: an occurrence of bank `o` from the new bank's start on. -/
def ofBankFrom (o : BankNo) (m : Minutes) (s : Option Sched) : Bool :=
  s.any fun x => decide (x.occ.bank = o) && decide (m ≤ x.start)

theorem retireItems_eq {o : BankNo} : retireItems e n o h = dropDeferral (fun i => decide (i.occ.bank = o)) .changeover
    (endWhere e (ofBankFrom o ((h.banks[n]).start.getD 0)) .changeover h) := rfl

theorem retireBank_same {o : BankNo} : (retireBank o h).asg = h.asg ∧ (retireBank o h).stack = h.stack ∧
    (retireBank o h).deferral = h.deferral := ⟨rfl, rfl, rfl⟩

theorem retireRest_stack {r : BankNo} (t : Tx) : (retireRest e r h).stack[t] = (h.stack[t]).filter fun i => decide (i.item.occ.bank ≠ r) := by
  rw [retireRest_eq, dropStacks_stack, endWhere_ends.stack]
  simp only [decide_not]
  rfl

theorem retireRest_deferral {r : BankNo} : (retireRest e r h).deferral = h.deferral := by
  rw [retireRest_eq, dropStacks_deferral, endWhere_ends.deferral]
  rfl

theorem unrefer_asg {r : BankNo} (t : Tx) : (unrefer r h).asg[t] =
    (h.asg[t]).map fun x => if ofBank r x.sched then { x with counts := false } else x := by
  simp [unrefer]

/-- R14 step 1: an assignment of another bank keeps its core. -/
theorem retireRest_keeps {r : BankNo} {a : Asg} (ha : h.asg[t] = some a) (w : ofBank r a.sched = false) :
    ((retireRest e r h).asg[t]).map Asg.core = some a.core := by
  have same : (unrefer r h).asg[t] = some a := by rw [unrefer_asg, ha, Option.map_some, if_neg (by rw [w]; decide)]
  rw [retireRest_eq, dropStacks_asg, endWhere_keeps, same, Option.map_some]
  intro b hb hq
  obtain rfl := Option.some.inj (same.symm.trans hb)
  rw [w] at hq
  cases hq

/-- R14 step 1: an assignment of the RETIRING bank is no reference, and it is gone, or ENDING: with the outcome it had, or else
CHANGEOVER. -/
theorem retireRest_ended {r : BankNo} {a : Asg} (ha : h.asg[t] = some a) (w : ofBank r a.sched = true) :
    (retireRest e r h).asg[t] = none ∨ ∃ b, (retireRest e r h).asg[t] = some b ∧
      b.core = (if a.phase.isEnding = true then a.phase else .ending .changeover .nothing, a.sched, a.eff, false, a.trips, a.fold) := by
  have begun : (unrefer r h).asg[t] = some { a with counts := false } := by rw [unrefer_asg, ha, Option.map_some, if_pos w]
  rw [retireRest_eq, dropStacks_asg]
  cases p : a.phase.isEnding with
  | false => exact (endWhere_ended begun w p).cases
  | true =>
    refine .inr (Option.map_eq_some_iff.1 ?_)
    rw [endWhere_keeps, begun]
    · rfl
    · intro b hb _
      obtain rfl := Option.some.inj (begun.symm.trans hb)
      exact p

theorem dropDeferral_same {p : Item → Bool} {nt : Occ → NoticeBody} : (dropDeferral p nt h).asg = h.asg ∧ (dropDeferral p nt h).stack = h.stack ∧
    (dropDeferral p nt h).deferral = h.deferral.filter fun i => !p i.item := ⟨rfl, rfl, rfl⟩

theorem retireItems_asg {o : BankNo} : (retireItems e n o h).asg =
    (endWhere e (ofBankFrom o ((h.banks[n]).start.getD 0)) .changeover h).asg := by
  rw [retireItems_eq, dropDeferral_same.1]

theorem retireItems_stack {o : BankNo} : (retireItems e n o h).stack = h.stack := by
  rw [retireItems_eq, dropDeferral_same.2.1, endWhere_ends.stack]

theorem retireItems_deferral {o : BankNo} : (retireItems e n o h).deferral = h.deferral.filter fun i => decide (i.item.occ.bank ≠ o) := by
  rw [retireItems_eq, dropDeferral_same.2.2, endWhere_ends.deferral]
  simp only [decide_not]

end
end Sys2Proof.Machine
namespace Sys2Proof.Machine

set_option Elab.async false
section
variable {g h : Hall} {e : Env} {t : Tx} {n : BankNo}

/-! ### The bank that is due -/

/-- R13: bank `n` is COMMITTED with a start instant at or before the clock. -/
def Due (e : Env) (h : Hall) (n : BankNo) : Prop := (h.banks[n]).st = .committed ∧ ∃ x, (h.banks[n]).start = some x ∧ x ≤ e.min

/-- The start instant of a bank. -/
def startOf (h : Hall) (n : BankNo) : Minutes := (h.banks[n]).start.getD 0

/-- R13: the test of one bank, in the walk for the earliest due one. -/
def dueStep (e : Env) (h : Hall) (best : Option BankNo) (n : BankNo) : Option BankNo :=
  if decide ((h.banks[n]).st = .committed) && (h.banks[n]).start.any (fun s => decide (s ≤ e.min)) then
    match best with
    | none => some n
    | some m => if startOf h n < startOf h m then some n else some m
  else best

theorem dueBank_eq : dueBank e h = if !e.isSet || h.mode = .adopting then none else allBanks.foldl (dueStep e h) none := rfl

theorem due_iff : (decide ((h.banks[n]).st = .committed) && (h.banks[n]).start.any (fun s => decide (s ≤ e.min))) = true ↔ Due e h n := by
  rw [Bool.and_eq_true, decide_eq_true_eq, Option.any_eq_true]
  simp only [decide_eq_true_eq]
  rfl

theorem dueStep_not {best : Option BankNo} (w : ¬ Due e h n) : dueStep e h best n = best := if_neg (mt due_iff.1 w)

theorem dueStep_none (w : Due e h n) : dueStep e h none n = some n := if_pos (due_iff.2 w)

theorem dueStep_some {m : BankNo} (w : Due e h n) :
    dueStep e h (some m) n = if startOf h n < startOf h m then some n else some m := if_pos (due_iff.2 w)

theorem dueFold_none {l : List BankNo} {best : Option BankNo} (w : ∀ n ∈ l, ¬ Due e h n) : l.foldl (dueStep e h) best = best := by
  induction l with
  | nil => rfl
  | cons n l ih =>
    rw [List.foldl_cons, dueStep_not (w n (by simp))]
    exact ih fun m v => w m (by simp [v])

/-- No later bank with an earlier start. -/
theorem dueFold_keep {l : List BankNo} (w : ∀ m ∈ l, Due e h m → startOf h n ≤ startOf h m) :
    l.foldl (dueStep e h) (some n) = some n := by
  induction l with
  | nil => rfl
  | cons m l ih =>
    rw [List.foldl_cons]
    by_cases d : Due e h m
    · rw [dueStep_some d, if_neg (Nat.not_lt.2 (w m (by simp) d))]
      exact ih fun k v => w k (by simp [v])
    · rw [dueStep_not d]
      exact ih fun k v => w k (by simp [v])

/-- Of the due banks of an ascending list, the first of those with the earliest start. -/
theorem dueFold_least {l : List BankNo} {best : Option BankNo} (sorted : l.Pairwise (· < ·)) (mem : n ∈ l) (due : Due e h n)
    (least : ∀ m ∈ l, Due e h m → startOf h n < startOf h m ∨ (startOf h n = startOf h m ∧ n ≤ m))
    (before : ∀ m, best = some m → startOf h n < startOf h m) : l.foldl (dueStep e h) best = some n := by
  induction l generalizing best with
  | nil => cases mem
  | cons k l ih =>
    obtain ⟨above, sorted⟩ := List.pairwise_cons.1 sorted
    rw [List.foldl_cons]
    rcases List.mem_cons.1 mem with rfl | mem
    · have here : dueStep e h best n = some n := by
        cases best with
        | none => exact dueStep_none due
        | some m => rw [dueStep_some due, if_pos (before m rfl)]
      rw [here]
      exact dueFold_keep fun m v d => (least m (by simp [v]) d).elim Nat.le_of_lt fun q => q.1.le
    · refine ih sorted mem (fun m v => least m (by simp [v])) fun m q => ?_
      by_cases d : Due e h k
      · have later : startOf h n < startOf h k := (least k (by simp) d).resolve_right fun q => absurd (above n mem) (not_lt.2 q.2)
        cases best with
        | none =>
          rw [dueStep_none d] at q
          exact Option.some.inj q ▸ later
        | some b =>
          rw [dueStep_some d] at q
          split at q
          · exact Option.some.inj q ▸ later
          · exact Option.some.inj q ▸ before b rfl
      · rw [dueStep_not d] at q
        exact before m q

theorem dueBank_none (w : e.tm.cstate = .unset ∨ h.mode = .adopting ∨ ∀ n, ¬ Due e h n) : dueBank e h = none := by
  rw [dueBank_eq]
  split
  · rfl
  · next c =>
    refine dueFold_none fun n _ => ?_
    simp only [Env.isSet, Bool.or_eq_true, Bool.not_eq_true', decide_eq_false_iff_not, decide_eq_true_eq, not_or, not_not] at c
    rcases w with w | w | w
    · exact absurd w c.1
    · exact absurd w c.2
    · exact w n

theorem dueBank_some (set : e.tm.cstate ≠ .unset) (mode : h.mode ≠ .adopting) (due : Due e h n)
    (least : ∀ m, Due e h m → startOf h n < startOf h m ∨ (startOf h n = startOf h m ∧ n ≤ m)) : dueBank e h = some n := by
  rw [dueBank_eq, if_neg (by simp [Env.isSet, set, mode])]
  exact dueFold_least (List.pairwise_lt_finRange 4) (List.mem_finRange n) due (fun m _ => least m) fun _ q => nomatch q

theorem changeovers_none {k : Nat} (w : dueBank e h = none) : changeovers e k h = h := by
  cases k with
  | zero => rfl
  | succ k => unfold changeovers; rw [w]

theorem changeovers_some {k : Nat} (w : dueBank e h = some n) : changeovers e (k + 1) h = changeovers e k (changeover e n h) := by
  rw [changeovers, w]

/-! ### What the changeover to bank `n` leaves -/

/-- R14 step 1: a bank that is neither RETIRING nor changed by it. -/
theorem clearRetiring_forth {m : BankNo} (w : (h.banks[m]).st ≠ .retiring) : (clearRetiring e h).banks[m] = h.banks[m] := by
  cases q : retiringBank h with
  | none => rw [clearRetiring_none q]
  | some r =>
    have ne : r ≠ m := fun z => w (z ▸ retiringBank_some q)
    have same : (h.setBank r fun b => { b with st := .spent }).banks[m] = h.banks[m] := by simp [Hall.setBank_banks, ne]
    rw [clearRetiring_some q, bankNotice, Hall.note_banks, (retireRest_spends (e := e)).forth (by rw [same]; exact w), same]

theorem clearRetiring_spent {r : BankNo} (q : retiringBank h = some r) : ((clearRetiring e h).banks[r]).st = .spent := by
  have spent : ((h.setBank r fun b => { b with st := .spent }).banks[r]).st = .spent := by simp [Hall.setBank_banks]
  rw [clearRetiring_some q, bankNotice, Hall.note_banks, (retireRest_spends (e := e)).forth (by rw [spent]; decide)]
  exact spent

theorem clearRetiring_active (m : BankNo) : ((clearRetiring e h).banks[m]).st = .active ↔ (h.banks[m]).st = .active := by
  by_cases q : (h.banks[m]).st = .retiring
  · refine ⟨fun v => ?_, fun v => by rw [q] at v; cases v⟩
    cases r : retiringBank h with
    | none => exact absurd q (retiringBank_eq_none r m)
    | some r' =>
      rw [clearRetiring_some r, bankNotice, Hall.note_banks] at v
      have back := (retireRest_spends (e := e)).back (by rw [v]; decide)
      rw [back] at v
      simp only [Hall.setBank_banks, get_upd] at v
      split at v
      · cases v
      · exact v
  · rw [clearRetiring_forth q]

theorem activeBank_clearRetiring : activeBank (clearRetiring e h) = activeBank h := by
  unfold activeBank
  simp only [clearRetiring_active]

theorem clearRetiring_recs (m : BankNo) : ((clearRetiring e h).banks[m]).recs = (h.banks[m]).recs := by
  cases q : retiringBank h with
  | none => rw [clearRetiring_none q]
  | some r =>
    rw [clearRetiring_some q, bankNotice, Hall.note_banks, (retireRest_spends (e := e)).recs]
    simp only [Hall.setBank_banks, get_upd]
    split
    · next eq => rw [eq]
    · rfl

theorem retireBank_bank {o m : BankNo} : (retireBank o h).banks[m] =
    if o = m then { h.banks[m] with st := if hasRef o h then .retiring else .spent } else h.banks[m] := by
  simp only [retireBank, bankNotice, Hall.note_banks, Hall.setBank_banks, get_upd]
  split
  · next eq => rw [eq]
  · rfl

theorem retireBank_recs {o : BankNo} (m : BankNo) : ((retireBank o h).banks[m]).recs = (h.banks[m]).recs := by
  rw [retireBank_bank]
  split <;> rfl

/-- R14 steps 2 and 3: a bank that is neither ACTIVE nor RETIRING. -/
theorem retireActive_forth {m : BankNo} (a : (h.banks[m]).st ≠ .active) (r : (h.banks[m]).st ≠ .retiring) :
    (retireActive e n h).banks[m] = h.banks[m] := by
  cases q : activeBank h with
  | none => rw [retireActive_none q]
  | some o =>
    have ne : o ≠ m := fun z => a (z ▸ activeBank_some q)
    rw [retireActive_some q, retireBank_bank, if_neg ne, retireItems_spends.forth r]

theorem retireActive_recs (m : BankNo) : ((retireActive e n h).banks[m]).recs = (h.banks[m]).recs := by
  cases q : activeBank h with
  | none => rw [retireActive_none q]
  | some o =>
    rw [retireActive_some q, retireBank_recs, retireItems_spends.recs]

theorem bankNotice_emit : NoticeBody.bank n (h.banks[n]).st (h.banks[n]).label (h.banks[n]).start ∈ (bankNotice n h).emit := by
  simp [bankNotice, Hall.note]

theorem changeover_bank (w : (h.banks[n]).st = .committed) : (changeover e n h).banks[n] = { h.banks[n] with st := .active } := by
  have same : (retireActive e n (clearRetiring e h)).banks[n] = h.banks[n] := by
    have first : (clearRetiring e h).banks[n] = h.banks[n] := clearRetiring_forth (by rw [w]; decide)
    rw [retireActive_forth (by rw [first, w]; decide) (by rw [first, w]; decide), first]
  rw [changeover_eq, ← same]
  generalize retireActive e n (clearRetiring e h) = k
  simp [bankNotice, Hall.setBank_banks]

theorem changeover_other {m : BankNo} (ne : n ≠ m) :
    (changeover e n h).banks[m] = (retireActive e n (clearRetiring e h)).banks[m] := by
  rw [changeover_eq]
  generalize retireActive e n (clearRetiring e h) = k
  simp [bankNotice, Hall.setBank_banks, ne]

theorem changeover_emit (w : (h.banks[n]).st = .committed) :
    NoticeBody.bank n .active (h.banks[n]).label (h.banks[n]).start ∈ (changeover e n h).emit := by
  have now := changeover_bank (e := e) w
  rw [changeover_eq] at now ⊢
  have made := bankNotice_emit (n := n) (h := (retireActive e n (clearRetiring e h)).setBank n fun b => { b with st := .active })
  generalize (retireActive e n (clearRetiring e h)).setBank n (fun b => { b with st := .active }) = k at now made ⊢
  rw [bankNotice, Hall.note_banks] at now
  rw [now] at made
  exact made

theorem activate_recs (m : BankNo) :
    ((bankNotice n (h.setBank n fun b => { b with st := .active })).banks[m]).recs = (h.banks[m]).recs := by
  simp only [bankNotice, Hall.note_banks, Hall.setBank_banks, get_upd]
  split
  · next eq => rw [eq]
  · rfl

theorem bankNotice_same : (bankNotice n h).asg = h.asg ∧ (bankNotice n h).stack = h.stack ∧ (bankNotice n h).deferral = h.deferral :=
  ⟨rfl, rfl, rfl⟩

theorem changeover_recs (m : BankNo) : ((changeover e n h).banks[m]).recs = (h.banks[m]).recs := by
  rw [changeover_eq, activate_recs, retireActive_recs, clearRetiring_recs]

theorem changeover_same : (changeover e n h).asg = (retireActive e n (clearRetiring e h)).asg ∧
    (changeover e n h).stack = (retireActive e n (clearRetiring e h)).stack ∧
    (changeover e n h).deferral = (retireActive e n (clearRetiring e h)).deferral := by
  rw [changeover_eq]
  generalize retireActive e n (clearRetiring e h) = k
  exact ⟨rfl, rfl, rfl⟩

theorem retireActive_stack : (retireActive e n h).stack = h.stack := by
  cases q : activeBank h with
  | none => rw [retireActive_none q]
  | some o => rw [retireActive_some q, retireBank_same.2.1, retireItems_stack]

theorem clearRetiring_stack {r : BankNo} (q : retiringBank h = some r) (t : Tx) :
    (clearRetiring e h).stack[t] = (h.stack[t]).filter fun i => decide (i.item.occ.bank ≠ r) := by
  rw [clearRetiring_some q, bankNotice_same.2.1]
  exact retireRest_stack t

theorem clearRetiring_deferral : (clearRetiring e h).deferral = h.deferral := by
  cases q : retiringBank h with
  | none => rw [clearRetiring_none q]
  | some r => rw [clearRetiring_some q, bankNotice_same.2.2, retireRest_deferral]

/-- R14 step 1: an assignment of a bank that is not RETIRING keeps its core. -/
theorem clearRetiring_keeps {a : Asg} (ha : h.asg[t] = some a) (w : ∀ r, retiringBank h = some r → ofBank r a.sched = false) :
    ((clearRetiring e h).asg[t]).map Asg.core = some a.core := by
  cases q : retiringBank h with
  | none => rw [clearRetiring_none q, ha, Option.map_some]
  | some r =>
    rw [clearRetiring_some q, bankNotice_same.1]
    exact retireRest_keeps ha (w r q)

theorem clearRetiring_ended {r : BankNo} {a : Asg} (q : retiringBank h = some r) (ha : h.asg[t] = some a) (w : ofBank r a.sched = true) :
    (clearRetiring e h).asg[t] = none ∨ ∃ b, (clearRetiring e h).asg[t] = some b ∧
      b.core = (if a.phase.isEnding = true then a.phase else .ending .changeover .nothing, a.sched, a.eff, false, a.trips, a.fold) := by
  rw [clearRetiring_some q, bankNotice_same.1]
  exact retireRest_ended ha w

theorem retireActive_asg {o : BankNo} (q : activeBank h = some o) :
    (retireActive e n h).asg = (endWhere e (ofBankFrom o (startOf h n)) .changeover h).asg := by
  rw [retireActive_some q, retireBank_same.1, retireItems_asg]
  rfl

/-- R14 step 2: an assignment that is not of the ACTIVE bank, or starts before the new one, keeps its core. -/
theorem retireActive_keeps {a : Asg} (ha : h.asg[t] = some a)
    (w : ∀ o, activeBank h = some o → ofBankFrom o (startOf h n) a.sched = false) :
    ((retireActive e n h).asg[t]).map Asg.core = some a.core := by
  cases q : activeBank h with
  | none => rw [retireActive_none q, ha, Option.map_some]
  | some o =>
    rw [retireActive_asg q, endWhere_keeps, ha, Option.map_some]
    intro b hb hq
    obtain rfl := Option.some.inj (ha.symm.trans hb)
    rw [w o q] at hq
    cases hq

theorem asg_none_of_core {x : Option Asg} {y : Option Asg} (w : x.map Asg.core = y.map Asg.core) (v : y = none) : x = none := by
  rw [v] at w
  exact Option.map_eq_none_iff.1 w

/-- R14 step 2 leaves a transmitter without an assignment so. -/
theorem retireActive_free (ha : h.asg[t] = none) : (retireActive e n h).asg[t] = none := by
  cases q : activeBank h with
  | none => rw [retireActive_none q, ha]
  | some o =>
    rw [retireActive_asg q]
    exact asg_none_of_core (endWhere_keeps fun a hb _ => by rw [ha] at hb; cases hb) ha

/-- R14: an assignment of the bank that was RETIRING. -/
theorem changeover_retiring {r : BankNo} {a : Asg} (q : retiringBank h = some r) (ha : h.asg[t] = some a) (w : ofBank r a.sched = true) :
    (changeover e n h).asg[t] = none ∨ ∃ b, (changeover e n h).asg[t] = some b ∧
      b.core = (if a.phase.isEnding = true then a.phase else .ending .changeover .nothing, a.sched, a.eff, false, a.trips, a.fold) := by
  rw [changeover_same.1]
  rcases clearRetiring_ended (e := e) q ha w with none | ⟨b, hb, core⟩
  · exact .inl (retireActive_free none)
  · refine .inr ?_
    have sched : b.sched = a.sched := congrArg (fun c => c.2.1) core
    have kept := retireActive_keeps (e := e) (n := n) hb fun o ho => ?_
    · obtain ⟨c, hc, same⟩ := Option.map_eq_some_iff.1 kept
      exact ⟨c, hc, same.trans core⟩
    · rw [activeBank_clearRetiring] at ho
      have ne : r ≠ o := fun z => by
        have := retiringBank_some q
        rw [z, activeBank_some ho] at this
        cases this
      obtain ⟨x, hx, hr⟩ := (Option.any_eq_true _ _).1 w
      have ho' : x.occ.bank ≠ o := fun z => ne ((of_decide_eq_true hr).symm.trans z)
      rw [sched, hx]
      simp [ofBankFrom, ho']

/-- R14 step 1 leaves an assignment of the ACTIVE bank its core. -/
theorem clearRetiring_of_active {o : BankNo} {a : Asg} {x : Sched} (q : activeBank h = some o) (ha : h.asg[t] = some a)
    (hx : a.sched = some x) (w : x.occ.bank = o) : ∃ b, (clearRetiring e h).asg[t] = some b ∧ b.core = a.core := by
  refine Option.map_eq_some_iff.1 (clearRetiring_keeps ha fun r hr => ?_)
  have ne : o ≠ r := fun z => by
    have := activeBank_some q
    rw [z, retiringBank_some hr] at this
    cases this
  rw [hx]
  simp [ofBank, w, ne]

end
end Sys2Proof.Machine
namespace Sys2Proof.Machine

set_option Elab.async false
section
variable {g h : Hall} {e : Env} {t : Tx} {n : BankNo}

/-! ### The bank that was ACTIVE -/

/-- R15: an assignment or a stack item refers to bank `o`. -/
def Refers (h : Hall) (o : BankNo) : Prop :=
  ∃ t : Tx, (∃ a x, h.asg[t] = some a ∧ a.counts = true ∧ a.sched = some x ∧ x.occ.bank = o) ∨
    ∃ i ∈ h.stack[t], i.item.occ.bank = o

theorem hasRef_iff {o : BankNo} : hasRef o h = true ↔ Refers h o := by
  unfold hasRef Refers
  simp only [List.any_eq_true, mem_allTx, true_and, Bool.or_eq_true, Option.any_eq_true, Bool.and_eq_true, decide_eq_true_eq]
  refine exists_congr fun t => or_congr_left ⟨?_, ?_⟩
  · rintro ⟨a, ha, c, x, hx, q⟩
    exact ⟨a, x, ha, c, hx, q⟩
  · rintro ⟨a, x, ha, c, hx, q⟩
    exact ⟨a, ha, c, x, hx, q⟩

theorem refers_congr {o : BankNo} {k : Hall} (a : k.asg = h.asg) (s : k.stack = h.stack) : Refers k o ↔ Refers h o := by
  unfold Refers
  rw [a, s]

/-- R14 step 3: the bank that was ACTIVE is RETIRING while something refers to it, and SPENT otherwise. -/
theorem changeover_active {o : BankNo} (q : activeBank h = some o) (w : (h.banks[n]).st = .committed) :
    (Refers (changeover e n h) o → ((changeover e n h).banks[o]).st = .retiring) ∧
    (¬ Refers (changeover e n h) o → ((changeover e n h).banks[o]).st = .spent) := by
  have q' : activeBank (clearRetiring e h) = some o := activeBank_clearRetiring.trans q
  have ne : n ≠ o := fun z => by
    have := activeBank_some q
    rw [← z, w] at this
    cases this
  have st : ((changeover e n h).banks[o]).st = if hasRef o (retireItems e n o (clearRetiring e h)) then .retiring else .spent := by
    rw [changeover_other ne, retireActive_some q', retireBank_st, if_pos rfl]
  obtain ⟨asg, stack, _⟩ := changeover_same (e := e) (n := n) (h := h)
  rw [retireActive_some q'] at asg stack
  have refers : Refers (changeover e n h) o ↔ Refers (retireItems e n o (clearRetiring e h)) o :=
    refers_congr (asg.trans retireBank_same.1) (stack.trans retireBank_same.2.1)
  rw [st, refers, ← hasRef_iff]
  exact ⟨fun v => if_pos v, fun v => if_neg v⟩

theorem changeover_deferral {o : BankNo} (q : activeBank h = some o) :
    (changeover e n h).deferral = h.deferral.filter fun i => decide (i.item.occ.bank ≠ o) := by
  rw [changeover_same.2.2, retireActive_some (activeBank_clearRetiring.trans q), retireBank_same.2.2, retireItems_deferral,
    clearRetiring_deferral]

theorem changeover_deferral_none (q : activeBank h = none) : (changeover e n h).deferral = h.deferral := by
  rw [changeover_same.2.2, retireActive_none (activeBank_clearRetiring.trans q), clearRetiring_deferral]

theorem changeover_stack {r : BankNo} (q : retiringBank h = some r) (t : Tx) :
    (changeover e n h).stack[t] = (h.stack[t]).filter fun i => decide (i.item.occ.bank ≠ r) := by
  rw [changeover_same.2.1, retireActive_stack, clearRetiring_stack q]

theorem changeover_stack_none (q : retiringBank h = none) : (changeover e n h).stack = h.stack := by
  rw [changeover_same.2.1, retireActive_stack, clearRetiring_none q]

theorem changeover_spent {r : BankNo} (q : retiringBank h = some r) (w : (h.banks[n]).st = .committed) :
    ((changeover e n h).banks[r]).st = .spent := by
  have ne : n ≠ r := fun z => by
    have := retiringBank_some q
    rw [← z, w] at this
    cases this
  have spent := clearRetiring_spent (e := e) q
  rw [changeover_other ne, retireActive_forth (by rw [spent]; decide) (by rw [spent]; decide), spent]

theorem clearRetiring_start (w : (h.banks[n]).st = .committed) : startOf (clearRetiring e h) n = startOf h n := by
  unfold startOf
  rw [clearRetiring_forth (by rw [w]; decide)]

/-- R14 step 2: an assignment of the ACTIVE bank from the new bank's start on. -/
theorem changeover_later {o : BankNo} {a : Asg} {x : Sched} (q : activeBank h = some o) (w : (h.banks[n]).st = .committed)
    (ha : h.asg[t] = some a) (hx : a.sched = some x) (ho : x.occ.bank = o) (from_ : startOf h n ≤ x.start)
    (p : a.phase.isEnding = false) :
    (changeover e n h).asg[t] = none ∨ ∃ b, (changeover e n h).asg[t] = some b ∧ b.phase = .ending .changeover .nothing := by
  obtain ⟨b, hb, core⟩ := clearRetiring_of_active (e := e) q ha hx ho
  have sched : b.sched = a.sched := core_sched core
  have phase : b.phase = a.phase := congrArg Prod.fst core
  rw [changeover_same.1, retireActive_asg (activeBank_clearRetiring.trans q), clearRetiring_start w]
  have here : ofBankFrom o (startOf h n) b.sched = true := by
    rw [sched, hx]
    simp [ofBankFrom, ho, from_]
  rcases (endWhere_ended (e := e) (oc := .changeover) hb here (phase ▸ p)).cases with none | ⟨c, hc, ended⟩
  · exact .inl none
  · exact .inr ⟨c, hc, congrArg Prod.fst ended⟩

/-- R14 step 2: an earlier one runs on. -/
theorem changeover_earlier {o : BankNo} {a : Asg} {x : Sched} (q : activeBank h = some o) (w : (h.banks[n]).st = .committed)
    (ha : h.asg[t] = some a) (hx : a.sched = some x) (ho : x.occ.bank = o) (before : x.start < startOf h n) :
    ∃ b, (changeover e n h).asg[t] = some b ∧ b.phase = a.phase ∧ b.sched = a.sched ∧ b.eff = a.eff := by
  obtain ⟨b, hb, core⟩ := clearRetiring_of_active (e := e) q ha hx ho
  have kept := retireActive_keeps (e := e) (n := n) hb fun o' _ => by
    rw [core_sched core, hx, clearRetiring_start w]
    simp [ofBankFrom, before]
  obtain ⟨c, hc, same⟩ := Option.map_eq_some_iff.1 kept
  have whole : c.core = a.core := same.trans core
  rw [changeover_same.1]
  exact ⟨c, hc, congrArg Prod.fst whole, core_sched whole, congrArg (fun k => k.2.2.1) whole⟩

end

/-! ### BANK-COMMIT -/

section
variable {s : State} {n : BankNo} {d : DateForm} {hhmm : Nat} {start : Minutes} {b : Bank}

/-- The least index that satisfies `p` is found first. -/
theorem find_least {k : Nat} {p : Fin k → Bool} {m : Fin k} (w : p m = true) (least : ∀ j, j < m → p j = false) :
    (List.finRange k).find? p = some m := by
  cases q : (List.finRange k).find? p with
  | none => exact absurd w (by simpa using List.find?_eq_none.1 q m (List.mem_finRange m))
  | some j =>
    obtain ⟨hj, before, after, split, none⟩ := List.find?_eq_some_iff_append.1 q
    rcases lt_trichotomy j m with lt | rfl | gt
    · rw [least j lt] at hj
      cases hj
    · rfl
    · have sorted := List.pairwise_lt_finRange k
      have mem := List.mem_finRange m
      rw [split] at sorted mem
      rcases List.mem_append.1 mem with mem | mem
      · have := none m mem
        rw [w] at this
        cases this
      · rcases List.mem_cons.1 mem with rfl | mem
        · rfl
        · have above := (List.pairwise_cons.1 (List.pairwise_append.1 sorted).2.1).1 m mem
          exact absurd above (lt_asymm gt)

/-- R8: a COMMITTED bank has that start already. -/
def StartTaken (s : State) (start : Minutes) (m : BankNo) : Prop := (s.hall.banks[m]).st = .committed ∧ (s.hall.banks[m]).start = some start

/-- R8 step 1. -/
def takenBank (s : State) (start : Minutes) : Option BankNo :=
  allBanks.find? fun m => decide ((s.hall.banks[m]).st = .committed) && decide ((s.hall.banks[m]).start = some start)

theorem taken_iff {m : BankNo} : (decide ((s.hall.banks[m]).st = .committed) && decide ((s.hall.banks[m]).start = some start)) = true ↔
    StartTaken s start m := by
  rw [Bool.and_eq_true, decide_eq_true_eq, decide_eq_true_eq]
  rfl

theorem takenBank_some {m : BankNo} (w : StartTaken s start m) (least : ∀ k, k < m → ¬ StartTaken s start k) :
    takenBank s start = some m :=
  find_least (taken_iff.2 w) fun k lt => Bool.eq_false_iff.2 (mt taken_iff.1 (least k lt))

theorem takenBank_none : takenBank s start = none ↔ ∀ m, ¬ StartTaken s start m := by
  unfold takenBank
  rw [List.find?_eq_none]
  exact ⟨fun w m => mt taken_iff.2 (w m (List.mem_finRange m)), fun w m _ => mt taken_iff.1 (w m)⟩

/-- R8 step 2: the first entry that its tests fail. -/
def faultyEntry (s : State) (b : Bank) : Option (Nat × Status × Option CheckAnswer) :=
  b.recs.findSome? fun r => (entryFault s.tables s.hall r.entry).map fun x => (r.entry.id, x)

theorem faultyEntry_none : faultyEntry s b = none ↔ ∀ r ∈ b.recs, entryFault s.tables s.hall r.entry = none := by
  simp [faultyEntry]

theorem faultyEntry_some {before after : List EntryRec} {r : EntryRec} {st : Status} {a : Option CheckAnswer}
    (split : b.recs = before ++ r :: after) (pass : ∀ x ∈ before, entryFault s.tables s.hall x.entry = none)
    (w : entryFault s.tables s.hall r.entry = some (st, a)) : faultyEntry s b = some (r.entry.id, st, a) := by
  unfold faultyEntry
  rw [split, List.findSome?_append, List.findSome?_eq_none_iff.2 fun x m => by rw [pass x m]; rfl, Option.none_or,
    List.findSome?_cons_of_isSome (by rw [w]; rfl), w]
  rfl

theorem commitFault_eq : commitFault s b start =
    ((takenBank s start).elim ((faultyEntry s b).elim ((firstPair start b.recs).map fun p => (.conflict, .otherIds p.1 p.2))
      fun x => some (x.2.1, .atId x.1 x.2.2)) fun m => some (.conflict, .otherBank m)) := by
  unfold commitFault takenBank faultyEntry
  cases allBanks.find? fun m => decide ((s.hall.banks[m]).st = .committed) && decide ((s.hall.banks[m]).start = some start) with
  | some m => rfl
  | none =>
    dsimp only [Option.elim]
    cases b.recs.findSome? fun r => (entryFault s.tables s.hall r.entry).map fun x => (r.entry.id, x) with
    | none => rfl
    | some x => rfl

/-- R8 step 3: nothing clashes. -/
theorem firstPair_none {l : List EntryRec} : firstPair start l = none ↔ l.Pairwise fun x y => clash start x.entry y.entry = false := by
  induction l with
  | nil => exact ⟨fun _ => .nil, fun _ => rfl⟩
  | cons r l ih =>
    rw [List.pairwise_cons, ← ih, firstPair]
    cases q : l.find? fun x => clash start r.entry x.entry with
    | none =>
      have free := List.find?_eq_none.1 q
      exact ⟨fun w => ⟨fun x m => by simpa using free x m, w⟩, fun w => w.2⟩
    | some x =>
      refine ⟨fun w => (nomatch w), fun w => ?_⟩
      have free := w.1 x (List.mem_of_find?_eq_some q)
      have clashes := List.find?_some q
      rw [free] at clashes
      cases clashes

/-- R8 step 3: the first pair that clashes, by its first entry and then its second. -/
theorem firstPair_some {before mid after : List EntryRec} {r x : EntryRec}
    (first : ∀ front y back, before ++ r :: (mid ++ x :: after) = front ++ y :: back → front.length < before.length →
      ∀ z ∈ back, clash start y.entry z.entry = false)
    (free : ∀ y ∈ mid, clash start r.entry y.entry = false) (w : clash start r.entry x.entry = true) :
    firstPair start (before ++ r :: (mid ++ x :: after)) = some (r.entry.id, x.entry.id) := by
  induction before with
  | nil =>
    have found : (mid ++ x :: after).find? (fun z => clash start r.entry z.entry) = some x :=
      List.find?_eq_some_iff_append.2 ⟨w, mid, after, rfl, fun y m => by simp [free y m]⟩
    rw [List.nil_append, firstPair, found]
  | cons y before ih =>
    have none : (before ++ r :: (mid ++ x :: after)).find? (fun z => clash start y.entry z.entry) = none :=
      List.find?_eq_none.2 fun z m => by simp [first [] y _ rfl (Nat.zero_lt_succ _) z m]
    rw [List.cons_append, firstPair, none]
    exact ih fun front z back split lt => first (y :: front) z back (congrArg _ split) (Nat.succ_lt_succ lt)

/-! The answers of BANK-COMMIT. -/

theorem bankCommit_range (q : commitStart d hhmm = none) : bankCommit (n.val + 1) d hhmm s = s.refuse .range := by
  rw [bankCommit, withBank_succ, q, named_none]

theorem bankCommit_state (q : commitStart d hhmm = some start) (st : (s.hall.banks[n]).st ≠ .staging) :
    bankCommit (n.val + 1) d hhmm s = s.refuse .state := by
  rw [bankCommit, withBank_succ, q, named_some, if_pos st]

theorem bankCommit_fault {st : Status} {body : ReplyBody} (q : commitStart d hhmm = some start)
    (w : (s.hall.banks[n]).st = .staging) (f : commitFault s s.hall.banks[n] start = some (st, body)) :
    bankCommit (n.val + 1) d hhmm s = s.ans st body := by
  rw [bankCommit, withBank_succ, q, named_some, if_neg (not_not.2 w), f]

/-- R9: the bank COMMITTED. -/
def committed (n : BankNo) (start : Minutes) (s : State) : State :=
  s.setBank n fun b => { b with st := .committed, start := some start }

theorem isSet_and_past : (s.env.isSet && decide (start ≤ s.env.min)) = true ↔ s.time.cstate ≠ .unset ∧ start ≤ s.time.clock / ticksPerMin := by
  rw [Bool.and_eq_true, Env.isSet, decide_eq_true_eq, decide_eq_true_eq]
  rfl

theorem bankCommit_ok (q : commitStart d hhmm = some start) (w : (s.hall.banks[n]).st = .staging)
    (f : commitFault s s.hall.banks[n] start = none) (later : ¬ (s.time.cstate ≠ .unset ∧ start ≤ s.time.clock / ticksPerMin)) :
    bankCommit (n.val + 1) d hhmm s = (committed n start s).ok := by
  rw [bankCommit, withBank_succ, q, named_some, if_neg (not_not.2 w), f]
  exact if_neg (mt isSet_and_past.1 later)

theorem bankCommit_now (q : commitStart d hhmm = some start) (w : (s.hall.banks[n]).st = .staging)
    (f : commitFault s s.hall.banks[n] start = none) (now : s.time.cstate ≠ .unset ∧ start ≤ s.time.clock / ticksPerMin) :
    bankCommit (n.val + 1) d hhmm s = ((committed n start s).onHall changeoverIfDue).ans .accepted .nothing := by
  rw [bankCommit, withBank_succ, q, named_some, if_neg (not_not.2 w), f]
  exact if_pos (isSet_and_past.2 now)

end
end Sys2Proof.Machine

namespace Sys2Proof.Proofs

set_option Elab.async false
section
open Machine

/-- What a changeover does, for O14. -/
theorem dueChangeover (e : Env) (h : Hall) (n : BankNo) (set : e.tm.cstate ≠ .unset) (mode : h.mode ≠ .adopting) (due : Due e h n)
    (least : ∀ m, Due e h m → startOf h n < startOf h m ∨ (startOf h n = startOf h m ∧ n ≤ m)) :
    changeoverIfDue e h = changeoverScan e h ∧ changeoverScan e h = scan e (changeovers e 3 (changeover e n h)) := by
  have q := dueBank_some set mode due least
  exact ⟨by rw [changeoverIfDue, q]; rfl, by rw [changeoverScan, changeovers_some q]⟩

/-- Settles O14: the changeover by the lemmas about its steps, the request by the tests of R8 in their order. -/
theorem bankCommit : Obligations.BankCommit := by
  refine ⟨fun e h => ⟨fun none => ?_, fun n set mode due least => ?_⟩, fun tag hhmm n d s w => ?_⟩
  · have q := dueBank_none none
    exact ⟨by rw [changeoverIfDue, q]; rfl, by rw [changeoverScan, changeovers_none q]⟩
  · have com := due.1
    obtain ⟨ifDue, scanned⟩ := dueChangeover e h n set mode due least
    refine ⟨ifDue, scanned, changeover_bank com, changeover_emit com, changeover_recs,
      fun r q => ⟨changeover_spent q com, changeover_stack q, fun t a x ha hx hr => ?_⟩, changeover_stack_none,
      fun o q => ⟨(changeover_active q com).1, (changeover_active q com).2, changeover_deferral q, fun t a x ha hx ho =>
        ⟨changeover_later q com ha hx ho, changeover_earlier q com ha hx ho⟩⟩, changeover_deferral_none⟩
    have mine : ofBank r a.sched = true := by rw [hx]; simp [ofBank, hr]
    refine (changeover_retiring q ha mine).imp_right fun ⟨b, hb, core⟩ => ⟨b, hb, ?_, congrArg Prod.fst core⟩
    exact congrArg (fun c => c.2.2.2.1) core
  · refine ⟨fun q => refused_request w rfl (bankCommit_range q), fun start q st => refused_request w rfl (bankCommit_state q st),
      fun start q st => ?_⟩
    have faulty {st' : Status} {body : ReplyBody} (f : commitFault s s.hall.banks[n] start = some (st', body)) :
        Answers (.bankCommit tag (n.val + 1) d hhmm) s tag .bankCommit st' body :=
      answers_request w rfl (bankCommit_fault q st f)
    refine ⟨fun m hm hs first => faulty ?_, fun st' body f => faulty f, fun none => ⟨?_, ?_⟩,
      fun f later => takenOk_request w rfl (bankCommit_ok q st f later), fun f now => completes_request w rfl ?_, ?_⟩
    · rw [commitFault_eq, takenBank_some ⟨hm, hs⟩ first]
      rfl
    · intro before r after st' a split pass fault
      refine faulty ?_
      rw [commitFault_eq, takenBank_none.2 none, faultyEntry_some split (fun x m => entryFault_eq.trans (pass x m)) (entryFault_eq.trans fault)]
      rfl
    · intro before r mid x after pass split first free clashes
      refine faulty ?_
      have pair := firstPair_some (fun front y back s' => first front y back (split.trans s')) free clashes
      rw [← split] at pair
      rw [commitFault_eq, takenBank_none.2 none, faultyEntry_none.2 fun y m => entryFault_eq.trans (pass y m), pair]
      rfl
    · exact (congrArg (fun a => a.reply tag .bankCommit) (bankCommit_now q st f now)).trans rfl
    · rw [commitFault_eq]
      constructor
      · intro f
        cases t : takenBank s start with
        | some m => rw [t] at f; cases f
        | none =>
          rw [t] at f
          cases v : faultyEntry s s.hall.banks[n] with
          | some x => rw [v] at f; cases f
          | none =>
            rw [v] at f
            exact ⟨takenBank_none.1 t, faultyEntry_none.1 v, firstPair_none.1 (Option.map_eq_none_iff.1 f)⟩
      · rintro ⟨t, v, pairs⟩
        rw [takenBank_none.2 t, faultyEntry_none.2 v]
        exact Option.map_eq_none_iff.2 (firstPair_none.2 pairs)

end
end Sys2Proof.Proofs
namespace Sys2Proof.Machine

set_option Elab.async false
section
variable {g h : Hall} {e : Env} {t : Tx} {o : Out} {n : BankNo}

/-! ### Operations that at most retire banks -/

namespace Spends

theorem ite {c : Prop} [Decidable c] {a b : Hall} (x : Spends g a) (y : Spends g b) : Spends g (if c then a else b) := by
  split <;> assumption

theorem ends {d : Tx → Prop} {k : Hall} (x : Spends g h) (y : Ends d h k) : Spends g k := x.trans y.banks

theorem eachOf {α : Type} {l : List α} {f : α → Hall → Hall} (x : Spends g h) (y : ∀ {a k}, Spends g k → Spends g (f a k)) :
    Spends g (h.each l f) := by
  induction l generalizing h with
  | nil => exact x
  | cons a l ih => exact ih (y x)

protected theorem note {b : NoticeBody} (x : Spends g h) : Spends g (h.note b) := x.same

protected theorem setAsg {a : Option Asg} (x : Spends g h) : Spends g (h.setAsg t a) := x.same

protected theorem mapAsg {f : Asg → Asg} (x : Spends g h) : Spends g (h.mapAsg t f) := x.same

protected theorem setOwner {w : Option Tx} (x : Spends g h) : Spends g (h.setOwner o w) := x.same

protected theorem report {r : Report} (x : Spends g h) : Spends g (report e r h) := x.ends (report_ends (Ends.refl (fun _ => False) _))

protected theorem release (x : Spends g h) : Spends g (release o h) := x.ends (release_ends (Ends.refl (fun _ => False) _))

protected theorem pushStack {it : Item} {r : StackReason} (x : Spends g h) : Spends g (pushStack e t it r h) := by
  unfold pushStack
  extract_lets new l keep out k
  split
  · exact x.same
  · refine eachOf (x.same) fun y => ?_
    exact (y.note).trans Spends.retireCheck

protected theorem deferItem {it : Item} {r : DeferReason} (x : Spends g h) : Spends g (deferItem e it r h) := by
  unfold deferItem
  split
  · exact x.same
  · exact x.report.note

protected theorem completeEnd (x : Spends g h) : Spends g (completeEnd e t h) := by
  unfold completeEnd
  split
  · exact x
  · split
    · extract_lets item passed k₁ k₂ k₃ k₄ k₅ k₆
      clear_value item
      have x₁ : Spends g k₁ := by
        unfold k₁
        split
        · exact .ite x x.pushStack
        · exact x
      have x₂ : Spends g (k₁.each (claims k₁ t) (passClaim t)) :=
        x₁.eachOf fun y => y.ends (passClaim_ends (Ends.refl (fun _ => False) _))
      have x₄ : Spends g k₄ := x₂.same
      have x₅ : Spends g k₅ := by
        unfold k₅
        split
        · exact .ite x₄.note x₄
        · exact .ite x₄ x₄.deferItem
        · exact x₄
      have x₆ : Spends g k₆ := by
        unfold k₆
        split
        · exact x₅.trans Spends.retireCheck
        · exact x₅
      exact x₆.same
    · exact x

/-- An end of an assignment, whatever comes after it. -/
protected theorem ending {oc : EndOutcome} {after : After} (x : Spends g h) : Spends g (endAsg e t oc after h) := by
  cases ha : h.asg[t] with
  | none => unfold endAsg; rw [ha]; exact x
  | some a =>
    cases hp : a.phase.isEnding with
    | true => rw [endAsg_ending ha hp]; exact x
    | false =>
      have y : Spends g (endBegun t (a.ended oc after) h) := x.ends (endBegun_ends (Ends.refl (fun _ => True) _) trivial)
      rw [endAsg_begun ha hp, tryEnd, endBegun_asg]
      dsimp only
      exact .ite y (.ite y.completeEnd (.ite y (y.ends (handLower_ends (Ends.refl (fun _ => False) _)))))

protected theorem refuseAsg {p : CheckPoint} {a : CheckAnswer} (x : Spends g h) : Spends g (refuseAsg e t p a h) := by
  have y : Spends g (reportRefusal e t p a h) := by
    unfold reportRefusal
    split
    · exact x
    · split
      · exact x.report
      · exact x.report
  exact y.ending

protected theorem recompute {viaHold mayAwait : Bool} (x : Spends g h) : Spends g (recompute e t viaHold mayAwait h) := by
  unfold recompute
  split
  · exact x
  · refine .ite x (.ite ?_ x.mapAsg.ending)
    extract_lets k₁ awaited k₂ src b k₃
    have x₁ : Spends g k₁ := .ite x.mapAsg.release x
    have x₃ : Spends g k₃ := Spends.setAsg (.ite x₁.setOwner x₁)
    exact .ite x₃.same (.ite (.ite x₃ (.ite x₃.same x₃.refuseAsg)) x₃)

protected theorem amendAsg {c : Change} {en : Entry} (x : Spends g h) : Spends g (amendAsg e c en t h) := by
  unfold amendAsg
  split
  · exact x
  · split
    · exact x
    · exact .ite x (.ite x.ending (.ite x.setAsg.recompute x.setAsg.mapAsg.ending))

protected theorem amendStack {c : Change} {en : Entry} (x : Spends g h) : Spends g (amendStack e c en t h) := by
  unfold amendStack
  extract_lets mine k₁ out k₂
  have x₁ : Spends g k₁ := x.trans Spends.dropStack
  exact .ite x₁.same (.ite x₁ (eachOf x₁.same fun y => y.deferItem))

protected theorem amendDeferral {c : Change} {en : Entry} (x : Spends g h) : Spends g (amendDeferral e c en h) := x.same

end Spends

end
end Sys2Proof.Machine
namespace Sys2Proof.Machine

set_option Elab.async false
section
variable {g h : Hall} {e : Env} {t : Tx} {o : Out} {n : BankNo} {c : Change} {en : Entry} {rest : List Change}

/-! ### The head of the change queue -/

/-- The change's id is held in its bank. -/
def HeldEntry (h : Hall) (c : Change) : Prop := ∃ r ∈ (h.banks[c.bank]).recs, r.entry.id = c.id

theorem held_iff : ((h.banks[c.bank]).find c.id).isSome = true ↔ HeldEntry h c := by
  rw [← Option.not_isNone, Bool.not_eq_true', Bool.eq_false_iff, ne_eq, find_isNone]
  unfold HeldEntry
  push Not
  rfl

/-- R25: an occurrence of the change's entry. -/
def OfEntry (c : Change) (x : Occ) : Prop := x.bank = c.bank ∧ x.id = c.id

/-- R25: T's assignment carries an occurrence of the change's entry. -/
def Carries (h : Hall) (c : Change) (t : Tx) : Prop := ∃ a x, h.asg[t] = some a ∧ a.sched = some x ∧ OfEntry c x.occ

theorem mem_carriers : t ∈ carriers h c ↔ Carries h c t := by
  unfold carriers Carries OfEntry
  simp only [List.mem_filter, mem_allTx, true_and, Option.any_eq_true, Bool.and_eq_true, decide_eq_true_eq]
  constructor
  · rintro ⟨a, ha, x, hx, q⟩
    exact ⟨a, x, ha, hx, q⟩
  · rintro ⟨a, x, ha, hx, q⟩
    exact ⟨a, ha, x, hx, q⟩

theorem mem_slotList {s : Slot} : s ∈ slotList h ↔ ∃ i : Fin 4, h.path.slots[i] = some s := by
  unfold slotList
  rw [List.mem_filterMap]
  constructor
  · rintro ⟨x, m, rfl⟩
    obtain ⟨i, hi, v⟩ := List.getElem_of_mem m
    exact ⟨⟨i, by simpa using hi⟩, by simpa using v⟩
  · rintro ⟨i, q⟩
    exact ⟨_, by simp, q⟩

/-- R25: work in flight for T. -/
def Flies (h : Hall) (t : Tx) (w : Work) : Prop :=
  (∃ o at_, (h.tx[t]).out = some o ∧ o.sentAt = some at_ ∧ w = .order t (o.no.getD 0)) ∨
  ∃ (i : Fin 4) (x : Slot), h.path.slots[i] = some x ∧ t ∈ x.motion.waiters ∧ w = .motion x.motion.kind x.motion.arrival

theorem mem_orders {w : Work} : (w ∈ (h.tx[t]).out.toList.filterMap fun o => if o.sentAt.isSome then some (Work.order t (o.no.getD 0)) else none) ↔
    ∃ o at_, (h.tx[t]).out = some o ∧ o.sentAt = some at_ ∧ w = .order t (o.no.getD 0) := by
  rw [List.mem_filterMap]
  constructor
  · rintro ⟨o, m, q⟩
    split at q
    · next sent =>
      obtain ⟨a, ha⟩ := Option.isSome_iff_exists.1 sent
      exact ⟨o, a, Option.mem_toList.1 m, ha, (Option.some.inj q).symm⟩
    · cases q
  · rintro ⟨o, a, ho, ha, rfl⟩
    exact ⟨o, Option.mem_toList.2 ho, if_pos (by rw [ha]; rfl)⟩

theorem mem_motions {w : Work} : (w ∈ (grantedOf h t).map fun m => Work.motion m.kind m.arrival) ↔
    ∃ (i : Fin 4) (x : Slot), h.path.slots[i] = some x ∧ t ∈ x.motion.waiters ∧ w = .motion x.motion.kind x.motion.arrival := by
  unfold grantedOf
  simp only [List.mem_map, List.mem_filter, mem_slotList, List.contains_iff_mem]
  constructor
  · rintro ⟨m, ⟨s, ⟨⟨i, hi⟩, w⟩, rfl⟩, rfl⟩
    exact ⟨i, s, hi, w, rfl⟩
  · rintro ⟨i, s, hi, w, rfl⟩
    exact ⟨_, ⟨s, ⟨⟨i, hi⟩, w⟩, rfl⟩, rfl⟩

theorem mem_workOf {w : Work} : w ∈ workOf h t ↔ Flies h t w := by
  rw [workOf, List.mem_append, mem_orders, mem_motions]
  rfl

/-- R23: the bank's state takes the kind. -/
def Taken (h : Hall) (c : Change) : Prop :=
  (h.banks[c.bank]).st = .committed ∨ (h.banks[c.bank]).st = .active ∨ ((h.banks[c.bank]).st = .retiring ∧ c.kind = .withdraw)

theorem kindTaken_iff : kindTaken c.kind (h.banks[c.bank]).st = true ↔ Taken h c := by
  unfold Taken
  cases (h.banks[c.bank]).st <;> cases c.kind <;> simp [kindTaken]

theorem changeStep_adopting (w : h.changes = c :: rest) (m : h.mode = .adopting) : changeStep e h = none := by
  rw [changeStep, w]
  exact if_pos m

theorem changeStep_examine (w : h.changes = c :: rest) (m : h.mode ≠ .adopting) (d : c.draining = false ∨ mustRecheck h c = true) :
    changeStep e h = some (examine e c h) := by
  rw [changeStep, w]
  dsimp only
  rw [if_neg m, if_pos (by rcases d with d | d <;> simp [d])]

theorem changeStep_waits (w : h.changes = c :: rest) (m : h.mode ≠ .adopting) (d : c.draining = true) (r : mustRecheck h c = false) :
    changeStep e h = none := by
  rw [changeStep, w]
  dsimp only
  rw [if_neg m, if_neg (by simp [d, r])]

/-- R26: a DRAINING head is examined again. -/
theorem mustRecheck_iff : mustRecheck h c = true ↔
    c.recheck = true ∨ (∃ w ∈ c.awaited, ∀ t ∈ c.frozen, ¬ Flies h t w) ∨ ∃ t ∈ c.frozen, ¬ Carries h c t := by
  unfold mustRecheck
  simp only [Bool.or_eq_true, List.any_eq_true, Bool.not_eq_true', Bool.eq_false_iff, ne_eq, List.contains_iff_mem,
    List.mem_flatMap, mem_workOf, mem_carriers, not_exists, not_and, or_assoc]

theorem changeStep_first {k : Hall} (none : ∀ t, takeBackStep e t h = none ∧ endStep e t h = none) (q : changeStep e h = some k) :
    nextRule e h = some k := by
  have back : forTx takeBackStep e h = Option.none := List.findSome?_eq_none_iff.2 fun t _ => (none t).1
  have ends : forTx endStep e h = Option.none := List.findSome?_eq_none_iff.2 fun t _ => (none t).2
  unfold nextRule rules
  rw [List.findSome?_cons, back]
  dsimp only
  rw [List.findSome?_cons, ends]
  dsimp only
  rw [List.findSome?_cons, q]

/-! ### An examination -/

theorem rejectHead_eq {r : RejectReason} (w : h.changes = c :: rest) : rejectHead c r h =
    { h with changes := rest, emit := h.emit ++ [.changeRejected c.tag c.bank c.kind c.id r] } := by
  unfold rejectHead popChange Hall.note
  rw [w, List.tail_cons]

theorem examine_untaken (w : ¬ Taken h c) : examine e c h = rejectHead c (.status .state none none) h := by
  have no : kindTaken c.kind (h.banks[c.bank]).st = false := Bool.eq_false_iff.2 (mt kindTaken_iff.1 w)
  exact if_pos (by rw [no]; rfl)

theorem examine_fault {r : RejectReason} (w : Taken h c) (q : validate e.k h c = some r) : examine e c h = rejectHead c r h := by
  have yes : ¬ (!kindTaken c.kind (h.banks[c.bank]).st) = true := by rw [kindTaken_iff.2 w]; decide
  refine (if_neg yes).trans ?_
  rw [q]

/-- R28 to R32: a change that has been applied leaves the queue. -/
def doneHead (e : Env) (c : Change) (h : Hall) : Hall := (popChange (applyChange e c h)).note (.changeDone c.tag c.bank c.kind c.id)

theorem examine_passed (w : Taken h c) (q : validate e.k h c = none) : examine e c h =
    if (engaged h c).isEmpty then if (h.banks[c.bank]).st = .committed then doneHead e c h else (doneHead e c h).wantAlloc
    else { h with changes := { c with draining := true, frozen := engaged h c, awaited := (engaged h c).flatMap (workOf h), recheck := false } ::
                            h.changes.tail } := by
  have yes : ¬ (!kindTaken c.kind (h.banks[c.bank]).st) = true := by rw [kindTaken_iff.2 w]; decide
  refine (if_neg yes).trans ?_
  rw [q]
  rfl

theorem isEmpty_eq_false {α : Type} {l : List α} : l.isEmpty = false ↔ ∃ x, x ∈ l := by
  cases l with
  | nil => simp
  | cons a l => exact ⟨fun _ => ⟨a, by simp⟩, fun _ => rfl⟩

theorem mem_engaged : t ∈ engaged h c ↔
    ((h.banks[c.bank]).st = .active ∨ (h.banks[c.bank]).st = .retiring) ∧ c.kind ≠ .add ∧ Carries h c t ∧ ∃ w, Flies h t w := by
  unfold engaged
  dsimp only
  have flying : (workOf h t).isEmpty = false ↔ ∃ w, Flies h t w := by
    exact isEmpty_eq_false.trans (exists_congr fun w => mem_workOf)
  by_cases q : (((h.banks[c.bank]).st = .active || (h.banks[c.bank]).st = .retiring) && decide (c.kind ≠ .add)) = true
  · rw [if_pos q, List.mem_filter, mem_carriers, Bool.not_eq_true', flying]
    simp only [Bool.and_eq_true, Bool.or_eq_true, decide_eq_true_eq] at q
    exact ⟨fun v => ⟨q.1, q.2, v⟩, fun v => v.2.2⟩
  · rw [if_neg q]
    simp only [Bool.and_eq_true, Bool.or_eq_true, decide_eq_true_eq] at q
    exact ⟨fun m => (nomatch m), fun v => absurd ⟨v.1, v.2.1⟩ q⟩

/-- R25: the change stands in the way of work in flight. -/
def Engaged (h : Hall) (c : Change) : Prop :=
  ((h.banks[c.bank]).st = .active ∨ (h.banks[c.bank]).st = .retiring) ∧ c.kind ≠ .add ∧ ∃ t w, Carries h c t ∧ Flies h t w

theorem engaged_isEmpty : (engaged h c).isEmpty = false ↔ Engaged h c := by
  rw [isEmpty_eq_false]
  constructor
  · rintro ⟨t, m⟩
    obtain ⟨st, kind, car, w, fly⟩ := mem_engaged.1 m
    exact ⟨st, kind, t, w, car, fly⟩
  · rintro ⟨st, kind, t, w, car, fly⟩
    exact ⟨t, mem_engaged.2 ⟨st, kind, car, w, fly⟩⟩

theorem examine_engaged (w : h.changes = c :: rest) (k : Taken h c) (v : validate e.k h c = none) (q : Engaged h c) :
    ∃ l ws, examine e c h =
        { h with changes := { c with draining := true, frozen := l, awaited := ws, recheck := false } :: rest } ∧
      (∀ t, t ∈ l ↔ Carries h c t ∧ ∃ w, Flies h t w) ∧ ∀ w, w ∈ ws ↔ ∃ t ∈ l, Flies h t w := by
  refine ⟨engaged h c, (engaged h c).flatMap (workOf h), ?_, fun t => ?_, fun w => ?_⟩
  · rw [examine_passed k v, if_neg (by rw [engaged_isEmpty.2 q]; decide), w, List.tail_cons]
  · obtain ⟨st, kind, _⟩ := q
    exact mem_engaged.trans ⟨fun v => v.2.2, fun v => ⟨st, kind, v⟩⟩
  · rw [List.mem_flatMap]
    exact exists_congr fun t => and_congr_right fun _ => mem_workOf

theorem examine_done (k : Taken h c) (v : validate e.k h c = none) (q : ¬ Engaged h c) : examine e c h =
    { applyChange e c h with
      changes := (applyChange e c h).changes.tail, emit := (applyChange e c h).emit ++ [.changeDone c.tag c.bank c.kind c.id]
      alloc := (applyChange e c h).alloc || decide ((h.banks[c.bank]).st ≠ .committed) } := by
  have free : (engaged h c).isEmpty = true := by rw [← Bool.not_eq_false, engaged_isEmpty]; exact q
  rw [examine_passed k v, if_pos free]
  unfold doneHead
  generalize applyChange e c h = k
  split
  · next st => rw [decide_eq_false (not_not.2 st), Bool.or_false]; rfl
  · next st => rw [decide_eq_true st, Bool.or_true]; rfl

/-! ### The validation of a change -/

/-- R24: the replacement or new entry clashes with a record of the bank. -/
def Clashes (h : Hall) (c : Change) (en : Entry) (r : EntryRec) : Prop := clash ((h.banks[c.bank]).start.getD 0) en r.entry = true

theorem changeFault_entry {k : Tables} {b : Bank} {st : Status} {a : Option CheckAnswer} (f : entryFault k h en = some (st, a)) :
    changeFault k h b en = some (.status st none a) := by
  rw [changeFault, f]

theorem changeFault_none {k : Tables} (f : entryFault k h en = none) (free : ∀ r ∈ (h.banks[c.bank]).recs, ¬ Clashes h c en r) :
    changeFault k h (h.banks[c.bank]) en = none := by
  have none : firstClash (h.banks[c.bank]) ((h.banks[c.bank]).start.getD 0) en = none := by
    rw [firstClash, List.find?_eq_none.2 fun r m => free r m]
    rfl
  rw [changeFault, f]
  dsimp only
  rw [none]

theorem changeFault_clash {k : Tables} {before after : List EntryRec} {r : EntryRec} (f : entryFault k h en = none)
    (split : (h.banks[c.bank]).recs = before ++ r :: after) (free : ∀ x ∈ before, ¬ Clashes h c en x) (w : Clashes h c en r) :
    changeFault k h (h.banks[c.bank]) en =
      some (.status .conflict (some (min en.id r.entry.id, some (max en.id r.entry.id))) none) := by
  have found : firstClash (h.banks[c.bank]) ((h.banks[c.bank]).start.getD 0) en = some r.entry.id := by
    have first : (h.banks[c.bank]).recs.find? (fun r => clash ((h.banks[c.bank]).start.getD 0) en r.entry) = some r :=
      List.find?_eq_some_iff_append.2 ⟨w, before, after, split, fun x m => by simpa [Clashes] using free x m⟩
    rw [firstClash, first]
    rfl
  rw [changeFault, f]
  dsimp only
  rw [found]

/-- R24: the change comes to the tests of its entry. -/
def Tested (h : Hall) (c : Change) (en : Entry) : Prop := c.entry = some en ∧
  ((c.kind = .add ∧ ¬ HeldEntry h c ∧ (h.banks[c.bank]).recs.length < 400) ∨ (c.kind = .amend ∧ HeldEntry h c))

theorem validate_tested {k : Tables} (w : Tested h c en) : validate k h c = changeFault k h (h.banks[c.bank]) en := by
  obtain ⟨entry, ⟨kind, free, room⟩ | ⟨kind, held⟩⟩ := w
  · rw [validate, kind, entry]
    dsimp only
    rw [if_neg (mt held_iff.1 free)]
    exact if_neg (Nat.not_le.2 room)
  · rw [validate, kind, entry]
    exact if_pos (held_iff.2 held)

theorem validate_withdraw {k : Tables} (kind : c.kind = .withdraw) (held : HeldEntry h c) : validate k h c = none := by
  rw [validate, kind]
  exact if_pos (held_iff.2 held)

theorem validate_notFound {k : Tables} (free : ¬ HeldEntry h c) (w : c.kind = .withdraw ∨ (c.kind = .amend ∧ c.entry ≠ none)) :
    validate k h c = some (.status .notFound none none) := by
  rcases w with kind | ⟨kind, entry⟩
  · rw [validate, kind]
    exact if_neg (mt held_iff.1 free)
  · obtain ⟨en, q⟩ := Option.ne_none_iff_exists'.1 entry
    rw [validate, kind, q]
    exact if_neg (mt held_iff.1 free)

theorem validate_held {k : Tables} (held : HeldEntry h c) (kind : c.kind = .add) (entry : c.entry ≠ none) :
    validate k h c = some (.status .conflict (some (c.id, none)) none) := by
  obtain ⟨en, q⟩ := Option.ne_none_iff_exists'.1 entry
  rw [validate, kind, q]
  exact if_pos (held_iff.2 held)

theorem validate_full {k : Tables} (free : ¬ HeldEntry h c) (kind : c.kind = .add) (entry : c.entry ≠ none)
    (full : 400 ≤ (h.banks[c.bank]).recs.length) : validate k h c = some (.status .full none none) := by
  obtain ⟨en, q⟩ := Option.ne_none_iff_exists'.1 entry
  rw [validate, kind, q]
  dsimp only
  rw [if_neg (mt held_iff.1 free)]
  exact if_pos full

end
end Sys2Proof.Machine
namespace Sys2Proof.Machine

set_option Elab.async false
section
variable {g h : Hall} {e : Env} {t : Tx} {o : Out} {n : BankNo} {c : Change} {en : Entry} {rest : List Change}

/-! ### Walks that end every assignment of a list -/

/-- Every transmitter of the list has its assignment ended. -/
def endAll (e : Env) (l : List Tx) (oc : EndOutcome) (h : Hall) : Hall := h.each l fun t k => endAsg e t oc .nothing k

section
variable {l : List Tx} {oc : EndOutcome}

theorem endAll_eq : endAll e l oc h = h.each l (endEach e (fun _ _ => true) fun _ _ => oc) := by
  refine congrArg (h.each l) (funext fun t => funext fun k => ?_)
  unfold endEach
  cases q : k.asg[t] with
  | none => unfold endAsg; rw [q]
  | some a => rfl

theorem endAll_ends : Ends (fun _ => True) h (endAll e l oc h) :=
  Ends.each (Ends.refl _ h) fun _ _ _ y => endAsg_ends y trivial

theorem endAll_ended (nd : l.Nodup) (m : t ∈ l) {a : Asg} (ha : h.asg[t] = some a) (p : a.phase.isEnding = false) :
    EndedTo oc a (endAll e l oc h).asg[t] := by
  rw [endAll_eq]
  exact (endEach_each (fun _ _ _ _ => ⟨rfl, rfl⟩) l nd h).2 t m a ha rfl p

end

/-! ### Notices that stand -/

section
variable {p : Item → Bool} {nt : Occ → NoticeBody}

theorem itemsLeave_emit {l : List StackItem} {i : StackItem} (m : i ∈ l) : nt i.item.occ ∈ (itemsLeave nt l h).emit := by
  induction l generalizing h with
  | nil => cases m
  | cons j l ih =>
    rcases List.mem_cons.1 m with rfl | m
    · have noted : nt i.item.occ ∈ (h.note (nt i.item.occ)).emit := by simp [Hall.note]
      have after : (h.note (nt i.item.occ)).emit <+: (itemsLeave nt (i :: l) h).emit := by
        unfold itemsLeave
        refine (itemsLeave_moves ?_).emit
        split
        · exact Moves.refl _
        · exact retireCheck_moves (Moves.refl _)
      exact after.subset noted
    · exact ih m

theorem dropStack_emit {i : StackItem} (m : i ∈ h.stack[t]) (w : p i.item = true) : nt i.item.occ ∈ (dropStack t p nt h).emit := by
  have here : i ∈ (h.stack[t]).filter fun i => p i.item := List.mem_filter.2 ⟨m, w⟩
  unfold dropStack
  dsimp only
  split
  · next none => rw [List.isEmpty_iff] at none; rw [none] at here; cases here
  · exact itemsLeave_emit here

theorem dropDeferral_emit {i : DeferItem} (m : i ∈ h.deferral) (w : p i.item = true) : nt i.item.occ ∈ (dropDeferral p nt h).emit :=
  List.mem_append_right _ (List.mem_map_of_mem (f := fun i : DeferItem => nt i.item.occ) (List.mem_filter.2 ⟨m, w⟩))

end

/-! ### The deferral list in its order -/

theorem mem_insertItem {d x : DeferItem} {l : List DeferItem} : x ∈ insertItem d l ↔ x = d ∨ x ∈ l := by
  induction l with
  | nil => simp [insertItem]
  | cons y l ih =>
    unfold insertItem
    split
    · exact List.mem_cons
    · rw [List.mem_cons, ih, List.mem_cons]
      exact or_left_comm

theorem mem_insertItems {f : DeferItem → DeferItem} {l m : List DeferItem} {x : DeferItem} :
    x ∈ l.foldl (fun m i => insertItem (f i) m) m ↔ x ∈ m ∨ ∃ j ∈ l, x = f j := by
  induction l generalizing m with
  | nil => simp
  | cons y l ih =>
    rw [List.foldl_cons, ih, mem_insertItem, List.exists_mem_cons_iff, or_assoc, or_left_comm]

/-- R67: the deferral list is in its order: no item goes before one in front of it. -/
def InOrder (l : List DeferItem) : Prop := l.Pairwise fun i j => itemBefore j.item i.item = false

theorem itemBefore_iff {a b : Item} : itemBefore a b = true ↔
    a.prio > b.prio ∨ (a.prio = b.prio ∧ (a.start < b.start ∨ (a.start = b.start ∧ a.tx.val < b.tx.val))) := by
  simp only [itemBefore, Bool.or_eq_true, Bool.and_eq_true, decide_eq_true_eq]

/-- R67: by priority, then start, then transmitter. -/
theorem rank_trans {p q r s t u x y z : Nat} (v : p > q ∨ (p = q ∧ (s < t ∨ (s = t ∧ x < y))))
    (w : q > r ∨ (q = r ∧ (t < u ∨ (t = u ∧ y < z)))) : p > r ∨ (p = r ∧ (s < u ∨ (s = u ∧ x < z))) := by omega

theorem itemBefore_trans {a b d : Item} (x : itemBefore a b = true) (y : itemBefore b d = true) : itemBefore a d = true :=
  itemBefore_iff.2 (rank_trans (itemBefore_iff.1 x) (itemBefore_iff.1 y))

theorem itemBefore_irrefl (a : Item) : itemBefore a a = false := by
  rw [Bool.eq_false_iff, ne_eq, itemBefore_iff]
  simp

theorem insertItem_inOrder {d : DeferItem} {l : List DeferItem} (w : InOrder l) : InOrder (insertItem d l) := by
  induction l with
  | nil => exact List.pairwise_singleton _ _
  | cons x l ih =>
    obtain ⟨first, rest⟩ := List.pairwise_cons.1 w
    unfold insertItem
    split
    · next front =>
      refine List.pairwise_cons.2 ⟨fun y m => Bool.eq_false_iff.2 fun back => ?_, w⟩
      have cycle := itemBefore_trans back front
      rcases List.mem_cons.1 m with rfl | m
      · rw [itemBefore_irrefl] at cycle
        cases cycle
      · rw [first y m] at cycle
        cases cycle
    · next behind =>
      refine List.pairwise_cons.2 ⟨fun y m => ?_, ih rest⟩
      rcases mem_insertItem.1 m with rfl | m
      · exact Bool.eq_false_iff.2 behind
      · exact first y m

theorem insertItems_inOrder {f : DeferItem → DeferItem} {l m : List DeferItem} (w : InOrder m) :
    InOrder (l.foldl (fun m i => insertItem (f i) m) m) := by
  induction l generalizing m with
  | nil => exact w
  | cons y l ih => exact ih (insertItem_inOrder w)

/-! ### AMEND and the items -/

/-- R31: an item of the change's entry. -/
def mineOf (c : Change) (i : Item) : Bool := decide (i.occ.bank = c.bank) && decide (i.occ.id = c.id)

/-- R31: an item of the change's entry that the replacement does not cover. -/
def goneOf (e : Env) (c : Change) (en : Entry) (h : Hall) (i : Item) : Bool := mineOf c i && !covered e h i.occ en

/-- R30, R31: the replacement covers a date. -/
def covers (e : Env) (h : Hall) (c : Change) (en : Entry) (d : Day) : Bool :=
  (h.banks[c.bank]).start.any (fun x => hasOcc en x d) && admitted e en d && decide (e.min < occStop en d)

theorem covered_of_bank {x : Occ} (w : x.bank = c.bank) : covered e h x en = covers e h c en x.day := by
  obtain ⟨bank, id, day⟩ := x
  subst w
  rfl

theorem mineOf_iff {i : Item} : mineOf c i = true ↔ OfEntry c i.occ := by
  rw [mineOf, Bool.and_eq_true, decide_eq_true_eq, decide_eq_true_eq]
  rfl

theorem mineOf_eq {i : Item} : mineOf c i = decide (i.occ.bank = c.bank ∧ i.occ.id = c.id) := (Bool.decide_and ..).symm

theorem goneOf_eq {i : Item} : goneOf e c en h i = (mineOf c i && !covers e h c en i.occ.day) := by
  unfold goneOf
  cases q : mineOf c i with
  | false => rfl
  | true => rw [covered_of_bank (mineOf_iff.1 q).1]

theorem not_goneOf_eq {i : Item} : (!goneOf e c en h i) = (!mineOf c i || covers e h c en i.occ.day) := by
  rw [goneOf_eq, Bool.not_and, Bool.not_not]

/-- R31: the stack's items that the replacement does not cover leave. -/
def amendLeft (e : Env) (c : Change) (en : Entry) (t : Tx) (h : Hall) : Hall := dropStack t (goneOf e c en h) .withdrawn h

/-- R31: the items that go to the deferral list do. -/
def amendDefers (e : Env) (en : Entry) (l : List StackItem) (h : Hall) : Hall := h.each l fun i k => deferItem e (i.item.amend en) .txBusy k

theorem amendStack_stays (w : en.tx = t) : amendStack e c en t h = (amendLeft e c en t h).setStack t
    (((amendLeft e c en t h).stack[t]).map fun i => if mineOf c i.item then { i with item := i.item.amend en } else i) := if_pos w

theorem amendStack_moved (w : en.tx ≠ t) : amendStack e c en t h =
    if (((amendLeft e c en t h).stack[t]).filter fun i => mineOf c i.item).isEmpty then amendLeft e c en t h
    else amendDefers e en (((amendLeft e c en t h).stack[t]).filter fun i => mineOf c i.item)
      ((amendLeft e c en t h).setStack t (((amendLeft e c en t h).stack[t]).filter fun i => !mineOf c i.item)).wantAlloc := if_neg w

theorem amendLeft_stack : (amendLeft e c en t h).stack[t] = (h.stack[t]).filter fun i => !mineOf c i.item || covers e h c en i.item.occ.day := by
  rw [amendLeft, dropStack_stack, if_pos rfl]
  simp only [not_goneOf_eq]

theorem amendLeft_deferral : (amendLeft e c en t h).deferral = h.deferral := dropStack_deferral

theorem deferItem_stack {it : Item} {r : DeferReason} : (deferItem e it r h).stack = h.stack := by
  unfold deferItem
  split
  · rfl
  · exact (report_ends (Ends.refl (fun _ => False) h)).stack

theorem amendDefers_stack {l : List StackItem} : (amendDefers e en l h).stack = h.stack := by
  induction l generalizing h with
  | nil => rfl
  | cons i l ih => exact ih.trans deferItem_stack

theorem deferItem_mem {it : Item} {r : DeferReason} {x : DeferItem} (m : x ∈ h.deferral) : x ∈ (deferItem e it r h).deferral := by
  unfold deferItem
  split
  · exact mem_insertItem.2 (.inr m)
  · have same : (report e ⟨.scheduleSkip, .schedule, some it.occ, none, none⟩ h).deferral = h.deferral :=
      (report_ends (Ends.refl (fun _ => False) h)).deferral
    exact same ▸ m

theorem deferItem_room {it : Item} {r : DeferReason} (room : h.deferral.length < 24) :
    (deferItem e it r h).deferral = insertItem ⟨it, r⟩ h.deferral := by
  unfold deferItem
  exact congrArg Hall.deferral (if_pos room)

theorem amendDefers_keeps {l : List StackItem} {x : DeferItem} (m : x ∈ h.deferral) : x ∈ (amendDefers e en l h).deferral := by
  induction l generalizing h with
  | nil => exact m
  | cons i l ih => exact ih (deferItem_mem m)

/-- R31: with room for all of them, every item that goes to the deferral list is on it. -/
theorem amendDefers_mem {l : List StackItem} {i : StackItem} (m : i ∈ l) (room : h.deferral.length + l.length ≤ 24) :
    ⟨i.item.amend en, .txBusy⟩ ∈ (amendDefers e en l h).deferral := by
  induction l generalizing h with
  | nil => cases m
  | cons j l ih =>
    rw [List.length_cons] at room
    have first := deferItem_room (e := e) (it := j.item.amend en) (r := .txBusy) (h := h) (by omega)
    rcases List.mem_cons.1 m with rfl | m
    · exact amendDefers_keeps (l := l) (h := deferItem e (i.item.amend en) .txBusy h) (by rw [first]; exact mem_insertItem.2 (.inl rfl))
    · refine ih m ?_
      rw [first, insertItem_length]
      omega

theorem amendStack_emit {i : StackItem} (m : i ∈ h.stack[t]) (w : mineOf c i.item = true) (gone : covers e h c en i.item.occ.day = false) :
    .withdrawn i.item.occ ∈ (amendStack e c en t h).emit := by
  have left : NoticeBody.withdrawn i.item.occ ∈ (amendLeft e c en t h).emit := dropStack_emit m (by rw [goneOf_eq, w, gone]; rfl)
  have on : (amendLeft e c en t h).emit <+: (amendStack e c en t h).emit := by
    by_cases same : en.tx = t
    · rw [amendStack_stays same]
      exact List.prefix_rfl
    · rw [amendStack_moved same]
      split
      · exact List.prefix_rfl
      · exact (Moves.each (g := amendLeft e c en t h) ((Moves.refl _).setStack fun v => (List.length_filter_le ..).trans v).wantAlloc
          fun _ _ y => deferItem_moves y).emit
  exact on.subset left

theorem amendStack_kept (w : en.tx = t) : (amendStack e c en t h).deferral = h.deferral ∧ (amendStack e c en t h).stack[t] =
    ((h.stack[t]).filter fun i => !mineOf c i.item || covers e h c en i.item.occ.day).map fun i =>
      if mineOf c i.item then { i with item := i.item.amend en } else i := by
  rw [amendStack_stays w]
  refine ⟨amendLeft_deferral, ?_⟩
  rw [Hall.setStack_stack, get_upd, if_pos rfl, amendLeft_stack]

theorem filter_not_mine (l : List StackItem) : (l.filter fun i => !mineOf c i.item || covers e h c en i.item.occ.day).filter (fun i => !mineOf c i.item) =
    l.filter fun i => !mineOf c i.item := by
  rw [List.filter_filter]
  refine List.filter_congr fun i _ => ?_
  cases mineOf c i.item <;> rfl

theorem amendStack_left (w : en.tx ≠ t) : (amendStack e c en t h).stack[t] = (h.stack[t]).filter fun i => !mineOf c i.item := by
  by_cases none : (((amendLeft e c en t h).stack[t]).filter fun i => mineOf c i.item).isEmpty = true
  · have all : ∀ i ∈ (amendLeft e c en t h).stack[t], (!mineOf c i.item) = true := by
      rw [List.isEmpty_iff, List.filter_eq_nil_iff] at none
      exact fun i m => by simpa using none i m
    rw [amendLeft_stack] at all
    have eq : amendStack e c en t h = amendLeft e c en t h := (amendStack_moved w).trans (if_pos none)
    rw [eq, amendLeft_stack, ← filter_not_mine (e := e) (h := h) (en := en), List.filter_eq_self.2 all]
  · have eq := (amendStack_moved (e := e) (c := c) (h := h) w).trans (if_neg none)
    rw [eq, amendDefers_stack]
    show (Hall.setStack _ _ _).stack[t] = _
    rw [Hall.setStack_stack, get_upd, if_pos rfl, amendLeft_stack, filter_not_mine]

theorem amendStack_deferred (w : en.tx ≠ t) {i : StackItem} (m : i ∈ h.stack[t]) (mine : mineOf c i.item = true)
    (cov : covers e h c en i.item.occ.day = true) (room : h.deferral.length + (h.stack[t]).length ≤ 24) :
    ⟨i.item.amend en, .txBusy⟩ ∈ (amendStack e c en t h).deferral := by
  have here : i ∈ ((amendLeft e c en t h).stack[t]).filter fun i => mineOf c i.item := by
    rw [amendLeft_stack]
    exact List.mem_filter.2 ⟨List.mem_filter.2 ⟨m, by rw [cov, Bool.or_true]⟩, mine⟩
  have few : (((amendLeft e c en t h).stack[t]).filter fun i => mineOf c i.item).length ≤ (h.stack[t]).length := by
    refine (List.length_filter_le ..).trans ?_
    rw [amendLeft_stack]
    exact List.length_filter_le ..
  rw [amendStack_moved w, if_neg fun none => by rw [List.isEmpty_iff] at none; rw [none] at here; cases here]
  refine amendDefers_mem here ?_
  have same : (amendLeft e c en t h).deferral.length = h.deferral.length := congrArg List.length amendLeft_deferral
  exact (Nat.add_le_add same.le few).trans room

/-- R31: the deferral list after AMEND. -/
theorem amendDeferral_deferral : (amendDeferral e c en h).deferral =
    ((h.deferral.filter fun i => !goneOf e c en h i.item).filter fun i => mineOf c i.item).foldl
      (fun l i => insertItem { i with item := i.item.amend en } l)
      ((h.deferral.filter fun i => !goneOf e c en h i.item).filter fun i => !mineOf c i.item) := rfl

theorem amendDeferral_emit {i : DeferItem} (m : i ∈ h.deferral) (mine : mineOf c i.item = true)
    (gone : covers e h c en i.item.occ.day = false) : .withdrawn i.item.occ ∈ (amendDeferral e c en h).emit :=
  dropDeferral_emit (p := goneOf e c en h) m (by rw [goneOf_eq, mine, gone]; rfl)

theorem mem_amendDeferral {x : DeferItem} : x ∈ (amendDeferral e c en h).deferral ↔ (x ∈ h.deferral ∧ mineOf c x.item = false) ∨
    ∃ j ∈ h.deferral, mineOf c j.item = true ∧ covers e h c en j.item.occ.day = true ∧ x = { j with item := j.item.amend en } := by
  rw [amendDeferral_deferral, mem_insertItems (f := fun i => { i with item := i.item.amend en })]
  simp only [List.mem_filter, not_goneOf_eq, Bool.or_eq_true, Bool.not_eq_true']
  refine or_congr ⟨fun w => ⟨w.1.1, w.2⟩, fun w => ⟨⟨w.1, .inl w.2⟩, w.2⟩⟩ (exists_congr fun j => ?_)
  constructor
  · rintro ⟨⟨⟨m, w⟩, mine⟩, q⟩
    exact ⟨m, mine, w.resolve_left (by rw [mine]; decide), q⟩
  · rintro ⟨m, mine, cov, q⟩
    exact ⟨⟨⟨m, .inr cov⟩, mine⟩, q⟩

theorem amendDeferral_inOrder (w : InOrder h.deferral) : InOrder (amendDeferral e c en h).deferral := by
  rw [amendDeferral_deferral]
  exact insertItems_inOrder (f := fun i => { i with item := i.item.amend en }) ((w.filter _).filter _)

end
end Sys2Proof.Machine
namespace Sys2Proof.Machine

set_option Elab.async false
section
variable {g h : Hall} {e : Env} {t : Tx} {o : Out} {n : BankNo} {c : Change} {en : Entry} {rest : List Change}

/-! ### AMEND and a running occurrence -/

/-- R30: the assignment with the replacement's priority, instants and parameters. -/
def Asg.amend (a : Asg) (x : Sched) (en : Entry) : Asg :=
  { a with
    base := entryParams en
    sched := some { x with prio := en.prio, start := occStart en x.occ.day, stop := occStop en x.occ.day } }

/-- R30 case 3: the output is claimed or reserved by another, or FAULTED. -/
def Away (h : Hall) (t : Tx) (o : Out) : Prop :=
  (∃ u, u ≠ t ∧ h.path.owner[o] = some u) ∨ reservedByOther h o t = true ∨ blocked h (.out o) = true

theorem outUsable_iff_not_away : outUsable h t o = true ↔ ¬ Away h t o := by
  rw [outUsable_iff, Away, not_or, not_or, not_exists, Bool.not_eq_true, Bool.not_eq_true]
  exact and_congr_left fun _ => forall_congr' fun u => by rw [not_and']; exact imp_congr_right fun _ => not_not.symm

theorem outState_faulted_iff : outState h o = .faulted ↔ blocked h (.out o) = true := by
  unfold outState
  cases blocked h (.out o) with
  | true => simp
  | false =>
    rw [if_neg Bool.false_ne_true]
    refine iff_of_false ?_ Bool.false_ne_true
    split
    · decide
    · split <;> decide

theorem takeOff_eq : takeOff e t o h =
    endAsg e t .preempted (.defer (if blocked h (.out o) = true then .outputBlocked else .outputBusy)) h := by
  unfold takeOff
  simp only [outState_faulted_iff]

theorem mapAsg_setAsg {a : Asg} {f : Asg → Asg} : (h.setAsg t (some a)).mapAsg t f = h.setAsg t (some (f a)) := by
  unfold Hall.mapAsg Hall.setAsg
  simp [upd]

section
variable {a : Asg} {x : Sched}

/-- The path, the holds and the faults do not turn on an assignment's record. -/
theorem setAsg_away {b : Option Asg} : (outUsable (h.setAsg t b) t o = outUsable h t o) ∧
    blocked (h.setAsg t b) (.out o) = blocked h (.out o) := ⟨rfl, rfl⟩

theorem amendAsg_idle (w : h.asg[t] = none ∨ ∃ a, h.asg[t] = some a ∧ a.sched = none) : amendAsg e c en t h = h := by
  unfold amendAsg
  rcases w with ha | ⟨a, ha, hs⟩
  · rw [ha]
  · rw [ha]
    dsimp only
    rw [hs]

theorem amendAsg_other (ha : h.asg[t] = some a) (hs : a.sched = some x) (w : ¬ OfEntry c x.occ) : amendAsg e c en t h = h := by
  unfold amendAsg
  rw [ha]
  dsimp only
  rw [hs]
  exact if_pos (by simpa [OfEntry, imp_iff_not_or] using w)

theorem amendAsg_mine (ha : h.asg[t] = some a) (hs : a.sched = some x) (w : OfEntry c x.occ) : amendAsg e c en t h =
    if !covered e h x.occ en || decide (en.tx ≠ t) then endAsg e t .withdrawn .nothing h
    else amendRest e t (a.amend x en) (h.setAsg t (some (a.amend x en))) := by
  unfold amendAsg
  rw [ha]
  dsimp only
  rw [hs]
  obtain ⟨bank, id⟩ := w
  exact if_neg (by simp [bank, id])

theorem amendAsg_uncovered (ha : h.asg[t] = some a) (hs : a.sched = some x) (w : OfEntry c x.occ)
    (gone : ¬ (covers e h c en x.occ.day = true ∧ en.tx = t)) : amendAsg e c en t h = endAsg e t .withdrawn .nothing h := by
  rw [amendAsg_mine ha hs w]
  refine if_pos ?_
  rw [covered_of_bank w.1, Bool.or_eq_true, Bool.not_eq_true', decide_eq_true_eq]
  rcases not_and_or.1 gone with q | q
  · exact .inl (Bool.eq_false_iff.2 q)
  · exact .inr q

/-- R57: the effective parameters that the replacement gives the assignment. -/
theorem currentEff_amend {b : Option Asg} : currentEff e.k (h.setAsg t b) t (a.amend x en) =
    effective e.k h.holds[t] (entryParams en) a.fold := rfl

theorem amendAsg_covered (ha : h.asg[t] = some a) (hs : a.sched = some x) (w : OfEntry c x.occ)
    (cov : covers e h c en x.occ.day = true) (same : en.tx = t) :
    amendAsg e c en t h = amendRest e t (a.amend x en) (h.setAsg t (some (a.amend x en))) := by
  rw [amendAsg_mine ha hs w]
  refine if_neg ?_
  rw [covered_of_bank w.1, cov, same]
  simp

theorem amendAsg_recomputed (ha : h.asg[t] = some a) (hs : a.sched = some x) (w : OfEntry c x.occ)
    (cov : covers e h c en x.occ.day = true) (same : en.tx = t)
    (stay : a.phase.isEnding = true ∨ ¬ Away h t (effective e.k h.holds[t] (entryParams en) a.fold).out) :
    amendAsg e c en t h = recompute e t false false (h.setAsg t (some (a.amend x en))) := by
  rw [amendAsg_covered ha hs w cov same]
  refine if_pos ?_
  rw [currentEff_amend, setAsg_away.1, Bool.or_eq_true, outUsable_iff_not_away]
  exact stay

theorem amendAsg_takenOff (ha : h.asg[t] = some a) (hs : a.sched = some x) (w : OfEntry c x.occ)
    (cov : covers e h c en x.occ.day = true) (same : en.tx = t) (run : a.phase.isEnding = false)
    (away : Away h t (effective e.k h.holds[t] (entryParams en) a.fold).out) :
    amendAsg e c en t h = endAsg e t .preempted
      (.defer (if blocked h (.out (effective e.k h.holds[t] (entryParams en) a.fold).out) = true then .outputBlocked else .outputBusy))
      (h.setAsg t (some { a.amend x en with eff := effective e.k h.holds[t] (entryParams en) a.fold })) := by
  rw [amendAsg_covered ha hs w cov same]
  have off : ¬ ((a.amend x en).phase.isEnding ||
      outUsable (h.setAsg t (some (a.amend x en))) t (currentEff e.k (h.setAsg t (some (a.amend x en))) t (a.amend x en)).out) = true := by
    rw [currentEff_amend, setAsg_away.1, Bool.or_eq_true, outUsable_iff_not_away]
    rintro (q | q)
    · rw [show (a.amend x en).phase = a.phase from rfl, run] at q
      cases q
    · exact q away
  refine (if_neg off).trans ?_
  rw [currentEff_amend, mapAsg_setAsg, takeOff_eq, setAsg_away.2]

end

/-! ### An application -/

theorem applyChange_add (kind : c.kind = .add) (entry : c.entry = some en) :
    applyChange e c h = h.setBank c.bank fun b => b.put en := by
  unfold applyChange
  rw [kind, entry]

theorem applyChange_amend (kind : c.kind = .amend) (entry : c.entry = some en) : applyChange e c h =
    amendDeferral e c en (((h.setBank c.bank fun b => b.put en).each allTx (amendAsg e c en)).each allTx (amendStack e c en)) := by
  unfold applyChange
  rw [kind, entry]

/-- R29: the items of every stack and of the deferral list leave, once the assignments have ended. -/
def dropMine (c : Change) (h : Hall) : Hall :=
  dropDeferral (mineOf c) .withdrawn (h.each allTx fun t => dropStack t (mineOf c) .withdrawn)

theorem applyChange_withdraw (kind : c.kind = .withdraw) : applyChange e c h =
    dropMine c (endAll e (carriers h c) .withdrawn (h.setBank c.bank fun b => b.remove c.id)) := by
  unfold applyChange
  rw [kind]
  rfl

theorem applyChange_blank (entry : c.entry = none) (kind : c.kind ≠ .withdraw) : applyChange e c h = h := by
  unfold applyChange
  rw [entry]
  cases q : c.kind with
  | withdraw => exact absurd q kind
  | add => rfl
  | amend => rfl

theorem dropMine_stack : (dropMine c h).stack[t] = (h.stack[t]).filter fun i => !mineOf c i.item := by
  rw [dropMine, dropDeferral_same.2.1, dropStacks_stack]

theorem dropMine_deferral : (dropMine c h).deferral = h.deferral.filter fun i => !mineOf c i.item := by
  rw [dropMine, dropDeferral_same.2.2, dropStacks_deferral]

theorem dropMine_asg : (dropMine c h).asg = h.asg := by
  rw [dropMine, dropDeferral_same.1, dropStacks_asg]

theorem dropMine_spends : Spends h (dropMine c h) := by
  have dropped : Spends h (h.each allTx fun t => dropStack t (mineOf c) .withdrawn) := Spends.each (.refl h) fun _ _ => .dropStack
  unfold dropMine
  generalize h.each allTx (fun t => dropStack t (mineOf c) .withdrawn) = k at dropped
  exact dropped.same

theorem carriers_nodup : (carriers h c).Nodup := nodup_allTx.filter _

section
variable (kind : c.kind = .withdraw)
include kind

theorem withdraw_stack : (applyChange e c h).stack[t] = (h.stack[t]).filter fun i => !mineOf c i.item := by
  rw [applyChange_withdraw kind, dropMine_stack, endAll_ends.stack]
  rfl

theorem withdraw_deferral : (applyChange e c h).deferral = h.deferral.filter fun i => !mineOf c i.item := by
  rw [applyChange_withdraw kind, dropMine_deferral, endAll_ends.deferral]
  rfl

theorem withdraw_asg {a : Asg} {x : Sched} (ha : h.asg[t] = some a) (hs : a.sched = some x) (w : OfEntry c x.occ)
    (run : a.phase.isEnding = false) : EndedTo .withdrawn a (applyChange e c h).asg[t] := by
  have m : t ∈ carriers h c := mem_carriers.2 ⟨a, x, ha, hs, w⟩
  rw [applyChange_withdraw kind, dropMine_asg]
  exact endAll_ended (h := h.setBank c.bank fun b => b.remove c.id) carriers_nodup m ha run

theorem withdraw_spends : Spends (h.setBank c.bank fun b => b.remove c.id) (applyChange e c h) := by
  rw [applyChange_withdraw kind]
  exact (Spends.ends (.refl _) endAll_ends).trans dropMine_spends

end

theorem amend_spends (kind : c.kind = .amend) (entry : c.entry = some en) :
    Spends (h.setBank c.bank fun b => b.put en) (applyChange e c h) := by
  rw [applyChange_amend kind entry]
  exact (Spends.eachOf (Spends.eachOf (.refl _) fun y => y.amendAsg) fun y => y.amendStack).amendDeferral

theorem setBank_bank_same {f : Bank → Bank} : (h.setBank n f).banks[n] = f h.banks[n] := by
  rw [Hall.setBank_banks, get_upd, if_pos rfl]

theorem setBank_bank_other {f : Bank → Bank} {m : BankNo} (ne : m ≠ n) : (h.setBank n f).banks[m] = h.banks[m] := by
  rw [Hall.setBank_banks, get_upd, if_neg ne.symm]

/-- R28: an application writes to one bank; others at most retire. -/
theorem applyChange_spends : ∃ f, Spends (h.setBank c.bank f) (applyChange e c h) := by
  have blank : Spends (h.setBank c.bank id) h := fun m => by
    by_cases eq : m = c.bank
    · subst eq
      rw [setBank_bank_same]
      exact .inl rfl
    · rw [setBank_bank_other eq]
      exact .inl rfl
  cases kind : c.kind with
  | withdraw => exact ⟨_, withdraw_spends kind⟩
  | add =>
    cases entry : c.entry with
    | none => exact ⟨id, by rw [applyChange_blank entry (by rw [kind]; decide)]; exact blank⟩
    | some en => exact ⟨_, by rw [applyChange_add kind entry]; exact .refl _⟩
  | amend =>
    cases entry : c.entry with
    | none => exact ⟨id, by rw [applyChange_blank entry (by rw [kind]; decide)]; exact blank⟩
    | some en => exact ⟨_, amend_spends kind entry⟩

theorem applyChange_other {m : BankNo} (ne : m ≠ c.bank) : ((applyChange e c h).banks[m]).recs = (h.banks[m]).recs := by
  obtain ⟨f, w⟩ := applyChange_spends (e := e) (c := c) (h := h)
  rw [w.recs, setBank_bank_other ne]

theorem setBank_const_hall (f : Bank → Bank) : h.setBank n f = h.setBank n fun _ => f h.banks[n] := rfl

end
end Sys2Proof.Machine
namespace Sys2Proof.Machine

set_option Elab.async false
section
variable {g h : Hall} {e : Env} {t : Tx} {o : Out} {n : BankNo} {c : Change} {en : Entry} {rest : List Change}

/-- R24: a change that passes all its tests. -/
theorem validate_passes (w : (c.kind = .withdraw ∧ HeldEntry h c) ∨
    ∃ en, Tested h c en ∧ entryFault e.k h en = none ∧ ∀ r ∈ (h.banks[c.bank]).recs, ¬ Clashes h c en r) : validate e.k h c = none := by
  rcases w with ⟨kind, held⟩ | ⟨en, tested, fault, free⟩
  · exact validate_withdraw kind held
  · exact (validate_tested tested).trans (changeFault_none fault free)

theorem examine_rejects {r : RejectReason} (w : h.changes = c :: rest) (k : Taken h c) (v : validate e.k h c = some r) :
    examine e c h = { h with changes := rest, emit := h.emit ++ [.changeRejected c.tag c.bank c.kind c.id r] } :=
  (examine_fault k v).trans (rejectHead_eq w)

theorem changeStep_undisturbed (w : h.changes = c :: rest) (m : h.mode ≠ .adopting) (d : c.draining = true) (r : c.recheck = false)
    (flying : ∀ w ∈ c.awaited, ∃ t ∈ c.frozen, Flies h t w) (carried : ∀ t ∈ c.frozen, Carries h c t) : changeStep e h = none := by
  refine changeStep_waits w m d (Bool.eq_false_iff.2 fun v => ?_)
  rcases mustRecheck_iff.1 v with v | ⟨w, m, gone⟩ | ⟨t, m, gone⟩
  · rw [r] at v
    cases v
  · obtain ⟨t, m, fly⟩ := flying w m
    exact gone t m fly
  · exact gone (carried t m)

theorem add_bank (kind : c.kind = .add) (entry : c.entry = some en) (free : ∀ r ∈ (h.banks[c.bank]).recs, r.entry.id ≠ en.id) :
    ∃ b' : Bank, applyChange e c h = h.setBank c.bank (fun _ => b') ∧ b'.find en.id = some ⟨en, none⟩ ∧
      (∀ id, id ≠ en.id → b'.find id = (h.banks[c.bank]).find id) ∧
      (∃ before after, (h.banks[c.bank]).recs = before ++ after ∧ b'.recs = before ++ ⟨en, none⟩ :: after ∧
        (∀ x ∈ before, x.entry.id < en.id) ∧
        (((h.banks[c.bank]).recs.map fun r => r.entry.id).Pairwise (· < ·) → ∀ x ∈ after, en.id < x.entry.id)) ∧
      b'.recs.length = (h.banks[c.bank]).recs.length + 1 ∧ b'.st = (h.banks[c.bank]).st ∧ b'.label = (h.banks[c.bank]).label ∧
      b'.start = (h.banks[c.bank]).start := by
  have none := find_none.2 free
  exact ⟨(h.banks[c.bank]).put en, (applyChange_add kind entry).trans (setBank_const_hall _), put_new_find none,
    fun _ ne => put_new_find_other none ne, put_new_recs none, put_new_length none, put_other _ _⟩

theorem withdraw_recs (kind : c.kind = .withdraw) : ((applyChange e c h).banks[c.bank]).recs =
    (h.banks[c.bank]).recs.filter fun r => decide (r.entry.id ≠ c.id) := by
  rw [(withdraw_spends kind).recs, setBank_bank_same]
  rfl

theorem amend_recs (kind : c.kind = .amend) (entry : c.entry = some en) (held : ∃ r ∈ (h.banks[c.bank]).recs, r.entry.id = en.id) :
    ((applyChange e c h).banks[c.bank]).recs =
      (h.banks[c.bank]).recs.map fun r => if r.entry.id = en.id then { r with entry := en } else r := by
  have found : (h.banks[c.bank]).find en.id ≠ none := fun none => by
    obtain ⟨r, m, eq⟩ := held
    exact find_none.1 none r m eq
  obtain ⟨old, q⟩ := Option.ne_none_iff_exists'.1 found
  rw [(amend_spends kind entry).recs, setBank_bank_same, put_of_some q]

theorem not_mineOf {i : Item} : (!mineOf c i) = decide ¬ (i.occ.bank = c.bank ∧ i.occ.id = c.id) := by
  rw [mineOf_eq, decide_not]

end
end Sys2Proof.Machine

namespace Sys2Proof.Proofs

set_option Elab.async false
section
open Machine

/-- Settles O18, by the tests of R22 to R26 in their order, and each kind's application by the walks it consists of. -/
theorem changeList : Obligations.ChangeList := by
  refine ⟨fun tag s w => answers_request w rfl rfl, fun e h c rest w => ?_⟩
  refine ⟨changeStep_adopting w, fun k none q => changeStep_first none q, fun m d => changeStep_examine w m (.inl d),
    fun m d => ⟨fun v => changeStep_examine w m (.inr (mustRecheck_iff.2 v)), fun r f v => changeStep_undisturbed w m d r f v⟩,
    fun un => (examine_untaken un).trans (rejectHead_eq w), fun k free v => examine_rejects w k (validate_notFound free v),
    fun k held kind entry => examine_rejects w k (validate_held held kind entry),
    fun k free kind entry full => examine_rejects w k (validate_full free kind entry full),
    fun en st a k tested fault => examine_rejects w k
      ((validate_tested tested).trans (changeFault_entry (entryFault_eq.trans fault))),
    fun en r before after k tested fault split free clashes => examine_rejects w k
      ((validate_tested tested).trans (changeFault_clash (entryFault_eq.trans fault) split free clashes)),
    fun k v q => examine_engaged w k (validate_passes ?_) q, fun k v q => examine_done k (validate_passes ?_) q,
    fun en kind entry free => add_bank kind entry free, fun kind => ⟨fun t => ?_, ?_, fun t a x ha hs mine run => ?_⟩,
    withdraw_recs, fun m ne => applyChange_other ne, fun en => ?_⟩
  · exact v.imp_right fun ⟨en, tested, fault, free⟩ => ⟨en, tested, entryFault_eq.trans fault, free⟩
  · exact v.imp_right fun ⟨en, tested, fault, free⟩ => ⟨en, tested, entryFault_eq.trans fault, free⟩
  · simp only [← not_mineOf]
    exact withdraw_stack kind
  · simp only [← not_mineOf]
    exact withdraw_deferral kind
  · refine (withdraw_asg kind ha hs mine run).cases.imp_right fun ⟨b, hb, core⟩ => ⟨b, hb, ?_⟩
    exact congrArg Prod.fst core
  · intro covers mine amended
    have same : mine = mineOf c := funext fun i => mineOf_eq.symm
    clear_value mine
    subst same
    refine ⟨fun kind entry => ⟨applyChange_amend kind entry, amend_recs kind entry⟩, fun t a x ha hs => ⟨amendAsg_other ha hs,
      amendAsg_uncovered ha hs, fun of_ cov tx => ⟨amendAsg_recomputed ha hs of_ cov tx, amendAsg_takenOff ha hs of_ cov tx⟩⟩,
      fun t idle => amendAsg_idle idle, fun t => ⟨fun i m => amendStack_emit m, amendStack_kept,
        fun tx => ⟨amendStack_left tx, fun i m => amendStack_deferred tx m⟩⟩,
      fun i m => amendDeferral_emit m, fun i => mem_amendDeferral, amendDeferral_inOrder⟩

end
end Sys2Proof.Proofs
namespace Sys2Proof.Machine

set_option Elab.async false
section
variable {g h : Hall} {e : Env} {t : Tx} {o : Out} {f kw : Nat} {m : Mode}

/-! ### What is found on a transmitter -/

/-- R207: the cabinet has replied since the reset, is not lost, and its condition is known. -/
def Replied (h : Hall) (t : Tx) : Prop := (h.adopt[t]).firstReply ≠ none ∧ (h.tx[t]).st ≠ .unreachable ∧ (h.tx[t]).cond ≠ none

/-- R208: the cabinet has replied with a carrier of its own. -/
def Carried (h : Hall) (t : Tx) (f : Nat) (m : Mode) (kw : Nat) : Prop :=
  Replied h t ∧ ∃ c, (h.tx[t]).cond = some c ∧ c.cond = .on f m kw ∧ c.loc = false

/-- R208: a carrier, by the cabinet's reply, or by RFP where it has none. -/
def Carrier (e : Env) (h : Hall) (t : Tx) : Prop := (∃ f m kw, Carried h t f m kw) ∨ (¬ Replied h t ∧ rfpActive e h t = true)

theorem reachable_iff : reachable h t = true ↔ (h.adopt[t]).firstReply ≠ none ∧ (h.tx[t]).st ≠ .unreachable := by
  unfold reachable
  rw [Bool.and_eq_true, decide_eq_true_eq, Option.isSome_iff_ne_none]

theorem foundCond_replied (w : Replied h t) : foundCond h t = (h.tx[t]).cond := by
  obtain ⟨reply, st, _⟩ := w
  exact if_pos (reachable_iff.2 ⟨reply, st⟩)

theorem foundCond_eq_none : foundCond h t = none ↔ ¬ Replied h t := by
  constructor
  · intro none w
    rw [foundCond_replied w] at none
    obtain ⟨_, _, cond⟩ := w
    exact cond none
  · intro w
    unfold foundCond
    split
    · next r =>
      obtain ⟨reply, st⟩ := reachable_iff.1 r
      by_contra cond
      exact w ⟨reply, st, cond⟩
    · rfl

theorem foundCond_isSome : (foundCond h t).isSome = true ↔ Replied h t := by
  rw [Option.isSome_iff_ne_none, ne_eq, foundCond_eq_none, not_not]

/-- R208: a reply that shows a carrier. -/
theorem onAir_iff {c : CabReply} : (∃ f m kw, c.cond = .on f m kw ∧ c.loc = false) ↔
    c.loc = false ∧ ∃ f m kw, c.cond = .on f m kw :=
  ⟨fun ⟨f, m, kw, on, loc⟩ => ⟨loc, f, m, kw, on⟩, fun ⟨loc, f, m, kw, on⟩ => ⟨f, m, kw, on, loc⟩⟩

theorem carrierFound_replied (w : Replied h t) : carrierFound e h t = true ↔ ∃ f m kw, Carried h t f m kw := by
  obtain ⟨c, hc⟩ := Option.ne_none_iff_exists'.1 w.2.2
  have carried : (∃ f m kw, Carried h t f m kw) ↔ ∃ f m kw, c.cond = .on f m kw ∧ c.loc = false :=
    exists_congr fun f => exists_congr fun m => exists_congr fun kw =>
      ⟨fun ⟨_, c', hc', q⟩ => by rw [hc] at hc'; cases hc'; exact q, fun q => ⟨w, c, hc, q⟩⟩
  rw [carried, carrierFound, foundCond_replied w, hc]
  obtain ⟨cond, loc, answer, lastNo⟩ := c
  cases cond <;> cases loc <;> simp

theorem carrierFound_iff : carrierFound e h t = true ↔ Carrier e h t := by
  unfold Carrier
  by_cases w : Replied h t
  · rw [carrierFound_replied w, or_iff_left fun v => v.1 w]
  · rw [carrierFound, foundCond_eq_none.2 w]
    exact ⟨fun q => .inr ⟨w, q⟩, fun q => (q.resolve_left fun ⟨_, _, _, v, _⟩ => w v).2⟩

/-- R207 condition 5: the cabinet raises or lowers. -/
def InMotion (h : Hall) (t : Tx) : Prop :=
  ∃ c f m kw, (h.tx[t]).cond = some c ∧ (c.cond = .raising f m kw ∨ c.cond = .lowering f m kw)

theorem moving_iff : moving h t = true ↔ InMotion h t := by
  unfold moving InMotion
  rw [Option.any_eq_true]
  refine exists_congr fun c => ?_
  cases c.cond <;> simp

/-- R207: the time a cabinet's raising or lowering may take has passed since its first reply. -/
def LapsePassed (e : Env) (h : Hall) (t : Tx) : Prop := ∃ x c, (h.adopt[t]).firstReply = some x ∧ (h.tx[t]).cond = some c ∧
  ((∃ f m kw, c.cond = .raising f m kw ∧ x + (e.k.txs[t]).raise * 1000 ≤ e.now) ∨
    ∃ f m kw, c.cond = .lowering f m kw ∧ x + (e.k.txs[t]).lower * 1000 ≤ e.now)

theorem lapseDue_iff : lapseDue e h t = true ↔ LapsePassed e h t := by
  unfold lapseDue LapsePassed lapseTime
  rw [Option.any_eq_true]
  refine exists_congr fun x => ?_
  cases (h.tx[t]).cond with
  | none => simp
  | some c => cases hc : c.cond <;> simp [hc]

theorem allRead_iff : allRead h = true ↔ ∀ o : Out, (h.path.cols[o]).read = true := by
  unfold allRead
  rw [List.all_eq_true]
  exact ⟨fun w o => w o (mem_allOut o), fun w o _ => w o⟩

theorem unjudged_iff : unjudged h t = true ↔ h.mode = .adopting ∧ (h.adopt[t]).judged = false := by
  unfold unjudged
  rw [Bool.and_eq_true, decide_eq_true_eq, Bool.not_eq_true']

/-- R207: a row above the carrier's applies. -/
def Preceded (h : Hall) (t : Tx) : Prop := ∃ c, (h.tx[t]).cond = some c ∧ (c.loc = true ∨ ∃ x, c.cond = .tripped x)

theorem condTripped_iff {c : Cond} : condTripped c = true ↔ ∃ x, c = .tripped x := by
  cases c <;> simp [condTripped]

theorem preceded_iff : ((h.tx[t]).cond.any fun c => c.loc || condTripped c.cond) = true ↔ Preceded h t := by
  simp only [Option.any_eq_true, Bool.or_eq_true, condTripped_iff]
  rfl

theorem not_findsCarrier_iff : findsCarrier e h t = false ↔ (h.tx[t]).st = .lockout ∨ Preceded h t ∨ ¬ Carrier e h t := by
  rw [← preceded_iff, ← carrierFound_iff]
  unfold findsCarrier
  simp only [Bool.and_eq_false_iff, decide_eq_false_iff_not, ne_eq, not_not, Bool.not_eq_false', Bool.not_eq_true, or_assoc]

/-- R207: the conditions of judgement. -/
theorem readyToJudge_iff : readyToJudge e h t = true ↔ h.mode = .adopting ∧ (h.adopt[t]).judged = false ∧
    (∀ o : Out, (h.path.cols[o]).read = true) ∧ ((h.adopt[t]).firstReply ≠ none ∨ (h.adopt[t]).lost = true) ∧
    (h.line (.rfp t)).qual ≠ none ∧ ((h.tx[t]).st = .lockout ∨ Preceded h t ∨ ¬ Carrier e h t ∨ e.isSet = true) ∧
    (¬ InMotion h t ∨ (h.adopt[t]).lapsed = true ∨ LapsePassed e h t ∨ (h.adopt[t]).firstReply = none) := by
  have still : moving h t = false ↔ ¬ InMotion h t := by rw [← moving_iff, Bool.not_eq_true]
  unfold readyToJudge rfpQualified
  rw [Bool.and_eq_true, Bool.and_eq_true, Bool.and_eq_true, Bool.and_eq_true, Bool.and_eq_true, unjudged_iff, allRead_iff,
    Bool.or_eq_true, Option.isSome_iff_ne_none, Option.isSome_iff_ne_none, Bool.or_eq_true, Bool.not_eq_true', not_findsCarrier_iff,
    Bool.or_eq_true, Bool.or_eq_true, Bool.or_eq_true, Bool.not_eq_true', still, lapseDue_iff,
    Option.isNone_iff_eq_none]
  simp only [and_assoc, or_assoc]

/-! ### The next judgement -/

theorem adoptStep_idle (w : h.mode ≠ .adopting) : adoptStep e h = none := if_pos w

theorem adoptStep_judges (w : readyToJudge e h t = true) (least : ∀ u, u < t → readyToJudge e h u = false) :
    adoptStep e h = some (judge e t h) := by
  have mode : ¬ h.mode ≠ .adopting := not_not.2 (readyToJudge_iff.1 w).1
  have first : allTx.find? (readyToJudge e h) = some t := find_least w least
  rw [adoptStep, if_neg mode, first]

theorem adoptStep_ends (w : h.mode = .adopting) (none : ∀ u, readyToJudge e h u = false) : adoptStep e h =
    if (∀ o : Out, (h.path.cols[o]).read = true) ∧ ∀ u : Tx, (h.adopt[u]).judged = true then some (endAdoption e h) else Option.none := by
  have nobody : allTx.find? (readyToJudge e h) = Option.none :=
    List.find?_eq_none.2 fun u _ => by rw [none u]; exact Bool.false_ne_true
  have judged : (allTx.all fun t => (h.adopt[t]).judged) = true ↔ ∀ u : Tx, (h.adopt[u]).judged = true := by
    rw [List.all_eq_true]
    exact ⟨fun w u => w u (mem_allTx u), fun w u _ => w u⟩
  rw [adoptStep, if_neg (not_not.2 w), nobody]
  simp only [Bool.and_eq_true, allRead_iff, judged]

/-! ### The judgement -/

/-- R207: T is judged. -/
def markJudged (t : Tx) (h : Hall) : Hall := h.setAdopt t fun a => { a with judged := true }

theorem markJudged_same : (markJudged t h).tx = h.tx ∧ (markJudged t h).path = h.path ∧ (markJudged t h).sense = h.sense :=
  ⟨rfl, rfl, rfl⟩

theorem markJudged_reply : ((markJudged t h).adopt[t]).firstReply = (h.adopt[t]).firstReply := by
  simp [markJudged, Hall.setAdopt]

theorem foundCond_markJudged : foundCond (markJudged t h) t = foundCond h t := by
  unfold foundCond reachable
  rw [markJudged_reply]
  rfl

theorem carrierFound_markJudged : carrierFound e (markJudged t h) t = carrierFound e h t := by
  unfold carrierFound
  rw [foundCond_markJudged]
  rfl

/-- R207: T enters LOCKOUT in its judgement. -/
def lockOut (e : Env) (t : Tx) (h : Hall) : Hall :=
  (report e ⟨.lockout, .tx t, none, none, some .adopted⟩ (setTxState t .lockout .contact h)).setTx t
    fun r => { r with pend := none, rcv := Recovery.idle }

theorem judge_eq : judge e t h =
    if (h.tx[t]).st = .lockout then
      if (h.tx[t]).condRad && !(h.tx[t]).lowerInHand then rfUnexpected e t (markJudged t h) else markJudged t h
    else if (h.tx[t]).cond.any CabReply.loc then
      if (h.tx[t]).st = .isLocal then markJudged t h else ordersOver t (setTxState t .isLocal .contact (markJudged t h))
    else if (h.tx[t]).cond.any fun x => condTripped x.cond then
      if rfpActive e (lockOut e t (markJudged t h)) t then handLower e t false (lockOut e t (markJudged t h))
      else lockOut e t (markJudged t h)
    else if carrierFound e h t then judgeCarrier e t (markJudged t h)
    else if moving h t then rfUnexpected e t (markJudged t h)
    else if (foundCond h t).isSome && rfpActive e h t then
      handLower e t false (reportTx e .rfUnexpected t (some .sense) (markJudged t h))
    else markJudged t h := by
  rw [← carrierFound_markJudged, ← foundCond_markJudged]
  rfl

theorem judge_lockout (w : (h.tx[t]).st = .lockout) : judge e t h =
    if (h.tx[t]).condRad = true ∧ (h.tx[t]).lowerInHand = false then rfUnexpected e t (markJudged t h) else markJudged t h := by
  rw [judge_eq, if_pos w]
  simp only [Bool.and_eq_true, Bool.not_eq_true']

/-- R138: the state that T's condition shows. -/
def Shows (h : Hall) (t : Tx) (x : TxState) : Prop := ∃ c, (h.tx[t]).cond = some c ∧ derive c = x

theorem shows_local : Shows h t .isLocal ↔ (h.tx[t]).cond.any CabReply.loc = true := by
  rw [Option.any_eq_true]
  refine exists_congr fun c => and_congr_right fun _ => ?_
  unfold derive
  cases c.loc with
  | true => simp
  | false => cases c.cond <;> simp [condState]

theorem shows_tripped : Shows h t .tripped →
    (h.tx[t]).cond.any CabReply.loc = false ∧ ((h.tx[t]).cond.any fun x => condTripped x.cond) = true := by
  rintro ⟨c, hc, q⟩
  rw [hc]
  unfold derive at q
  cases loc : c.loc with
  | true => rw [loc] at q; cases q
  | false =>
    rw [loc] at q
    revert q
    cases cond : c.cond <;> simp [condState, condTripped, loc, cond]

theorem tripped_shows (loc : (h.tx[t]).cond.any CabReply.loc = false) (w : ((h.tx[t]).cond.any fun x => condTripped x.cond) = true) :
    Shows h t .tripped := by
  obtain ⟨c, hc, trip⟩ := (Option.any_eq_true _ _).1 w
  rw [hc] at loc
  have off : c.loc = false := loc
  obtain ⟨x, hx⟩ := condTripped_iff.1 trip
  exact ⟨c, hc, by rw [derive, off, hx]; rfl⟩

theorem judge_local (lk : (h.tx[t]).st ≠ .lockout) (w : Shows h t .isLocal) : judge e t h =
    if (h.tx[t]).st = .isLocal then markJudged t h else ordersOver t (setTxState t .isLocal .contact (markJudged t h)) := by
  rw [judge_eq, if_neg lk]
  exact if_pos (shows_local.1 w)

theorem judge_tripped (lk : (h.tx[t]).st ≠ .lockout) (w : Shows h t .tripped) : judge e t h =
    if rfpActive e (lockOut e t (markJudged t h)) t = true then handLower e t false (lockOut e t (markJudged t h))
    else lockOut e t (markJudged t h) := by
  obtain ⟨loc, trip⟩ := shows_tripped w
  rw [judge_eq, if_neg lk, if_neg (by rw [loc]; exact Bool.false_ne_true)]
  exact if_pos trip

section
variable (lk : (h.tx[t]).st ≠ .lockout) (nl : ¬ Shows h t .isLocal) (nt : ¬ Shows h t .tripped)
include lk nl nt

/-- R207: the rows below LOCAL and TRIPPED. -/
theorem judge_rest : judge e t h =
    if carrierFound e h t then judgeCarrier e t (markJudged t h)
    else if moving h t then rfUnexpected e t (markJudged t h)
    else if (foundCond h t).isSome && rfpActive e h t then
      handLower e t false (reportTx e .rfUnexpected t (some .sense) (markJudged t h))
    else markJudged t h := by
  have loc : (h.tx[t]).cond.any CabReply.loc = false := Bool.eq_false_iff.2 (mt shows_local.2 nl)
  rw [judge_eq, if_neg lk, if_neg (by rw [loc]; exact Bool.false_ne_true)]
  exact if_neg fun trip => nt (tripped_shows loc trip)

theorem judge_carrier (w : Carrier e h t) : judge e t h = judgeCarrier e t (markJudged t h) := by
  rw [judge_rest lk nl nt]
  exact if_pos (carrierFound_iff.2 w)

theorem judge_moving (w : ¬ Carrier e h t) (v : InMotion h t) : judge e t h = rfUnexpected e t (markJudged t h) := by
  rw [judge_rest lk nl nt, if_neg (mt carrierFound_iff.1 w)]
  exact if_pos (moving_iff.2 v)

theorem judge_quiet [dec : Decidable (Replied h t ∧ rfpActive e h t = true)] (w : ¬ Carrier e h t) (v : ¬ InMotion h t) : judge e t h =
    if Replied h t ∧ rfpActive e h t = true then
      handLower e t false (report e ⟨.rfUnexpected, .tx t, none, none, some .sense⟩ (markJudged t h))
    else markJudged t h := by
  rw [judge_rest lk nl nt, if_neg (mt carrierFound_iff.1 w), if_neg (mt moving_iff.1 v)]
  simp only [Bool.and_eq_true, foundCond_isSome]
  rfl

end

/-! ### A carrier found -/

/-- R208: the clean path of a carrier: its row's one crosspoint that is not OPEN is CLOSED, to an output that is not FAULTED and
that no other transmitter's hold names. -/
def CleanPath (h : Hall) (t : Tx) (o : Out) : Prop := (∀ p : Out, xst h t p ≠ .opened ↔ p = o) ∧ xst h t o = .closed ∧
  outState h o ≠ .faulted ∧ ∀ u, reserver h o = some u → u = t

theorem not_reservedByOther_iff : reservedByOther h o t = false ↔ ∀ u, reserver h o = some u → u = t := by
  unfold reservedByOther
  rw [Bool.eq_false_iff, ne_eq, Option.any_eq_true]
  simp only [decide_eq_true_eq, not_exists, not_and, not_not]

/-- A filter of a list without repetition that holds one element. -/
theorem filter_eq_singleton {α : Type} {l : List α} {p : α → Bool} {a : α} (d : l.Nodup) (all : ∀ x, x ∈ l) :
    l.filter p = [a] ↔ ∀ x, p x = true ↔ x = a := by
  constructor
  · intro q x
    refine Iff.trans ?_ List.mem_singleton
    rw [← q, List.mem_filter]
    exact ⟨fun w => ⟨all x, w⟩, fun w => w.2⟩
  · intro q
    refine List.perm_singleton.1 ((List.perm_ext_iff_of_nodup (d.filter p) (List.nodup_singleton a)).2 fun x => ?_)
    rw [List.mem_filter, List.mem_singleton]
    exact ⟨fun w => (q x).1 w.2, fun w => ⟨all x, (q x).2 w⟩⟩

theorem openRow_iff : allOut.filter (fun p => decide (xst h t p ≠ .opened)) = [o] ↔ ∀ p : Out, xst h t p ≠ .opened ↔ p = o := by
  rw [filter_eq_singleton (l := allOut) (List.nodup_finRange 28) mem_allOut]
  simp only [decide_eq_true_eq]

theorem carrierPath_eq_some : carrierPath h t = some o ↔ CleanPath h t o := by
  unfold CleanPath
  rw [← openRow_iff, ← not_reservedByOther_iff]
  unfold carrierPath
  split
  · next p row =>
    rw [row, List.cons_eq_cons, and_iff_left rfl, Option.ite_none_right_eq_some, Bool.and_eq_true, Bool.and_eq_true,
      decide_eq_true_eq, decide_eq_true_eq, Bool.not_eq_true', Option.some_inj]
    constructor
    · rintro ⟨⟨⟨st, fault⟩, free⟩, rfl⟩
      exact ⟨rfl, st, fault, free⟩
    · rintro ⟨rfl, st, fault, free⟩
      exact ⟨⟨⟨st, fault⟩, free⟩, rfl⟩
  · next many => exact iff_of_false nofun fun w => many o w.1

theorem carrierPath_eq_none : carrierPath h t = none ↔ ∀ o, ¬ CleanPath h t o := by
  rw [Option.eq_none_iff_forall_ne_some]
  exact forall_congr' fun o => not_congr carrierPath_eq_some

theorem carrierPath_markJudged : carrierPath (markJudged t h) t = carrierPath h t := rfl

theorem judgeCarrier_unreachable (w : ¬ Replied h t) : judgeCarrier e t (markJudged t h) =
    reportForeign e t .unreachable none none
      (handLower e t false ((markJudged t h).setTx t fun r => { r with before := some .onAir })) := by
  rw [judgeCarrier, foundCond_markJudged, foundCond_eq_none.2 w]

theorem judgeCarrier_carried (w : Carried h t f m kw) : judgeCarrier e t (markJudged t h) =
    ((carrierPath h t).elim (handLower e t false (reportForeign e t .noPath (some f) none (markJudged t h)))
      fun o => adoptCarrier e t o f m kw (markJudged t h)) := by
  obtain ⟨replied, c, hc, on, _⟩ := w
  rw [judgeCarrier, foundCond_markJudged, foundCond_replied replied, hc]
  dsimp only
  rw [on, carrierPath_markJudged]
  cases carrierPath h t <;> rfl

theorem judgeCarrier_noPath (w : Carried h t f m kw) (blind : ∀ o, ¬ CleanPath h t o) : judgeCarrier e t (markJudged t h) =
    handLower e t false (reportForeign e t .noPath (some f) none (markJudged t h)) := by
  rw [judgeCarrier_carried w, carrierPath_eq_none.2 blind]
  rfl

theorem judgeCarrier_path (w : Carried h t f m kw) (path : CleanPath h t o) : judgeCarrier e t (markJudged t h) =
    adoptCarrier e t o f m kw (markJudged t h) := by
  rw [judgeCarrier_carried w, carrierPath_eq_some.2 path]
  rfl

end
end Sys2Proof.Machine
namespace Sys2Proof.Machine

set_option Elab.async false
section
variable {g h : Hall} {e : Env} {t : Tx} {o : Out} {f kw : Nat} {m : Mode} {n x : BankNo} {c : Cand}

/-! ### The first of a sorted list -/

section
variable {α : Type} {lt : α → α → Bool}

theorem mem_insertBy {a y : α} {l : List α} : y ∈ insertBy lt a l ↔ y = a ∨ y ∈ l := by
  induction l with
  | nil => simp [insertBy]
  | cons x l ih =>
    unfold insertBy
    split
    · exact List.mem_cons
    · rw [List.mem_cons, ih, List.mem_cons]
      exact or_left_comm

/-- Nothing in the list goes before its first. -/
def FirstLeast (lt : α → α → Bool) (l : List α) : Prop := ∀ a, l.head? = some a → ∀ y ∈ l, lt y a = false

theorem insertBy_firstLeast (irrefl : ∀ a, lt a a = false) (trans : ∀ a b c, lt a b = true → lt b c = true → lt a c = true)
    {a : α} {l : List α} (w : FirstLeast lt l) : FirstLeast lt (insertBy lt a l) := by
  cases l with
  | nil =>
    intro b hb y m
    cases hb
    rw [List.mem_singleton.1 m]
    exact irrefl a
  | cons x l =>
    have least := w x rfl
    unfold insertBy
    split
    · next before =>
      intro b hb y m
      cases hb
      rcases List.mem_cons.1 m with rfl | m
      · exact irrefl y
      · exact Bool.eq_false_iff.2 fun v => by
          have := trans y a x v before
          rw [least y m] at this
          cases this
    · next behind =>
      intro b hb y m
      cases hb
      rcases List.mem_cons.1 m with rfl | m
      · exact irrefl y
      · rcases mem_insertBy.1 m with rfl | m
        · exact Bool.eq_false_iff.2 behind
        · exact least y (List.mem_cons_of_mem x m)

theorem sortBy_from (irrefl : ∀ a, lt a a = false) (trans : ∀ a b c, lt a b = true → lt b c = true → lt a c = true)
    {l acc : List α} (w : FirstLeast lt acc) : FirstLeast lt (l.foldl (fun acc a => insertBy lt a acc) acc) ∧
      ∀ y, y ∈ l.foldl (fun acc a => insertBy lt a acc) acc ↔ y ∈ l ∨ y ∈ acc := by
  induction l generalizing acc with
  | nil => exact ⟨w, fun y => by simp⟩
  | cons a l ih =>
    obtain ⟨least, mem⟩ := ih (insertBy_firstLeast (a := a) irrefl trans w)
    refine ⟨least, fun y => (mem y).trans ?_⟩
    rw [mem_insertBy, List.mem_cons, or_assoc]
    exact or_left_comm

theorem sortBy_firstLeast (irrefl : ∀ a, lt a a = false) (trans : ∀ a b c, lt a b = true → lt b c = true → lt a c = true)
    {l : List α} : FirstLeast lt (sortBy lt l) ∧ ∀ y, y ∈ sortBy lt l ↔ y ∈ l := by
  obtain ⟨least, mem⟩ := sortBy_from irrefl trans (l := l) (acc := []) nofun
  exact ⟨least, fun y => (mem y).trans (or_iff_left List.not_mem_nil)⟩

end

/-! ### The candidates of a carrier -/

/-- R209: an order by priority, a mark, a start and an id, in numbers. -/
def NumBefore (p i s a p' i' s' a' : Nat) : Prop := p > p' ∨ (p = p' ∧ (i < i' ∨ (i = i' ∧ (s < s' ∨ (s = s' ∧ a < a')))))

theorem NumBefore.trans {p i s a p' i' s' a' q j u b : Nat} (v : NumBefore p i s a p' i' s' a') (w : NumBefore p' i' s' a' q j u b) :
    NumBefore p i s a q j u b := by
  unfold NumBefore at *
  omega

theorem NumBefore.irrefl {p i s a : Nat} : ¬ NumBefore p i s a p i s a := by
  unfold NumBefore
  omega

/-- R209: ACTIVE before RETIRING. -/
def bankRank (a : BankNo × Bool × Cand) : Nat := (!a.2.1).toNat

theorem bankRank_lt {a b : BankNo × Bool × Cand} : (a.2.1 && !b.2.1) = true ↔ bankRank a < bankRank b := by
  unfold bankRank
  cases a.2.1 <;> cases b.2.1 <;> decide

theorem bankRank_eq {a b : BankNo × Bool × Cand} : a.2.1 = b.2.1 ↔ bankRank a = bankRank b := by
  unfold bankRank
  cases a.2.1 <;> cases b.2.1 <;> decide

theorem matchBefore_iff {a b : BankNo × Bool × Cand} : matchBefore a b = true ↔
    NumBefore a.2.2.r.entry.prio (bankRank a) (occStart a.2.2.r.entry a.2.2.day) a.2.2.r.entry.id
      b.2.2.r.entry.prio (bankRank b) (occStart b.2.2.r.entry b.2.2.day) b.2.2.r.entry.id := by
  unfold matchBefore NumBefore
  simp only [Bool.or_eq_true (decide _), Bool.or_eq_true (_ && !_), Bool.and_eq_true (decide _), bankRank_lt, bankRank_eq,
    decide_eq_true_eq]

theorem matchBefore_trans (a b c : BankNo × Bool × Cand) (v : matchBefore a b = true) (w : matchBefore b c = true) :
    matchBefore a c = true := matchBefore_iff.2 ((matchBefore_iff.1 v).trans (matchBefore_iff.1 w))

theorem matchBefore_irrefl (a : BankNo × Bool × Cand) : matchBefore a a = false :=
  Bool.eq_false_iff.2 (mt matchBefore_iff.1 NumBefore.irrefl)

/-- R209: an occurrence that the carrier can be. -/
def MatchCand (e : Env) (h : Hall) (t : Tx) (o : Out) (f : Nat) (n : BankNo) (c : Cand) : Prop := ∃ x b, activeBank h = some x ∧
  (n = x ∨ (retiringBank h = some n ∧ ∀ b', (h.banks[x]).start = some b' → occStart c.r.entry c.day < b')) ∧
  c.r ∈ (h.banks[n]).recs ∧ c.day ∈ scanDays e ∧ (h.banks[n]).start = some b ∧ hasOcc c.r.entry b c.day = true ∧
  occStart c.r.entry c.day ≤ e.min ∧ e.min < occStop c.r.entry c.day ∧ c.r.entry.tx = t ∧ c.r.entry.out = o ∧
  c.r.entry.freq = f

/-- R209: the candidate as it is compared. -/
def rankOf (h : Hall) (n : BankNo) (c : Cand) : BankNo × Bool × Cand := (n, decide (activeBank h = some n), c)

theorem mem_carrierCands {before : Option Minutes} : c ∈ carrierCands e h n t o f before ↔
    c.r ∈ (h.banks[n]).recs ∧ c.day ∈ scanDays e ∧ carrierOcc e h n t o f before c.r c.day = true := by
  unfold carrierCands
  simp only [List.mem_flatMap, List.mem_filterMap, Option.ite_none_right_eq_some, Option.some_inj]
  constructor
  · rintro ⟨r, hr, d, hd, occ, rfl⟩
    exact ⟨hr, hd, occ⟩
  · rintro ⟨hr, hd, occ⟩
    exact ⟨c.r, hr, c.day, hd, occ, rfl⟩

theorem carrierOcc_iff {before : Option Minutes} {r : EntryRec} {d : Day} : carrierOcc e h n t o f before r d = true ↔
    (∃ b, (h.banks[n]).start = some b ∧ hasOcc r.entry b d = true) ∧ (∀ b', before = some b' → occStart r.entry d < b') ∧
    occStart r.entry d ≤ e.min ∧ e.min < occStop r.entry d ∧ r.entry.tx = t ∧ r.entry.out = o ∧ r.entry.freq = f := by
  unfold carrierOcc
  simp only [Bool.and_eq_true, decide_eq_true_eq, Option.any_eq_true, Option.all_eq_true, and_assoc]

/-- R209: the candidates, those of the ACTIVE bank `n` first. -/
def matchList (e : Env) (h : Hall) (t : Tx) (o : Out) (f : Nat) (n : BankNo) : List (BankNo × Bool × Cand) :=
  ((carrierCands e h n t o f none).map fun c => (n, true, c)) ++
    (retiringBank h).elim [] fun r => (carrierCands e h r t o f (h.banks[n]).start).map fun c => (r, false, c)

theorem matchCarrier_eq (w : activeBank h = some n) : matchCarrier e h t o f =
    (sortBy matchBefore (matchList e h t o f n)).head?.map fun x => (x.1, x.2.2) := by
  unfold matchCarrier matchList
  rw [w]
  cases retiringBank h <;> rfl

theorem rankOf_active (w : activeBank h = some n) : rankOf h n c = (n, true, c) := by
  rw [rankOf, decide_eq_true w]

theorem rankOf_retiring (w : retiringBank h = some n) : rankOf h n c = (n, false, c) := by
  rw [rankOf, decide_eq_false]
  intro v
  have st := activeBank_some v
  rw [retiringBank_some w] at st
  cases st

theorem mem_matchList {y : BankNo × Bool × Cand} (w : activeBank h = some x) :
    y ∈ matchList e h t o f x ↔ ∃ n c, MatchCand e h t o f n c ∧ y = rankOf h n c := by
  unfold matchList
  rw [List.mem_append, List.mem_map]
  constructor
  · rintro (⟨c, hc, rfl⟩ | m)
    · obtain ⟨hr, hd, occ⟩ := mem_carrierCands.1 hc
      obtain ⟨⟨b, start, has⟩, _, rest⟩ := carrierOcc_iff.1 occ
      exact ⟨x, c, ⟨x, b, w, .inl rfl, hr, hd, start, has, rest⟩, (rankOf_active w).symm⟩
    · cases q : retiringBank h with
      | none => rw [q] at m; cases m
      | some r =>
        rw [q] at m
        obtain ⟨c, hc, rfl⟩ := List.mem_map.1 m
        obtain ⟨hr, hd, occ⟩ := mem_carrierCands.1 hc
        obtain ⟨⟨b, start, has⟩, before, rest⟩ := carrierOcc_iff.1 occ
        exact ⟨r, c, ⟨x, b, w, .inr ⟨q, before⟩, hr, hd, start, has, rest⟩, (rankOf_retiring q).symm⟩
  · rintro ⟨n, c, ⟨x', b, w', bank, hr, hd, start, has, rest⟩, rfl⟩
    obtain rfl : x = x' := Option.some.inj (w.symm.trans w')
    rcases bank with rfl | ⟨q, before⟩
    · exact .inl ⟨c, mem_carrierCands.2 ⟨hr, hd, carrierOcc_iff.2 ⟨⟨b, start, has⟩, nofun, rest⟩⟩, (rankOf_active w).symm⟩
    · refine .inr ?_
      rw [q, rankOf_retiring q]
      exact List.mem_map_of_mem (mem_carrierCands.2 ⟨hr, hd, carrierOcc_iff.2 ⟨⟨b, start, has⟩, before, rest⟩⟩)

theorem matchCarrier_none (w : ∀ n c, ¬ MatchCand e h t o f n c) : matchCarrier e h t o f = none := by
  cases q : activeBank h with
  | none => rw [matchCarrier, q]
  | some x =>
    have empty : sortBy matchBefore (matchList e h t o f x) = [] := List.eq_nil_iff_forall_not_mem.2 fun y m => by
      obtain ⟨n, c, cand, _⟩ := (mem_matchList q).1 (((sortBy_firstLeast matchBefore_irrefl matchBefore_trans).2 y).1 m)
      exact w n c cand
    rw [matchCarrier_eq q, empty]
    rfl

/-- R209: the candidate taken: no other goes before it. -/
theorem matchCarrier_some (w : MatchCand e h t o f n c) : ∃ n' c', matchCarrier e h t o f = some (n', c') ∧
    MatchCand e h t o f n' c' ∧ ∀ n c, MatchCand e h t o f n c → matchBefore (rankOf h n c) (rankOf h n' c') = false := by
  obtain ⟨x, _, q, _⟩ := id w
  obtain ⟨least, mem⟩ := sortBy_firstLeast matchBefore_irrefl matchBefore_trans (l := matchList e h t o f x)
  have listed {n : BankNo} {c : Cand} (w : MatchCand e h t o f n c) : rankOf h n c ∈ sortBy matchBefore (matchList e h t o f x) :=
    (mem _).2 ((mem_matchList q).2 ⟨n, c, w, rfl⟩)
  cases first : (sortBy matchBefore (matchList e h t o f x)).head? with
  | none =>
    have empty := List.head?_eq_none_iff.1 first
    have m := listed w
    rw [empty] at m
    cases m
  | some y =>
    obtain ⟨n', c', cand, rfl⟩ := (mem_matchList q).1 ((mem y).1 (List.mem_of_head? first))
    refine ⟨n', c', ?_, cand, fun n c w => least _ first _ (listed w)⟩
    rw [matchCarrier_eq q, first]
    rfl

/-! ### Adoption of a carrier -/

theorem adoptCarrier_unmatched (w : ∀ n c, ¬ MatchCand e h t o f n c) : adoptCarrier e t o f m kw h = adoptForeign e t o f m kw h := by
  rw [adoptCarrier, matchCarrier_none w]

/-- R209: the occurrence of a candidate. -/
def Cand.sched (n : BankNo) (c : Cand) : Sched :=
  ⟨⟨n, c.r.entry.id, c.day⟩, c.r.entry.prio, occStart c.r.entry c.day, occStop c.r.entry c.day⟩

/-- R209: the assignment that a candidate gives. -/
def Cand.asg (k : Tables) (hd : Hold) (n : BankNo) (c : Cand) : Asg :=
  adoptedAsg (some (c.sched n)) (entryParams c.r.entry) (effective k hd (entryParams c.r.entry) false)

theorem adoptCarrier_matched (w : matchCarrier e h t o f = some (n, c)) : adoptCarrier e t o f m kw h =
    if checkParams e.k h t (c.asg e.k h.holds[t] n).eff = .permitted then
      { adoptAsg t o (c.asg e.k h.holds[t] n) (h.setBank n fun b => b.mark c.r.entry.id (c.sched n).start) with
        adoptedS := h.adoptedS + 1 }.note (.admitted t (some (c.sched n).occ) (c.asg e.k h.holds[t] n).eff.out .adoption)
    else adoptForeign e t o f m kw h := by
  rw [adoptCarrier, w]
  exact ite_not ..

/-- R210: the parameters of an unmatched carrier. -/
def foundParams (h : Hall) (o : Out) (f : Nat) (m : Mode) (kw : Nat) : Params :=
  ⟨f, m, o, (h.path.pos[o]).bind fun p => match p.st with | .parked n => n | _ => none, max 1 kw, none⟩

theorem foundParams_preset {k : Nat} : (foundParams h o f m kw).preset = some k ↔
    ∃ q, h.path.pos[o] = some q ∧ q.st = .parked (some k) := by
  unfold foundParams
  dsimp only
  rw [Option.bind_eq_some_iff]
  refine exists_congr fun q => and_congr_right fun _ => ?_
  split
  · next p st => rw [st, PosState.parked.injEq]
  · next other => exact iff_of_false nofun fun st => other _ st

theorem addRecord_adoptedF {sec : Seconds} {r : Report} {blocking : Bool} {displaced : Option Nat} :
    (addRecord sec r blocking displaced h).adoptedF = h.adoptedF := rfl

theorem report_adoptedF {r : Report} : (report e r h).adoptedF = h.adoptedF := by
  unfold report
  dsimp only
  split
  · rfl
  · split
    · exact addRecord_adoptedF
    · split
      · rfl
      · split
        · rfl
        · exact addRecord_adoptedF

theorem adoptForeign_permitted (w : checkParams e.k h t (foundParams h o f m kw) = .permitted) : adoptForeign e t o f m kw h =
    { reportForeign e t .noMatch (some f) none
        (adoptAsg t o (adoptedAsg none (foundParams h o f m kw) (foundParams h o f m kw)) h) with
      adoptedF := h.adoptedF + 1 }.note (.admitted t none o .adoption) := by
  have kept : (reportForeign e t .noMatch (some f) none
      (adoptAsg t o (adoptedAsg none (foundParams h o f m kw) (foundParams h o f m kw)) h)).adoptedF = h.adoptedF := report_adoptedF
  rw [← kept]
  unfold adoptForeign
  dsimp only
  split
  · rfl
  · next other => exact absurd w other

theorem adoptForeign_refused (w : checkParams e.k h t (foundParams h o f m kw) ≠ .permitted) : adoptForeign e t o f m kw h =
    handLower e t false (reportForeign e t .excluded (some f) (some (checkParams e.k h t (foundParams h o f m kw))) h) := by
  unfold adoptForeign
  dsimp only
  split
  · next q => exact absurd q w
  · rfl

theorem adoptAsg_same {a : Asg} : (adoptAsg t o a h).asg[t] = some a ∧ (adoptAsg t o a h).idle[t] = .stopped ∧
    (adoptAsg t o a h).path.owner[o] = some t ∧ ((adoptAsg t o a h).tx[t]).raiseKw = some a.eff.power := by
  simp [adoptAsg, Hall.beginAsg]

/-! ### The end of adoption -/

/-- R212 step 1: what is past its stop instant. -/
def pastStop (e : Env) (x : Option Sched) : Bool := x.any fun x => decide (x.stop ≤ e.min)

/-- R212 step 2: the RETIRING bank, once nothing refers to it, is SPENT. -/
def spendRetiring (h : Hall) : Hall := (retiringBank h).elim h fun n => retireNow n h

/-- R212 steps 3 and 4. -/
def runHall (h : Hall) : Hall :=
  ({ h with mode := .running }.note (.hall .running (.adopted h.adoptedS h.adoptedF))).wantAlloc

theorem endWhere_pastStop : endWhere e (pastStop e) .completed h = (h.each allTx fun t k =>
    if (k.asg[t]).any (fun a => a.sched.any fun x => decide (x.stop ≤ e.min)) then endAsg e t .completed .nothing k else k) := rfl

theorem endAdoption_eq : endAdoption e h = if e.isSet = true then
      changeoverScan e (runHall (spendRetiring (endWhere e (pastStop e) .completed h)))
    else runHall (spendRetiring (endWhere e (pastStop e) .completed h)) := by
  unfold endAdoption
  rw [← endWhere_pastStop]
  generalize endWhere e (pastStop e) .completed h = k
  unfold spendRetiring
  dsimp only
  cases retiringBank k <;> rfl

theorem spendRetiring_none (w : retiringBank h = none) : spendRetiring h = h := by
  rw [spendRetiring, w]
  rfl

theorem spendRetiring_kept (w : retiringBank h = some n) (ref : hasRef n h = true) : spendRetiring h = h := by
  rw [spendRetiring, w]
  exact if_neg (by rw [ref]; simp)

theorem spendRetiring_spent (w : retiringBank h = some n) (free : hasRef n h = false) : spendRetiring h =
    (h.setBank n fun b => { b with st := .spent }).note (.bank n .spent (h.banks[n]).label (h.banks[n]).start) := by
  rw [spendRetiring, w]
  refine (if_pos (by rw [free, retiringBank_some w]; rfl)).trans ?_
  unfold spendBank bankNotice
  rw [setBank_bank_same]

end
end Sys2Proof.Machine
namespace Sys2Proof.Machine

set_option Elab.async false

/-- A transmitter's record without its orders. -/
def TxRec.body (r : TxRec) : TxRec := { r with out := none, pend := none }

/-- From `g` to `h` by operations that end assignments and hand orders to transmitters of `d`: nothing is reported, no matter in the
hall moves, other transmitters are as they were, and one of `d` at most takes or drops orders. -/
structure Quiet (d : Tx → Prop) (g h : Hall) : Prop where
  mode : h.mode = g.mode
  idle : h.idle = g.idle
  holds : h.holds = g.holds
  dslot : h.dslot = g.dslot
  running : h.running = g.running
  faults : h.faults = g.faults
  sense : h.sense = g.sense
  xpt : h.path.xpt = g.path.xpt
  slots : h.path.slots = g.path.slots
  pos : h.path.pos = g.path.pos
  tx : ∀ u : Tx, ¬ d u → h.tx[u] = g.tx[u]
  body : ∀ u : Tx, (h.tx[u]).body = (g.tx[u]).body
  emit : g.emit <+: h.emit

section
variable {d : Tx → Prop} {g h k : Hall} {e : Env} {t : Tx} {o : Out}

/-- R140: a LOWER handed is queued, or nothing is done. -/
theorem handLower_cases {byTrip : Bool} : handLower e t byTrip h = h ∨ handLower e t byTrip h = queueLower t byTrip h := by
  unfold handLower
  split
  · exact .inl rfl
  · rcases Bool.eq_false_or_eq_true (rfpActive e h t) with r | r <;> cases (h.tx[t]).st <;> simp [r]

namespace Quiet

theorem refl (d : Tx → Prop) (h : Hall) : Quiet d h h :=
  ⟨rfl, rfl, rfl, rfl, rfl, rfl, rfl, rfl, rfl, rfl, fun _ _ => rfl, fun _ => rfl, List.prefix_rfl⟩

theorem trans (x : Quiet d g h) (y : Quiet d h k) : Quiet d g k :=
  ⟨y.mode.trans x.mode, y.idle.trans x.idle, y.holds.trans x.holds, y.dslot.trans x.dslot, y.running.trans x.running,
    y.faults.trans x.faults, y.sense.trans x.sense, y.xpt.trans x.xpt, y.slots.trans x.slots, y.pos.trans x.pos,
    fun u w => (y.tx u w).trans (x.tx u w), fun u => (y.body u).trans (x.body u), x.emit.trans y.emit⟩

theorem mono {d' : Tx → Prop} (x : Quiet d g h) (w : ∀ u, d u → d' u) : Quiet d' g h :=
  { x with tx := fun u v => x.tx u fun z => v (w u z) }

theorem ite {c : Prop} [Decidable c] {a b : Hall} (x : Quiet d g a) (y : Quiet d g b) : Quiet d g (if c then a else b) := by
  split <;> assumption

theorem each {α : Type} {l : List α} {f : α → Hall → Hall} (x : Quiet d g h) (y : ∀ {a k}, Quiet d g k → Quiet d g (f a k)) :
    Quiet d g (h.each l f) := by
  induction l generalizing h with
  | nil => exact x
  | cons a l ih => exact ih (y x)

/-- An update of what the relation does not speak of. -/
theorem plain (x : Quiet d g h) (mode : k.mode = h.mode := by rfl) (idle : k.idle = h.idle := by rfl)
    (holds : k.holds = h.holds := by rfl) (dslot : k.dslot = h.dslot := by rfl) (running : k.running = h.running := by rfl)
    (faults : k.faults = h.faults := by rfl) (sense : k.sense = h.sense := by rfl) (xpt : k.path.xpt = h.path.xpt := by rfl)
    (slots : k.path.slots = h.path.slots := by rfl) (pos : k.path.pos = h.path.pos := by rfl) (tx : k.tx = h.tx := by rfl)
    (emit : k.emit = h.emit := by rfl) : Quiet d g k :=
  x.trans ⟨mode, idle, holds, dslot, running, faults, sense, xpt, slots, pos, fun _ _ => by rw [tx], fun _ => by rw [tx],
    by rw [emit]⟩

protected theorem note {b : NoticeBody} (x : Quiet d g h) : Quiet d g (h.note b) :=
  x.trans { refl d h with emit := List.prefix_append _ _ }

protected theorem notes {l : List NoticeBody} (x : Quiet d g h) : Quiet d g (h.notes l) :=
  x.trans { refl d h with emit := List.prefix_append _ _ }

protected theorem setTx {f : TxRec → TxRec} (x : Quiet d g h) (w : d t) (b : (f h.tx[t]).body = (h.tx[t]).body) :
    Quiet d g (h.setTx t f) := by
  refine x.trans { refl d h with tx := fun u v => ?_, body := fun u => ?_ }
  · rw [Hall.setTx_tx, get_upd, if_neg fun z : t = u => v (z ▸ w)]
  · rw [Hall.setTx_tx, get_upd]
    split
    · next eq => exact eq ▸ b
    · rfl

protected theorem setAsg {a : Option Asg} (x : Quiet d g h) : Quiet d g (h.setAsg t a) := x.plain

protected theorem mapAsg {f : Asg → Asg} (x : Quiet d g h) : Quiet d g (h.mapAsg t f) := x.plain

protected theorem setOwner {w : Option Tx} (x : Quiet d g h) : Quiet d g (h.setOwner o w) := x.plain

protected theorem retireCheck {n : BankNo} (x : Quiet d g h) : Quiet d g (retireCheck n h) := by
  unfold retireCheck retireNow spendBank bankNotice
  exact ite x (ite (Quiet.note (x.plain (k := h.setBank n _))) x)

protected theorem overtaken {r : Order} (x : Quiet d g h) : Quiet d g (overtaken t r h) := ite x.mapAsg x

protected theorem overtakeOut {p : Order → Bool} (x : Quiet d g h) (w : d t) : Quiet d g (overtakeOut t p h) := by
  unfold overtakeOut
  split
  · exact ite (x.setTx w rfl).overtaken x
  · exact x

protected theorem overtakePend {p : Order → Bool} (x : Quiet d g h) (w : d t) : Quiet d g (overtakePend t p h) := by
  unfold overtakePend
  split
  · exact ite (x.setTx w rfl).overtaken x
  · exact x

protected theorem makePending {r : Order} (x : Quiet d g h) (w : d t) : Quiet d g (makePending t r h) := (x.overtakePend w).setTx w rfl

protected theorem queueLower {byTrip : Bool} (x : Quiet d g h) (w : d t) : Quiet d g (queueLower t byTrip h) := by
  unfold queueLower
  refine ite (ite (x.setTx w rfl) x) ?_
  have y := (x.overtakeOut (p := fun o => o.kind.isRaise || o.kind.isTune) w).overtakePend (p := fun o => o.kind.isRaise) w
  dsimp only
  split
  · exact y.setTx w rfl
  · exact y.makePending w

protected theorem handLower {byTrip : Bool} (x : Quiet d g h) (w : d t) : Quiet d g (handLower e t byTrip h) := by
  rcases handLower_cases (e := e) (t := t) (byTrip := byTrip) (h := h) with same | queued
  · rw [same]
    exact x
  · rw [queued]
    exact x.queueLower w

protected theorem handClear (x : Quiet d g h) (w : d t) : Quiet d g (handClear e t h) := by
  unfold handClear
  refine ite x ?_
  dsimp only
  split
  · exact x.setTx w rfl
  · exact x.makePending w

protected theorem withdrawRaise (x : Quiet d g h) (w : d t) : Quiet d g (withdrawRaise t h) := x.setTx w rfl

protected theorem noHandBack {p : OrderKind → Bool} (x : Quiet d g h) (w : d t) : Quiet d g (noHandBack t p h) := x.setTx w rfl

protected theorem dropPending (x : Quiet d g h) (w : d t) : Quiet d g (dropPending t h) := x.setTx w rfl

protected theorem repower {kw : Nat} (x : Quiet d g h) (w : d t) : Quiet d g (repower t kw h) := x.setTx w rfl

protected theorem cancelSeq (x : Quiet d g h) : Quiet d g (cancelSeq t h) := by
  unfold cancelSeq leaveQueued
  exact ite x (ite x.plain x.plain)

protected theorem outAvailable (x : Quiet d g h) : Quiet d g (outAvailable o h) := ite x.plain x

protected theorem release (x : Quiet d g h) : Quiet d g (release o h) := x.setOwner.outAvailable

protected theorem passClaim (x : Quiet d g h) : Quiet d g (passClaim t o h) := by
  unfold passClaim
  split
  · exact x.setOwner.mapAsg
  · exact x.release

/-- The completion of an end without push or deferral. -/
protected theorem completeEnd {a : Asg} {oc : EndOutcome} (x : Quiet d g h) (ha : h.asg[t] = some a)
    (hp : a.phase = .ending oc .nothing) : Quiet d g (completeEnd e t h) := by
  unfold completeEnd
  rw [ha]
  dsimp only
  rw [hp]
  dsimp only
  have y : Quiet d g (h.each (claims h t) (passClaim t)) := x.each fun y => y.passClaim
  generalize h.each (claims h t) (passClaim t) = k at y
  have z : Quiet d g (clearAwaits t (k.setAsg t none)) := y.plain
  split
  · exact z.note.retireCheck.plain
  · exact z.note.plain

protected theorem endBegun {a : Asg} (x : Quiet d g h) (w : d t) : Quiet d g (endBegun t a h) :=
  ((x.setAsg.withdrawRaise w).noHandBack w).cancelSeq

protected theorem endAsg {oc : EndOutcome} (x : Quiet d g h) (w : d t) : Quiet d g (endAsg e t oc .nothing h) := by
  cases ha : h.asg[t] with
  | none => unfold endAsg; rw [ha]; exact x
  | some a =>
    cases hp : a.phase.isEnding with
    | true => rw [endAsg_ending ha hp]; exact x
    | false =>
      have y : Quiet d g (endBegun t (a.ended oc .nothing) h) := x.endBegun w
      have z := endBegun_asg t (a.ended oc .nothing) h
      rw [endAsg_begun ha hp, tryEnd, z]
      exact ite y (ite (y.completeEnd z rfl) (ite y (y.handLower w)))

protected theorem abortAsg (x : Quiet d g h) (w : d t) : Quiet d g (abortAsg e t h) := by
  unfold abortAsg
  split
  · exact x
  · exact ite x.setAsg (x.endAsg w)

protected theorem itemsLeave {nt : Occ → NoticeBody} {l : List StackItem} (x : Quiet d g h) : Quiet d g (itemsLeave nt l h) := by
  induction l generalizing h with
  | nil => exact x
  | cons i l ih => exact ih (ite x.note x.note.retireCheck)

protected theorem dropStack {p : Item → Bool} {nt : Occ → NoticeBody} (x : Quiet d g h) : Quiet d g (dropStack t p nt h) := by
  unfold dropStack
  exact ite x (Quiet.itemsLeave x.plain)

protected theorem dropDeferral {p : Item → Bool} {nt : Occ → NoticeBody} (x : Quiet d g h) : Quiet d g (dropDeferral p nt h) :=
  Quiet.notes (x.plain (k := { h with deferral := h.deferral.filter fun (i : DeferItem) => !p i.item }))

end Quiet

end
end Sys2Proof.Machine
namespace Sys2Proof.Machine

set_option Elab.async false
section
variable {g h k : Hall} {e : Env} {t : Tx} {n : BankNo}

/-! ### Walks that touch one table -/

/-- A walk that updates each transmitter's record updates the table. -/
theorem each_setTx {f : Tx → TxRec → TxRec} : ∃ v, (h.each allTx fun t k => k.setTx t (f t)) = { h with tx := v } ∧
    ∀ u : Tx, v[u] = f u h.tx[u] := by
  have walk (l : List Tx) (nd : l.Nodup) (h : Hall) : ∃ v, (h.each l fun t k => k.setTx t (f t)) = { h with tx := v } ∧
      ∀ u : Tx, v[u] = if u ∈ l then f u h.tx[u] else h.tx[u] := by
    induction l generalizing h with
    | nil => exact ⟨h.tx, rfl, fun u => rfl⟩
    | cons t l ih =>
      obtain ⟨fresh, nd⟩ := List.nodup_cons.1 nd
      obtain ⟨v, eq, get⟩ := ih nd (h.setTx t (f t))
      refine ⟨v, eq, fun u => ?_⟩
      rw [get, Hall.setTx_tx, get_upd]
      by_cases same : t = u
      · subst same
        rw [if_neg fresh, if_pos rfl, if_pos List.mem_cons_self]
      · rw [if_neg same]
        exact if_congr (by rw [List.mem_cons, or_iff_right (Ne.symm same)]) rfl rfl
  obtain ⟨v, eq, get⟩ := walk allTx nodup_allTx h
  exact ⟨v, eq, fun u => by rw [get, if_pos (mem_allTx u)]⟩

/-! ### HALL-RESET, the records -/

/-- R110: with no request queued, a cancel touches the sequences alone. -/
theorem cancelSeq_unqueued (w : h.path.queue = []) : ∃ seqs, cancelSeq t h = h.setPath fun p => { p with seqs := seqs } := by
  have left : leaveQueued t h = h := by
    unfold leaveQueued Hall.setQueue Hall.setPath
    rw [w, List.map_nil, List.filter_nil, ← w]
  unfold cancelSeq
  rw [left]
  dsimp only
  split
  · exact ⟨h.path.seqs, rfl⟩
  · split <;> exact ⟨_, rfl⟩

theorem cancelSeqs_unqueued {l : List Tx} (w : h.path.queue = []) :
    ∃ seqs, h.each l cancelSeq = h.setPath fun p => { p with seqs := seqs } := by
  induction l generalizing h with
  | nil => exact ⟨h.path.seqs, rfl⟩
  | cons t l ih =>
    obtain ⟨one, eq⟩ := cancelSeq_unqueued (t := t) w
    change ∃ seqs, (cancelSeq t h).each l cancelSeq = _
    rw [eq]
    exact ih (h := h.setPath fun p => { p with seqs := one }) w

/-- R154, R175: a transmitter's record after a HALL reset. -/
def TxRec.reset (r : TxRec) : TxRec :=
  { r with
    contact := false, pend := none, rcv := Recovery.idle
    out := (r.out.filter fun o => o.sentAt.isSome || decide (o.kind = .lower)).map fun o => { o with handBack := false } }

theorem resetTx_eq : resetTx t h = h.setTx t TxRec.reset := by
  unfold resetTx noHandBack dropPending Hall.setTx
  simp only [upd_upd, if_true, Option.map_none]
  rfl

/-- R19, R35, R75, R117, R154, R206: the hall once its blocks but plans and holds are reset, with the sequences that are left. -/
def blocksReset (e : Env) (h : Hall) (seqs : Tab PathSeq 12) : Hall :=
  { h with
    mode := .adopting, changes := [], asg := tab 12 none, stack := tab 12 [], deferral := [], idle := tab 12 .stopped, alloc := false
    adoptedS := 0, adoptedF := 0, adopt := Vector.ofFn fun t => ⟨!txDefined e.k h t, none, false, false⟩
    path := { h.path with queue := [], owner := tab 28 none, cols := tab 28 ⟨false, some ⟨0, none⟩, none⟩, seqs := seqs }
    tx := h.tx.map TxRec.reset
    emit := h.emit ++ [.hall .adopting .reset] ++
      h.changes.map fun (c : Change) => .changeRejected c.tag c.bank c.kind c.id .reset }

theorem blocksReset_eq : ∃ seqs : Tab PathSeq 12, (∀ u : Tx, (seqs[u]).next = none) ∧
    (resetPath (discardAll (rejectAll ((restartAdoption e.k h).note (.hall .adopting .reset))))).each allTx resetTx =
      blocksReset e h seqs := by
  have txs : (resetTx : Tx → Hall → Hall) = fun t k => k.setTx t TxRec.reset := funext fun t => funext fun k => resetTx_eq
  have reset (k : Hall) : k.each allTx resetTx = { k with tx := k.tx.map TxRec.reset } := by
    obtain ⟨v, eq, get⟩ := each_setTx (f := fun _ => TxRec.reset) (h := k)
    have same : v = k.tx.map TxRec.reset := tab_ext fun u => by
      rw [get]
      simp
    rw [txs, eq, same]
  rw [reset]
  unfold resetPath
  obtain ⟨seqs, cancelled⟩ := cancelSeqs_unqueued (l := allTx)
    (h := (discardAll (rejectAll ((restartAdoption e.k h).note (.hall .adopting .reset)))).setQueue []) rfl
  dsimp only
  rw [cancelled]
  exact ⟨seqs.map fun s => { s with next := none }, fun u => by simp, rfl⟩

/-! ### HALL-RESET, banks, plans and holds -/

/-- R19: the notice of a RETIRING bank, which nothing refers to now. -/
def spentNotices (h : Hall) : List NoticeBody :=
  (retiringBank h).elim [] fun n => [.bank n .spent (h.banks[n]).label (h.banks[n]).start]

/-- R19: a RETIRING bank is SPENT. -/
def banksSpent (h : Hall) : Tab Bank 4 := (retiringBank h).elim h.banks fun n => upd h.banks n fun b => { b with st := .spent }

theorem hasRef_blank (asg : h.asg = tab 12 none) (stack : h.stack = tab 12 []) : hasRef n h = false := by
  rw [Bool.eq_false_iff, ne_eq, hasRef_iff, Refers, asg, stack]
  rintro ⟨t, ⟨a, _, ha, _⟩ | ⟨i, m, _⟩⟩
  · rw [get_tab] at ha
    cases ha
  · rw [get_tab] at m
    cases m

theorem spendRetiring_blank (asg : h.asg = tab 12 none) (stack : h.stack = tab 12 []) :
    spendRetiring h = { h with banks := banksSpent h, emit := h.emit ++ spentNotices h } := by
  unfold banksSpent spentNotices
  cases q : retiringBank h with
  | none =>
    rw [spendRetiring_none q]
    simp only [Option.elim_none, List.append_nil]
  | some n =>
    rw [spendRetiring_spent q (hasRef_blank asg stack)]
    rfl

theorem banksSpent_kept : ((banksSpent h)[n]).recs = (h.banks[n]).recs ∧ ((banksSpent h)[n]).label = (h.banks[n]).label := by
  unfold banksSpent
  cases retiringBank h with
  | none => exact ⟨rfl, rfl⟩
  | some m =>
    rw [Option.elim_some, get_upd]
    split
    · next eq =>
      subst eq
      exact ⟨rfl, rfl⟩
    · exact ⟨rfl, rfl⟩

/-- R193: the notices of plans and directives that a reset takes. -/
def planNotices (h : Hall) : List NoticeBody :=
  (h.running.elim [] fun r => [.planAbandoned r.plan r.tag r.step r.failed .reset]) ++
    h.dslot.elim [] fun d => [.directiveCancelled d.1 d.2 .reset]

/-- R193: the last directive after a reset. -/
def dlastReset (h : Hall) : Option LastDirective := if h.dslot = none then h.dlast
  else h.dlast.map fun d => if d.fate = .pending then { d with fate := .cancelled } else d

theorem resetPlans_eq : resetPlans h =
    { h with running := none, dslot := none, dlast := dlastReset h, emit := h.emit ++ planNotices h } := by
  obtain ⟨mode, banks, changes, asg, stack, deferral, idle, adopt, adoptedS, adoptedF, alloc, path, tx, sense, holds, dslot, running,
    dlast, faults, clear, said, emit⟩ := h
  unfold resetPlans planNotices dlastReset
  cases running <;> cases dslot <;> simp [Hall.note]

/-- R176, R183: the notice of a hold record that a reset clears. -/
def holdNotice (h : Hall) (u : Tx) : List NoticeBody := let l := (h.holds[u]).enabled; if l = [] then [] else [.holdReset u l]

theorem enabled_eq_nil {d : Hold} (w : d.enabled = []) : d = Hold.off := by
  obtain ⟨inhibit, output, freq, power⟩ := d
  unfold Hold.enabled at w
  rw [List.filter_eq_nil_iff] at w
  have i := w .inhibit (by decide)
  have o := w .output (by decide)
  have f := w .frequency (by decide)
  have p := w .power (by decide)
  cases inhibit <;> cases output <;> cases freq <;> cases power <;> simp_all [Hold.get, Hold.off]

/-- R176: what a reset does to a hold record before the parameters are worked out again. -/
def holdCleared (t : Tx) (h : Hall) : Hall := (h.setHold t fun _ => Hold.off).note (.holdReset t (h.holds[t]).enabled)

/-- The transmitter has no assignment, or one that is ENDING. -/
def Settled (h : Hall) (t : Tx) : Prop := ∀ a, h.asg[t] = some a → a.phase.isEnding = true

theorem recompute_settled {viaHold mayAwait : Bool} (w : Settled h t) : recompute e t viaHold mayAwait h = h := by
  unfold recompute
  split
  · rfl
  · next a ha => exact if_pos (by rw [w a ha]; rfl)

theorem recomputeReset_settled {power : Bool} (w : Settled h t) : recomputeReset e t power h = h := by
  unfold recomputeReset
  rw [recompute_settled w]
  exact ite_self h

theorem Settled.congr (w : Settled h t) (same : k.asg = h.asg) : Settled k t := fun a ha => w a (by rw [← same]; exact ha)

theorem outAvailable_asg {o : Out} : (outAvailable o h).asg = h.asg := by
  unfold outAvailable
  split <;> rfl

theorem outAvailable_wants {o : Out} : (outAvailable o h).wantAlloc = h.wantAlloc := by
  unfold outAvailable
  split <;> rfl

theorem resetHold_off (w : (h.holds[t]).enabled = []) : resetHold e t h = h := if_pos (by rw [w]; rfl)

theorem resetHold_settled (w : Settled h t) (on : (h.holds[t]).enabled ≠ []) : resetHold e t h = (holdCleared t h).wantAlloc := by
  unfold resetHold
  refine (if_neg (by rwa [List.isEmpty_iff])).trans ?_
  have cleared : Settled (holdCleared t h) t := w.congr rfl
  change (recomputeReset e t _ _).wantAlloc = _
  split
  · change (recomputeReset e t _ (outAvailable _ (holdCleared t h))).wantAlloc = _
    rw [recomputeReset_settled (cleared.congr outAvailable_asg), outAvailable_wants]
  · change (recomputeReset e t _ (holdCleared t h)).wantAlloc = _
    rw [recomputeReset_settled cleared]

/-- R176, R193: the holds of the transmitters of a list are cleared, each with its notice. -/
theorem resetHolds_idle {l : List Tx} (nd : l.Nodup) (w : ∀ u : Tx, h.asg[u] = none) : ∃ hs a,
    h.each l (resetHold e) = { h with holds := hs, alloc := a, emit := h.emit ++ l.flatMap (holdNotice h) } ∧
      ∀ u ∈ l, hs[u] = Hold.off := by
  have walk : ∃ hs a, h.each l (resetHold e) = { h with holds := hs, alloc := a, emit := h.emit ++ l.flatMap (holdNotice h) } ∧
      ∀ u : Tx, hs[u] = if u ∈ l then Hold.off else h.holds[u] := by
    induction l generalizing h with
    | nil => exact ⟨h.holds, h.alloc, by simp [Hall.each], fun u => by simp⟩
    | cons t l ih =>
      obtain ⟨fresh, nd⟩ := List.nodup_cons.1 nd
      change ∃ hs a, (resetHold e t h).each l (resetHold e) = _ ∧ _
      by_cases on : (h.holds[t]).enabled = []
      · obtain ⟨hs, a, eq, off⟩ := ih nd w
        rw [resetHold_off on, eq]
        refine ⟨hs, a, ?_, fun u => ?_⟩
        · rw [List.flatMap_cons, holdNotice, if_pos on, List.nil_append]
        · rw [off]
          by_cases same : u = t
          · rw [same, if_neg fresh, if_pos List.mem_cons_self, enabled_eq_nil on]
          · exact if_congr (by rw [List.mem_cons, or_iff_right same]) rfl rfl
      · obtain ⟨hs, a, eq, off⟩ := ih (h := (holdCleared t h).wantAlloc) nd w
        have other (u : Tx) (ne : u ≠ t) : ((holdCleared t h).wantAlloc).holds[u] = h.holds[u] := by
          simp [holdCleared, Hall.wantAlloc, Ne.symm ne]
        rw [resetHold_settled (fun a ha => nomatch (w t).symm.trans ha) on, eq]
        refine ⟨hs, a, ?_, fun u => ?_⟩
        · have rest : l.flatMap (holdNotice (holdCleared t h).wantAlloc) = l.flatMap (holdNotice h) :=
            List.flatMap_congr fun u m => by
              rw [holdNotice, other u fun z => fresh (z ▸ m)]
              rfl
          rw [List.flatMap_cons, holdNotice, if_neg on, rest, ← List.append_assoc]
          rfl
        · rw [off]
          by_cases same : u = t
          · rw [same, if_neg fresh, if_pos List.mem_cons_self]
            simp [holdCleared, Hall.wantAlloc]
          · rw [other u same]
            exact if_congr (by rw [List.mem_cons, or_iff_right same]) rfl rfl
  obtain ⟨hs, a, eq, off⟩ := walk
  exact ⟨hs, a, eq, fun u m => by rw [off, if_pos m]⟩

/-- R219: the hall after a HALL reset. -/
theorem resetHall_eq : ∃ (seqs : Tab PathSeq 12) (hs : Tab Hold 12) (a : Bool),
    (∀ u : Tx, (seqs[u]).next = none) ∧ (∀ u : Tx, hs[u] = Hold.off) ∧ resetHall e h =
      { blocksReset e h seqs with
        banks := banksSpent h, running := none, dslot := none, dlast := dlastReset h, holds := hs, alloc := a
        emit := (blocksReset e h seqs).emit ++ spentNotices h ++ planNotices h ++ allTx.flatMap (holdNotice h) } := by
  obtain ⟨seqs, next, eq⟩ := blocksReset_eq (e := e) (h := h)
  have spent := spendRetiring_blank (h := blocksReset e h seqs) rfl rfl
  obtain ⟨hs, a, holds, off⟩ := resetHolds_idle (e := e) (l := allTx) nodup_allTx
    (h := resetPlans (spendRetiring (blocksReset e h seqs))) fun u => by
      rw [resetPlans_eq, spent]
      exact get_tab 12 none u
  refine ⟨seqs, hs, a, next, fun u => off u (mem_allTx u), ?_⟩
  have whole : resetHall e h = (resetPlans (spendRetiring (blocksReset e h seqs))).each allTx (resetHold e) := by
    unfold resetHall
    dsimp only
    rw [eq]
    unfold spendRetiring
    cases retiringBank (blocksReset e h seqs) <;> rfl
  rw [whole, holds, resetPlans_eq, spent]
  rfl

end
end Sys2Proof.Machine
namespace Sys2Proof.Machine

set_option Elab.async false
section
variable {g h k : Hall} {e : Env} {t : Tx} {n : BankNo} {r q : TxRec}

/-! ### The lapse of an adoption condition -/

/-- R207: the time that the condition's raising or lowering may take, in seconds. -/
def lapseLimit (k : Tables) (t : Tx) : Cond → Option Nat
  | .raising _ _ _ => some (k.txs[t]).raise
  | .lowering _ _ _ => some (k.txs[t]).lower
  | _ => none

theorem lapseDue_limit {x : Ms} {rep : CabReply} (hx : (h.adopt[t]).firstReply = some x) (hr : (h.tx[t]).cond = some rep) :
    lapseDue e h t = true ↔ ∃ d, lapseLimit e.k t rep.cond = some d ∧ x + d * 1000 ≤ e.now := by
  unfold lapseDue lapseTime
  rw [hx, hr]
  cases hc : rep.cond <;> simp [lapseLimit, hc]

theorem adoptionLapse_taken (w : unjudged h t = true) (due : lapseDue e h t = true) :
    adoptionLapse t e h = h.setAdopt t fun a => { a with lapsed := true } := if_pos (by rw [w, due]; rfl)

theorem adoptionLapse_idle (w : unjudged h t = false ∨ lapseDue e h t = false) : adoptionLapse t e h = h := by
  refine if_neg ?_
  rcases w with w | w <;> simp [w]

/-! ### Orders handed and dropped -/

theorem overtaken_tx {x : Order} : (overtaken t x h).tx = h.tx := by
  unfold overtaken
  split <;> rfl

theorem setTx_same {f : TxRec → TxRec} : (h.setTx t f).tx[t] = f h.tx[t] := by rw [Hall.setTx_tx, get_upd, if_pos rfl]

theorem overtakeOut_tx {p : Order → Bool} :
    (overtakeOut t p h).tx[t] = { h.tx[t] with out := (h.tx[t]).out.filter fun o => !p o } := by
  cases ho : (h.tx[t]).out with
  | none =>
    have eq : overtakeOut t p h = h := by rw [overtakeOut, ho]
    rw [eq, Option.filter_none, ← ho]
  | some o =>
    by_cases w : p o = true
    · have eq : overtakeOut t p h = overtaken t o (h.setTx t fun r => { r with out := none }) := by
        rw [overtakeOut, ho]
        exact if_pos w
      rw [eq, overtaken_tx, setTx_same, Option.filter_some_neg (by simp [w])]
    · have eq : overtakeOut t p h = h := by
        rw [overtakeOut, ho]
        exact if_neg w
      rw [eq, Option.filter_some_pos (by simp [w]), ← ho]

theorem overtakePend_none {p : Order → Bool} (w : (h.tx[t]).pend = none) : overtakePend t p h = h := by
  unfold overtakePend
  rw [w]

/-- R141: what is to be sent of an order that a LOWER does not overtake. -/
def TxRec.besideLower (r : TxRec) : TxRec := { r with out := r.out.filter fun o => !(o.kind.isRaise || o.kind.isTune) }

/-- R141: with nothing pending, an order goes out, or waits behind the one that is out. -/
def TxRec.take (r : TxRec) (o : Order) : TxRec := if r.out = none then { r with out := some o } else { r with pend := some o }

/-- R141: an order goes out, or waits behind the one that is out. -/
def giveOrder (t : Tx) (o : Order) (h : Hall) : Hall :=
  if (h.tx[t]).out = none then h.setTx t fun r => { r with out := some o } else makePending t o h

theorem giveOrder_tx {o : Order} (w : (h.tx[t]).pend = none) : (giveOrder t o h).tx[t] = (h.tx[t]).take o := by
  unfold TxRec.take
  by_cases free : (h.tx[t]).out = none
  · have eq : giveOrder t o h = h.setTx t fun r => { r with out := some o } := if_pos free
    rw [eq, setTx_same, if_pos free]
  · have eq : giveOrder t o h = makePending t o h := if_neg free
    rw [eq, makePending, overtakePend_none w, setTx_same, if_neg free]

theorem queueLower_eq : queueLower t false h = if (h.tx[t]).lowerInHand then h else giveOrder t (Order.mk0 .lower false false)
    (overtakePend t (fun o => o.kind.isRaise) (overtakeOut t (fun o => o.kind.isRaise || o.kind.isTune) h)) := by
  unfold queueLower
  generalize overtakePend t _ (overtakeOut t _ h) = k
  refine if_congr Iff.rfl rfl ?_
  dsimp only
  unfold giveOrder
  cases (k.tx[t]).out <;> rfl

theorem queueLower_tx (w : (h.tx[t]).pend = none) : (queueLower t false h).tx[t] =
    if (h.tx[t]).lowerInHand then h.tx[t] else (h.tx[t]).besideLower.take (Order.mk0 .lower false false) := by
  have left : (overtakeOut t (fun o => o.kind.isRaise || o.kind.isTune) h).tx[t] = (h.tx[t]).besideLower := overtakeOut_tx
  have none : ((overtakeOut t (fun o => o.kind.isRaise || o.kind.isTune) h).tx[t]).pend = none := by rw [left]; exact w
  have eq := queueLower_eq (t := t) (h := h)
  rw [overtakePend_none none] at eq
  by_cases has : (h.tx[t]).lowerInHand = true
  · have same := eq.trans (if_pos has)
    rw [same, if_pos has]
  · have given := eq.trans (if_neg has)
    rw [given, giveOrder_tx none, left, if_neg has]

theorem handClear_eq (d : txDefined e.k h t = true) : handClear e t h =
    if (h.tx[t]).inHand (fun k => decide (k = .clearTrip)) then h else giveOrder t (Order.mk0 .clearTrip false false) h := by
  unfold handClear giveOrder
  rw [d]
  refine if_congr (by simp) rfl ?_
  dsimp only
  cases (h.tx[t]).out <;> rfl

theorem handClear_tx (d : txDefined e.k h t = true) (w : (h.tx[t]).pend = none) : (handClear e t h).tx[t] =
    if (h.tx[t]).inHand (fun k => decide (k = .clearTrip)) then h.tx[t]
    else (h.tx[t]).take (Order.mk0 .clearTrip false false) := by
  have eq := handClear_eq d
  by_cases has : (h.tx[t]).inHand (fun k => decide (k = .clearTrip)) = true
  · have same := eq.trans (if_pos has)
    rw [same, if_pos has]
  · have given := eq.trans (if_neg has)
    rw [given, giveOrder_tx w, if_neg has]

/-- R155: what a SECTION reset leaves in hand of the orders of `r`: a LOWER that is out, an order that was sent, and what the reset
itself hands. -/
structure OrdersLeft (r q : TxRec) : Prop where
  lower : ∀ o, r.out = some o → o.kind = .lower → q.out = some o
  out : ∀ o, q.out = some o → o.sentAt.isSome = true ∨ o.kind = .lower ∨ o.kind = .clearTrip
  pend : ∀ o, q.pend = some o → q.out ≠ none ∧ (o.kind = .lower ∨ o.kind = .clearTrip)

theorem OrdersLeft.besideLower (w : OrdersLeft r q) (none : q.pend = none) : OrdersLeft r q.besideLower where
  lower o ho lo := by
    have kept := w.lower o ho lo
    unfold TxRec.besideLower
    rw [kept]
    simp [Option.filter, lo, OrderKind.isRaise, OrderKind.isTune]
  out o ho := w.out o (Option.filter_eq_some_iff.1 ho).1
  pend o ho := by
    have : q.pend = some o := ho
    rw [none] at this
    cases this

/-- An order of the reset's own is taken in hand where no LOWER is lost by it. -/
theorem OrdersLeft.take {o : Order} (w : OrdersLeft r q) (none : q.pend = none) (kind : o.kind = .lower ∨ o.kind = .clearTrip) :
    OrdersLeft r (q.take o) := by
  unfold TxRec.take
  split
  · next free =>
    refine ⟨fun x hx lo => ?_, fun x hx => ?_, fun x hx => ?_⟩
    · have kept := w.lower x hx lo
      rw [free] at kept
      cases kept
    · obtain rfl : o = x := Option.some.inj hx
      exact .inr kind
    · have : q.pend = some x := hx
      rw [none] at this
      cases this
  · next busy =>
    refine ⟨w.lower, w.out, fun x hx => ?_⟩
    obtain rfl : o = x := Option.some.inj hx
    exact ⟨busy, kind⟩

theorem take_inHand {o : Order} {p : OrderKind → Bool} (w : p o.kind = true) : (q.take o).inHand p = true := by
  unfold TxRec.take TxRec.inHand
  split <;> simp [w]

/-! ### SECTION-RESET, the Supervisor's part -/

/-- R155, R175: a transmitter's record at the start of a SECTION reset. -/
def TxRec.section (r : TxRec) : TxRec :=
  { r with
    pend := none, out := r.out.filter fun o => o.sentAt.isSome || decide (o.kind = .lower)
    window := [], before := if r.st = .unreachable then none else r.before, rcv := Recovery.idle }

/-- R155: the orders, the window and the recovery are dropped. -/
def sectionStart (t : Tx) (h : Hall) : Hall :=
  (emptyWindow t (dropPending t h)).setTx t fun r =>
    { r with before := if r.st = .unreachable then none else r.before, rcv := Recovery.idle }

theorem sectionStart_tx (u : Tx) : (sectionStart t h).tx[u] = if t = u then (h.tx[u]).section else h.tx[u] := by
  unfold sectionStart emptyWindow windowLeave dropPending
  simp only [Hall.setTx_tx, Hall.mapAsg_tx, upd_upd, get_upd]
  split
  · next eq =>
    subst eq
    rfl
  · rfl

theorem sectionStart_ends {d : Tx → Prop} : Ends d h (sectionStart t h) := by
  unfold sectionStart emptyWindow windowLeave dropPending
  refine Ends.setTx (Ends.setTx (Ends.mapAsg (Ends.setTx (Ends.refl d h)) fun _ => ?_))
  rfl

theorem sectionStart_same : (sectionStart t h).emit = h.emit ∧ (sectionStart t h).faults = h.faults ∧
    (sectionStart t h).sense = h.sense ∧ (sectionStart t h).path = h.path ∧ (sectionStart t h).idle = h.idle ∧
    (sectionStart t h).holds = h.holds := ⟨rfl, rfl, rfl, rfl, rfl, rfl⟩

theorem section_left : OrdersLeft r r.section where
  lower o ho lo := by
    unfold TxRec.section
    rw [ho]
    simp [Option.filter, lo]
  out o ho := by
    obtain ⟨_, w⟩ := Option.filter_eq_some_iff.1 ho
    rw [Bool.or_eq_true, decide_eq_true_eq] at w
    exact w.imp_right .inl
  pend o ho := nomatch ho

theorem sectionTx_eq : sectionTx e t h =
    if (h.tx[t]).st = .raising ∨ (h.tx[t]).st = .onAir then handLower e t false (sectionStart t h)
    else if (h.tx[t]).st = .tripped then handClear e t (sectionStart t h)
    else sectionStart t h := by
  unfold sectionTx sectionStart
  simp only [Bool.or_eq_true, decide_eq_true_eq]

theorem sectionTx_quiet : Quiet (· = t) (sectionStart t h) (sectionTx e t h) := by
  rw [sectionTx_eq]
  have x := Quiet.refl (· = t) (sectionStart t h)
  exact .ite (x.handLower rfl) (.ite (x.handClear rfl) x)

theorem handClear_ends {d : Tx → Prop} (x : Ends d g h) : Ends d g (handClear e t h) := by
  unfold handClear
  split
  · exact x
  · dsimp only
    split
    · exact x.setTx
    · exact (overtakePend_ends x).setTx

theorem sectionTx_ends {d : Tx → Prop} : Ends d h (sectionTx e t h) := by
  have x : Ends d h (sectionStart t h) := sectionStart_ends
  rw [sectionTx_eq]
  split
  · exact handLower_ends x
  · split
    · exact handClear_ends x
    · exact x

/-- R140: a radiating transmitter's LOWER is queued. -/
theorem handLower_raised (d : txDefined e.k h t = true) (st : (h.tx[t]).st = .raising ∨ (h.tx[t]).st = .onAir) :
    handLower e t false h = queueLower t false h := by
  unfold handLower
  rw [d]
  rcases st with st | st
  · rw [st]
    rfl
  · rw [st]
    rfl

/-- R155: the orders in hand after the Supervisor's part, by the transmitter's state. -/
structure SectionOrders (r q : TxRec) : Prop extends OrdersLeft r q where
  raised : r.st = .raising ∨ r.st = .onAir → q.lowerInHand = true
  tripped : r.st = .tripped → q.inHand (fun k => decide (k = .clearTrip)) = true
  none : r.st ≠ .raising → r.st ≠ .onAir → r.st ≠ .tripped → q.pend = none

theorem sectionTx_orders (d : txDefined e.k h t = true) : SectionOrders h.tx[t] (sectionTx e t h).tx[t] := by
  have start : (sectionStart t h).tx[t] = (h.tx[t]).section := (sectionStart_tx t).trans (if_pos rfl)
  have none : ((sectionStart t h).tx[t]).pend = Option.none := by rw [start]; rfl
  have left : OrdersLeft h.tx[t] (sectionStart t h).tx[t] := by rw [start]; exact section_left
  have d' : txDefined e.k (sectionStart t h) t = true := by
    unfold txDefined at d ⊢
    rw [start]
    exact d
  have st : ((sectionStart t h).tx[t]).st = (h.tx[t]).st := by rw [start]; rfl
  rw [sectionTx_eq]
  by_cases raised : (h.tx[t]).st = .raising ∨ (h.tx[t]).st = .onAir
  · rw [if_pos raised, handLower_raised d' (by rw [st]; exact raised), queueLower_tx none]
    have quiet : (h.tx[t]).st ≠ .tripped := by rcases raised with w | w <;> rw [w] <;> decide
    split
    · next has => exact ⟨left, fun _ => has, fun w => absurd w quiet, fun w w' _ => (raised.elim w w').elim⟩
    · exact ⟨(left.besideLower none).take none (.inl rfl), fun _ => take_inHand rfl, fun w => absurd w quiet,
        fun w w' _ => (raised.elim w w').elim⟩
  · rw [if_neg raised]
    by_cases tripped : (h.tx[t]).st = .tripped
    · rw [if_pos tripped, handClear_tx d' none]
      split
      · next has => exact ⟨left, fun w => absurd w raised, fun _ => has, fun _ _ w => absurd tripped w⟩
      · exact ⟨left.take none (.inr rfl), fun w => absurd w raised, fun _ => take_inHand rfl, fun _ _ w => absurd tripped w⟩
    · rw [if_neg tripped]
      exact ⟨left, fun w => absurd w raised, fun w => absurd w tripped, fun _ _ _ => none⟩

end
end Sys2Proof.Machine
namespace Sys2Proof.Machine

set_option Elab.async false
section
variable {g h k : Hall} {e : Env} {t : Tx} {n : BankNo} {r q : TxRec} {a : Asg}

/-! ### An assignment that is ABORTED -/

/-- R76: an assignment ENDING already takes the outcome ABORTED. -/
theorem abortAsg_ending (ha : h.asg[t] = some a) (hp : a.phase.isEnding = true) :
    abortAsg e t h = h.setAsg t (some { a with phase := .ending .aborted .nothing }) := by
  unfold abortAsg
  rw [ha]
  exact if_pos hp

theorem abortAsg_running (ha : h.asg[t] = some a) (hp : a.phase.isEnding = false) :
    abortAsg e t h = endAsg e t .aborted .nothing h := by
  unfold abortAsg
  rw [ha]
  exact if_neg (by rw [hp]; decide)

theorem abortAsg_none (ha : h.asg[t] = none) : abortAsg e t h = h := by
  unfold abortAsg
  rw [ha]

theorem abortAsg_asg : (abortAsg e t h).asg[t] = none ∨
    ∃ a b, h.asg[t] = some a ∧ (abortAsg e t h).asg[t] = some b ∧ b.phase = .ending .aborted .nothing ∧ b.sched = a.sched := by
  cases ha : h.asg[t] with
  | none => rw [abortAsg_none ha]; exact .inl ha
  | some a =>
    cases hp : a.phase.isEnding with
    | true =>
      rw [abortAsg_ending ha hp]
      refine .inr ⟨a, { a with phase := .ending .aborted .nothing }, rfl, ?_, rfl, rfl⟩
      rw [Hall.setAsg_asg, get_upd, if_pos rfl]
    | false =>
      rw [abortAsg_running ha hp]
      refine (endAsg_asg ha hp).imp_right fun w => ?_
      obtain ⟨b, hb, core⟩ := Option.map_eq_some_iff.1 w
      exact ⟨a, b, rfl, hb, congrArg Prod.fst core, congrArg (fun c => c.2.1) core⟩

theorem abortAsg_ends {d : Tx → Prop} (x : Ends d g h) (w : d t) : Ends d g (abortAsg e t h) := by
  unfold abortAsg
  split
  · exact x
  · split
    · exact x.setAsg w
    · exact endAsg_ends x w

theorem needsLower_body (w : q.body = r.body) : q.needsLower = r.needsLower := by
  have st : q.st = r.st := congrArg (·.st) w
  have before : q.before = r.before := congrArg (·.before) w
  rw [TxRec.needsLower, st, before, TxRec.needsLower]

theorem endBegun_quiet {b : Asg} : Quiet (· = t) h (endBegun t b h) := (Quiet.refl _ h).endBegun rfl

/-- R66: an end, once its phase is written. -/
theorem endAsg_eq {oc : EndOutcome} (ha : h.asg[t] = some a) (hp : a.phase.isEnding = false) : endAsg e t oc .nothing h =
    if ((endBegun t (a.ended oc .nothing) h).tx[t]).needsLower = false then completeEnd e t (endBegun t (a.ended oc .nothing) h)
    else if ((endBegun t (a.ended oc .nothing) h).tx[t]).lowerInHand = true ∨
        ((endBegun t (a.ended oc .nothing) h).tx[t]).st = .lowering then endBegun t (a.ended oc .nothing) h
    else handLower e t false (endBegun t (a.ended oc .nothing) h) := by
  have z := endBegun_asg t (a.ended oc .nothing) h
  rw [endAsg_begun ha hp]
  generalize endBegun t (a.ended oc .nothing) h = k at z
  unfold tryEnd
  rw [z]
  refine (if_neg (by simp [Asg.ended, Phase.isEnding])).trans (if_congr ?_ rfl (if_congr ?_ rfl rfl))
  · rw [show (a.ended oc .nothing).lowerOver = false from rfl, Bool.false_or, Bool.not_eq_true']
  · rw [Bool.or_eq_true, decide_eq_true_eq]

/-- R66: an end that needs no LOWER completes at once. -/
theorem endAsg_completes {oc : EndOutcome} (ha : h.asg[t] = some a) (hp : a.phase.isEnding = false)
    (quiet : (h.tx[t]).needsLower = false) :
    endAsg e t oc .nothing h = completeEnd e t (endBegun t (a.ended oc .nothing) h) := by
  rw [endAsg_eq ha hp]
  exact if_pos ((needsLower_body (endBegun_quiet.body t)).trans quiet)

theorem abortAsg_gone (run : ∀ a, h.asg[t] = some a → a.phase.isEnding = false) (quiet : (h.tx[t]).needsLower = false) :
    (abortAsg e t h).asg[t] = none := by
  cases ha : h.asg[t] with
  | none => rw [abortAsg_none ha]; exact ha
  | some a =>
    rw [abortAsg_running ha (run a ha), endAsg_completes ha (run a ha) quiet]
    exact completeEnd_asg (endBegun_asg t (a.ended .aborted .nothing) h) rfl

/-! ### The orders in hand at an abort -/

/-- R66: an order whose end is not handed to the engine; a LOWER as it was. -/
def Order.cut (o : Order) : Order := if decide (o.kind ≠ .lower) then { o with handBack := false } else o

/-- R66: what is in hand runs on. -/
def TxRec.cut (r : TxRec) : TxRec := { r with out := r.out.map Order.cut, pend := r.pend.map Order.cut }

theorem cut_kind {o : Order} : o.cut.kind = o.kind ∧ o.cut.sentAt = o.sentAt := by
  unfold Order.cut
  split <;> exact ⟨rfl, rfl⟩

theorem cut_inHand {p : OrderKind → Bool} : r.cut.inHand p = r.inHand p := by
  unfold TxRec.inHand TxRec.cut
  have any (x : Option Order) : (x.map Order.cut).any (fun o => p o.kind) = x.any fun o => p o.kind := by
    cases x with
    | none => rfl
    | some o => exact congrArg p cut_kind.1
  rw [any, any]

theorem withdrawRaise_left (w : OrdersLeft r (h.tx[t])) : withdrawRaise t h = h := by
  have out : (h.tx[t]).out.filter (fun o => !(o.kind.isRaise && o.sentAt.isNone && o.engine)) = (h.tx[t]).out := by
    cases ho : (h.tx[t]).out with
    | none => rfl
    | some o =>
      refine Option.filter_some_pos ?_
      rcases w.out o ho with sent | kind | kind
      · obtain ⟨x, hx⟩ := Option.isSome_iff_exists.1 sent
        simp [hx]
      · simp [kind, OrderKind.isRaise]
      · simp [kind, OrderKind.isRaise]
  have pend : (h.tx[t]).pend.filter (fun o => !(o.kind.isRaise && o.engine)) = (h.tx[t]).pend := by
    cases ho : (h.tx[t]).pend with
    | none => rfl
    | some o =>
      refine Option.filter_some_pos ?_
      rcases (w.pend o ho).2 with kind | kind <;> simp [kind, OrderKind.isRaise]
  unfold withdrawRaise Hall.setTx
  rw [upd_self]
  rw [out, pend]

theorem endBegun_tx {b : Asg} (w : OrdersLeft r (h.tx[t])) : (endBegun t b h).tx[t] = (h.tx[t]).cut := by
  have same := withdrawRaise_left (h := h.setAsg t (some b)) w
  have cancelled := ((Quiet.refl (fun _ => False) (dropHandBack t (h.setAsg t (some b)))).cancelSeq (t := t)).tx t id
  unfold endBegun
  rw [same, cancelled]
  unfold dropHandBack noHandBack
  rw [setTx_same]
  rfl

/-- R66, R155: where a LOWER that is needed is in hand, an abort hands none. -/
theorem abortAsg_tx (w : OrdersLeft r (h.tx[t]))
    (low : (h.tx[t]).needsLower = true → (h.tx[t]).lowerInHand = true ∨ (h.tx[t]).st = .lowering) :
    (abortAsg e t h).tx[t] = h.tx[t] ∨ (abortAsg e t h).tx[t] = (h.tx[t]).cut := by
  cases ha : h.asg[t] with
  | none => rw [abortAsg_none ha]; exact .inl rfl
  | some a =>
    cases hp : a.phase.isEnding with
    | true => rw [abortAsg_ending ha hp]; exact .inl rfl
    | false =>
      have cut := endBegun_tx (b := a.ended .aborted .nothing) w
      have z := endBegun_asg t (a.ended .aborted .nothing) h
      rw [abortAsg_running ha hp]
      cases need : (h.tx[t]).needsLower with
      | false =>
        have done := ((Quiet.refl (fun _ => False) _).completeEnd (e := e) z rfl).tx t id
        rw [endAsg_completes ha hp need, done]
        exact .inr cut
      | true =>
        have kept : endAsg e t .aborted .nothing h = endBegun t (a.ended .aborted .nothing) h := by
          rw [endAsg_eq ha hp]
          refine (if_neg ?_).trans (if_pos ?_)
          · rw [cut, Bool.not_eq_false]
            exact need
          · rw [cut, TxRec.lowerInHand, cut_inHand]
            exact low need
        rw [kept]
        exact .inr cut

/-- R155: the orders in hand, once the assignment has ended. -/
theorem OrdersLeft.cut (w : OrdersLeft r q) : OrdersLeft r q.cut where
  lower o ho lo := by
    have kept : q.cut.out = some o.cut := by rw [TxRec.cut, w.lower o ho lo]; rfl
    rw [kept, Order.cut, if_neg (by simp [lo])]
  out o ho := by
    obtain ⟨x, hx, rfl⟩ := Option.map_eq_some_iff.1 ho
    rw [cut_kind.1, cut_kind.2]
    exact w.out x hx
  pend o ho := by
    obtain ⟨x, hx, rfl⟩ := Option.map_eq_some_iff.1 ho
    obtain ⟨busy, kind⟩ := w.pend x hx
    rw [cut_kind.1]
    exact ⟨fun none => busy (Option.map_eq_none_iff.1 none), kind⟩

theorem SectionOrders.cut (w : SectionOrders r q) : SectionOrders r q.cut where
  toOrdersLeft := w.toOrdersLeft.cut
  raised st := by rw [TxRec.lowerInHand, cut_inHand]; exact w.raised st
  tripped st := by rw [cut_inHand]; exact w.tripped st
  none st st' st'' := by rw [TxRec.cut, w.none st st' st'']; rfl

/-! ### SECTION-RESET, the engine's part and the holds -/

/-- R155: a transmitter out of contact has lost its state before loss, and radiates no longer. -/
theorem section_needsLower : r.section.needsLower = isRad r.st := by
  unfold TxRec.needsLower TxRec.section
  cases st : r.st <;> simp [isRad]

/-- R155: after the Supervisor's part, what is in hand lowers a radiating transmitter. -/
theorem sectionTx_needs (d : txDefined e.k h t = true) (need : ((sectionTx e t h).tx[t]).needsLower = true) :
    ((sectionTx e t h).tx[t]).lowerInHand = true ∨ ((sectionTx e t h).tx[t]).st = .lowering := by
  have start : (sectionStart t h).tx[t] = (h.tx[t]).section := (sectionStart_tx t).trans (if_pos rfl)
  have body : ((sectionTx e t h).tx[t]).body = (h.tx[t]).section.body := by rw [← start]; exact sectionTx_quiet.body t
  have st : ((sectionTx e t h).tx[t]).st = (h.tx[t]).st := congrArg (·.st) body
  rw [needsLower_body body] at need
  rw [section_needsLower] at need
  rw [st]
  have orders := sectionTx_orders d
  cases q : (h.tx[t]).st with
  | raising => exact .inl (orders.raised (.inl q))
  | onAir => exact .inl (orders.raised (.inr q))
  | lowering => exact .inr rfl
  | _ => rw [q] at need; cases need

/-- R76, R155: the Supervisor's part and the engine's. -/
def sectionEnds (e : Env) (t : Tx) (h : Hall) : Hall := dropStack t (fun _ => true) .expired (abortAsg e t (sectionTx e t h))

theorem sectionEnds_ends : Ends (· = t) h (abortAsg e t (sectionTx e t h)) := abortAsg_ends sectionTx_ends rfl

theorem sectionEnds_quiet : Quiet (· = t) (sectionStart t h) (sectionEnds e t h) := (sectionTx_quiet.abortAsg rfl).dropStack

theorem sectionEnds_asg : (sectionEnds e t h).asg = (abortAsg e t (sectionTx e t h)).asg := dropStack_asg

theorem sectionEnds_stack (u : Tx) : (sectionEnds e t h).stack[u] = if t = u then [] else h.stack[u] := by
  rw [sectionEnds, dropStack_stack, sectionEnds_ends.stack]
  exact if_congr Iff.rfl (List.filter_eq_nil_iff.2 fun _ _ => by decide) rfl

theorem sectionEnds_deferral : (sectionEnds e t h).deferral = h.deferral := by
  rw [sectionEnds, dropStack_deferral, sectionEnds_ends.deferral]

theorem sectionEnds_expired {i : StackItem} (m : i ∈ h.stack[t]) : .expired i.item.occ ∈ (sectionEnds e t h).emit := by
  refine dropStack_emit (i := i) ?_ rfl
  rw [sectionEnds_ends.stack]
  exact m

theorem sectionEnds_aborted {a : Asg} (ha : (sectionEnds e t h).asg[t] = some a) : a.phase = .ending .aborted .nothing := by
  have eq : (abortAsg e t (sectionTx e t h)).asg[t] = some a := by rw [← sectionEnds_asg]; exact ha
  rcases abortAsg_asg (e := e) (t := t) (h := sectionTx e t h) with none | ⟨_, b, _, hb, phase, _⟩
  · rw [none] at eq
    cases eq
  · obtain rfl := Option.some.inj (hb.symm.trans eq)
    exact phase

theorem sectionEnds_settled : Settled (sectionEnds e t h) t := fun a ha => by rw [sectionEnds_aborted ha]; rfl

theorem sectionTx_body : ((sectionTx e t h).tx[t]).body = (h.tx[t]).section.body := by
  have start : (sectionStart t h).tx[t] = (h.tx[t]).section := (sectionStart_tx t).trans (if_pos rfl)
  rw [← start]
  exact sectionTx_quiet.body t

theorem sectionEnds_gone (run : ∀ a, h.asg[t] = some a → a.phase.isEnding = false) (quiet : isRad (h.tx[t]).st = false) :
    (sectionEnds e t h).asg[t] = none := by
  rw [sectionEnds_asg]
  refine abortAsg_gone (fun a ha => ?_) ((needsLower_body sectionTx_body).trans (section_needsLower.trans quiet))
  have core := (sectionTx_ends (e := e) (t := t) (h := h) (d := fun _ => False)).asg t id
  rw [ha] at core
  obtain ⟨b, hb, same⟩ := Option.map_eq_some_iff.1 core.symm
  have phase : b.phase = a.phase := congrArg Prod.fst same
  rw [← phase]
  exact run b hb

theorem sectionEnds_orders (d : txDefined e.k h t = true) : SectionOrders h.tx[t] (sectionEnds e t h).tx[t] := by
  have left := sectionTx_orders d
  have same : (sectionEnds e t h).tx[t] = (abortAsg e t (sectionTx e t h)).tx[t] :=
    ((Quiet.refl (fun _ => False) _).dropStack).tx t id
  rw [same]
  rcases abortAsg_tx left.toOrdersLeft (sectionTx_needs d) with q | q
  · rw [q]
    exact left
  · rw [q]
    exact left.cut

/-- R176: a reset of the holds of a transmitter whose assignment is gone or ENDING. -/
theorem resetHold_hall (w : Settled h t) : ∃ hs a em, resetHold e t h = { h with holds := hs, alloc := a, emit := em } ∧
    hs = upd h.holds t (fun _ => Hold.off) ∧ h.emit <+: em := by
  by_cases on : (h.holds[t]).enabled = []
  · refine ⟨h.holds, h.alloc, h.emit, resetHold_off on, ?_, List.prefix_rfl⟩
    exact (upd_self _ _ _ (enabled_eq_nil on).symm).symm
  · exact ⟨_, _, _, resetHold_settled w on, rfl, List.prefix_append _ _⟩

theorem cancelSeq_hall : ∃ seqs queue, cancelSeq t h = h.setPath fun p => { p with seqs := seqs, queue := queue } := by
  unfold cancelSeq
  dsimp only
  split
  · exact ⟨h.path.seqs, h.path.queue, rfl⟩
  · split <;> exact ⟨_, _, rfl⟩

/-- R76, R118: the engine's and the Path Controller's parts. -/
def sectionDone (e : Env) (t : Tx) (h : Hall) : Hall := cancelSeq t ((sectionEnds e t h).setIdle t .stopped)

theorem sectionDone_hall : ∃ seqs queue, sectionDone e t h = { sectionEnds e t h with
    idle := upd (sectionEnds e t h).idle t fun _ => .stopped
    path := { (sectionEnds e t h).path with seqs := seqs, queue := queue } } := by
  unfold sectionDone
  generalize sectionEnds e t h = k
  exact cancelSeq_hall (h := k.setIdle t .stopped)

theorem sectionDone_settled : Settled (sectionDone e t h) t := by
  obtain ⟨seqs, queue, eq⟩ := sectionDone_hall (e := e) (t := t) (h := h)
  rw [eq]
  exact sectionEnds_settled.congr rfl

theorem resetSection_eq : resetSection t e h = if (h.changes.head?.any fun c => (carriers h c).contains t) = true then
    recheckHead (resetHold e t (sectionDone e t h)) else resetHold e t (sectionDone e t h) := rfl

/-- R219: what the rest of a SECTION reset does. -/
theorem resetSection_hall : ∃ cs hs a em, resetSection t e h =
    { sectionDone e t h with holds := hs, alloc := a, emit := em, changes := cs } ∧
    hs = upd (sectionDone e t h).holds t (fun _ => Hold.off) ∧ (sectionDone e t h).emit <+: em := by
  obtain ⟨hs, a, em, held, holds, grows⟩ := resetHold_hall (e := e) (sectionDone_settled (e := e) (t := t) (h := h))
  have eq := resetSection_eq (e := e) (t := t) (h := h)
  rw [held] at eq
  generalize sectionDone e t h = k at eq holds grows
  split at eq
  · exact ⟨_, hs, a, em, eq, holds, grows⟩
  · exact ⟨k.changes, hs, a, em, eq, holds, grows⟩

/-- R219: the fields of the hall after a SECTION reset. -/
theorem resetSection_same : (resetSection t e h).asg = (sectionEnds e t h).asg ∧ (resetSection t e h).stack = (sectionEnds e t h).stack ∧
    (resetSection t e h).tx = (sectionEnds e t h).tx ∧ (resetSection t e h).deferral = (sectionEnds e t h).deferral ∧
    (resetSection t e h).path.xpt = (sectionEnds e t h).path.xpt ∧ (resetSection t e h).faults = (sectionEnds e t h).faults ∧
    (resetSection t e h).sense = (sectionEnds e t h).sense ∧
    (resetSection t e h).idle = upd (sectionEnds e t h).idle t (fun _ => .stopped) ∧
    (resetSection t e h).holds = upd (sectionEnds e t h).holds t (fun _ => Hold.off) ∧
    (sectionEnds e t h).emit <+: (resetSection t e h).emit := by
  obtain ⟨cs, hs, a, em, eq, holds, grows⟩ := resetSection_hall (e := e) (t := t) (h := h)
  obtain ⟨seqs, queue, done⟩ := sectionDone_hall (e := e) (t := t) (h := h)
  rw [done] at eq holds grows
  rw [eq]
  generalize sectionEnds e t h = k at holds grows
  exact ⟨rfl, rfl, rfl, rfl, rfl, rfl, rfl, rfl, holds, grows⟩

theorem sectionReset_notFound {s : State} (un : (s.tables.txs[t]).defined = false) (un' : (s.hall.tx[t]).undef = false) :
    sectionReset (some t) s = s.refuse .notFound := if_pos (by rw [txDefined, un, un']; rfl)

theorem sectionReset_ok {s : State} {tag : Nat} (d : txDefined s.tables s.hall t = true) :
    (sectionReset (some t) s).reply tag .sectionReset =
      ({ s with hall := resetSection t s.env s.hall }.say tag (some .sectionReset) .accepted .nothing) := by
  have eq : sectionReset (some t) s = (s.onHall (resetSection t)).ans .accepted .nothing := if_neg (by rw [d]; decide)
  rw [eq]
  rfl

end
end Sys2Proof.Machine
namespace Sys2Proof.Machine

set_option Elab.async false
section
variable {g h k : Hall} {e : Env} {t : Tx} {o : Out} {n : BankNo} {a b : Asg}

/-! ### STORE-ERASE: definitions and banks -/

/-- R156: a transmitter that the tables define is undefine pending. -/
theorem undefAll_hall {k : Tables} : ∃ v, undefAll k h = { h with tx := v } ∧
    ∀ u : Tx, v[u] = { h.tx[u] with undef := (k.txs[u]).defined || (h.tx[u]).undef } := by
  obtain ⟨v, eq, get⟩ := each_setTx (f := fun t r => { r with undef := (k.txs[t]).defined || r.undef }) (h := h)
  refine ⟨v, Eq.trans ?_ eq, get⟩
  refine congrArg (h.each allTx) (funext fun t => funext fun x => ?_)
  split
  · next d => simp only [d, Bool.true_or]
  · next d =>
    simp only [d, Bool.false_or]
    unfold Hall.setTx
    rw [upd_self]
    rfl

theorem eraseBank_hall : ∃ bs em, (if (h.banks[n]).st = .empty then h else bankNotice n (h.setBank n fun _ => Bank.blank)) =
      { h with banks := bs, emit := em } ∧ h.emit <+: em ∧
    (∀ m : BankNo, bs[m] = if m = n ∧ (h.banks[m]).st ≠ .empty then Bank.blank else h.banks[m]) ∧
    ((h.banks[n]).st ≠ .empty → .bank n .empty Bank.blank.label Bank.blank.start ∈ em) := by
  by_cases st : (h.banks[n]).st = .empty
  · refine ⟨h.banks, h.emit, if_pos st, List.prefix_rfl, fun m => (if_neg ?_).symm, fun w => absurd st w⟩
    rintro ⟨rfl, w⟩
    exact w st
  · refine ⟨_, _, if_neg st, List.prefix_append _ _, fun m => ?_, fun _ => List.mem_append_right _ ?_⟩
    · rw [Hall.setBank_banks, get_upd]
      by_cases eq : n = m
      · subst eq
        rw [if_pos rfl, if_pos ⟨rfl, st⟩]
      · rw [if_neg eq, if_neg fun w => eq w.1.symm]
    · rw [List.mem_singleton, setBank_bank_same]
      rfl

/-- R19: every bank is EMPTY, with its notice where it was not. -/
theorem eraseBanks_hall : ∃ bs em, eraseBanks h = { h with banks := bs, emit := em } ∧ h.emit <+: em ∧
    ∀ m : BankNo, ((h.banks[m]).st = .empty → bs[m] = h.banks[m]) ∧
      ((h.banks[m]).st ≠ .empty → bs[m] = Bank.blank ∧ .bank m .empty Bank.blank.label Bank.blank.start ∈ em) := by
  have walk (l : List BankNo) (h : Hall) : ∃ bs em,
      (h.each l fun n h => if (h.banks[n]).st = .empty then h else bankNotice n (h.setBank n fun _ => Bank.blank)) =
        { h with banks := bs, emit := em } ∧ h.emit <+: em ∧
      ∀ m : BankNo, (bs[m] = if m ∈ l ∧ (h.banks[m]).st ≠ .empty then Bank.blank else h.banks[m]) ∧
        (m ∈ l → (h.banks[m]).st ≠ .empty → .bank m .empty Bank.blank.label Bank.blank.start ∈ em) := by
    induction l generalizing h with
    | nil => exact ⟨h.banks, h.emit, rfl, List.prefix_rfl, fun m => ⟨(if_neg fun w => nomatch w.1).symm, fun w => nomatch w⟩⟩
    | cons n l ih =>
      obtain ⟨bs₁, em₁, eq₁, grows₁, get₁, told₁⟩ := eraseBank_hall (h := h) (n := n)
      obtain ⟨bs, em, eq, grows, rest⟩ := ih { h with banks := bs₁, emit := em₁ }
      refine ⟨bs, em, ?_, grows₁.trans grows, fun m => ?_⟩
      · change Hall.each (if _ then _ else _) l _ = _
        rw [eq₁, eq]
      · obtain ⟨get, told⟩ := rest m
        have first : bs₁[m] = if m = n ∧ (h.banks[m]).st ≠ .empty then Bank.blank else h.banks[m] := get₁ m
        by_cases here : m = n ∧ (h.banks[m]).st ≠ .empty
        · obtain ⟨rfl, st⟩ := here
          rw [if_pos ⟨rfl, st⟩] at first
          refine ⟨?_, fun _ _ => grows.subset (told₁ st)⟩
          rw [if_pos ⟨List.mem_cons_self, st⟩]
          dsimp only at get
          rw [get, first]
          exact ite_self _
        · rw [if_neg here] at first
          dsimp only at get told
          rw [first] at get told
          rw [get]
          refine ⟨if_congr (and_congr_left fun st => ?_) rfl rfl, fun mem st => told ?_ st⟩
          · rw [List.mem_cons, or_iff_right fun eq => here ⟨eq, st⟩]
          · exact (List.mem_cons.1 mem).resolve_left fun eq => here ⟨eq, st⟩
  obtain ⟨bs, em, eq, grows, rest⟩ := walk allBanks h
  refine ⟨bs, em, eq, grows, fun m => ?_⟩
  obtain ⟨get, told⟩ := rest m
  exact ⟨fun st => get.trans (if_neg fun w => w.2 st), fun st => ⟨get.trans (if_pos ⟨mem_allBanks m, st⟩), told (mem_allBanks m) st⟩⟩

/-! ### STORE-ERASE: assignments -/

/-- R19: T's SCHEDULE assignment ends ABORTED. -/
def abortOne (e : Env) (t : Tx) (h : Hall) : Hall := if (h.asg[t]).any fun a => a.sched.isSome then abortAsg e t h else h

/-- T has a SCHEDULE assignment. -/
def Scheduled (h : Hall) (t : Tx) : Prop := ∃ a, h.asg[t] = some a ∧ a.sched ≠ none

theorem scheduled_iff : ((h.asg[t]).any fun a => a.sched.isSome) = true ↔ Scheduled h t := by
  rw [Option.any_eq_true]
  exact exists_congr fun a => and_congr_right fun _ => Option.isSome_iff_ne_none

theorem scheduled_core (w : (k.asg[t]).map Asg.core = (h.asg[t]).map Asg.core) : Scheduled k t ↔ Scheduled h t := by
  have one {k h : Hall} (w : (k.asg[t]).map Asg.core = (h.asg[t]).map Asg.core) (s : Scheduled k t) : Scheduled h t := by
    obtain ⟨a, ha, sched⟩ := s
    rw [ha] at w
    obtain ⟨b, hb, core⟩ := Option.map_eq_some_iff.1 w.symm
    exact ⟨b, hb, by rw [core_sched core]; exact sched⟩
  exact ⟨one w, one w.symm⟩

/-- R76: the assignment is gone, or ENDING with the outcome ABORTED. -/
def Aborted (h : Hall) (t : Tx) : Prop := h.asg[t] = none ∨ ∃ a, h.asg[t] = some a ∧ a.phase = .ending .aborted .nothing

theorem aborted_core (w : (k.asg[t]).map Asg.core = (h.asg[t]).map Asg.core) (v : Aborted h t) : Aborted k t := by
  rcases v with none | ⟨a, ha, phase⟩
  · rw [none] at w
    exact .inl (Option.map_eq_none_iff.1 w)
  · rw [ha] at w
    obtain ⟨b, hb, core⟩ := Option.map_eq_some_iff.1 w
    exact .inr ⟨b, hb, (congrArg Prod.fst core).trans phase⟩

theorem abortOne_ends {d : Tx → Prop} (w : Scheduled h t → d t) : Ends d h (abortOne e t h) := by
  unfold abortOne
  split
  · next s => exact abortAsg_ends (Ends.refl d h) (w (scheduled_iff.1 s))
  · exact Ends.refl d h

theorem abortOne_quiet (x : Quiet (fun _ => True) g h) : Quiet (fun _ => True) g (abortOne e t h) := .ite (x.abortAsg trivial) x

theorem abortOne_eq (w : Scheduled h t) : abortOne e t h = abortAsg e t h := if_pos (scheduled_iff.2 w)

theorem abortOne_aborted (w : Scheduled h t) : Aborted (abortOne e t h) t := by
  rw [abortOne_eq w]
  exact abortAsg_asg.imp_right fun ⟨_, b, _, hb, phase, _⟩ => ⟨b, hb, phase⟩

theorem abortScheduled_eq : abortScheduled e h = h.each allTx (abortOne e) := rfl

/-- An end of T's assignment, if it is not ENDING, completes at once. -/
def EndsAtOnce (h : Hall) (t : Tx) : Prop := (∀ a, h.asg[t] = some a → a.phase.isEnding = false) ∧ (h.tx[t]).needsLower = false

/-- R19: the SCHEDULE assignments are gone or ENDING; others keep their core. -/
theorem abortWalk {l : List Tx} (nd : l.Nodup) :
    Ends (fun u => u ∈ l ∧ Scheduled h u) h (h.each l (abortOne e)) ∧
    ∀ t ∈ l, Scheduled h t → Aborted (h.each l (abortOne e)) t ∧ (EndsAtOnce h t → (h.each l (abortOne e)).asg[t] = none) := by
  induction l generalizing h with
  | nil => exact ⟨Ends.refl _ _, fun _ m => nomatch m⟩
  | cons u l ih =>
    obtain ⟨fresh, nd⟩ := List.nodup_cons.1 nd
    obtain ⟨ends, done⟩ := ih (h := abortOne e u h) nd
    have one : Ends (fun v => v = u ∧ Scheduled h v) h (abortOne e u h) := abortOne_ends fun s => ⟨rfl, s⟩
    have other (v : Tx) (ne : v ≠ u) : ((abortOne e u h).asg[v]).map Asg.core = (h.asg[v]).map Asg.core := one.asg v fun w => ne w.1
    change Ends _ h ((abortOne e u h).each l (abortOne e)) ∧ ∀ t ∈ u :: l, Scheduled h t → Aborted ((abortOne e u h).each l (abortOne e)) t ∧ _
    refine ⟨(one.mono ?_).trans (ends.mono ?_), fun t m s => ?_⟩
    · rintro v ⟨rfl, s⟩
      exact ⟨List.mem_cons_self, s⟩
    · rintro v ⟨m, s⟩
      exact ⟨List.mem_cons_of_mem u m, (scheduled_core (other v fun eq => fresh (eq ▸ m))).1 s⟩
    · rcases List.mem_cons.1 m with rfl | m
      · have kept := ends.asg t fun w => fresh w.1
        refine ⟨aborted_core kept (abortOne_aborted s), fun ⟨run, quiet⟩ => ?_⟩
        have gone : (abortOne e t h).asg[t] = none := by
          rw [abortOne_eq s]
          exact abortAsg_gone run quiet
        rw [gone] at kept
        exact Option.map_eq_none_iff.1 kept
      · have core := other t fun eq => fresh (eq ▸ m)
        obtain ⟨aborted, once⟩ := done t m ((scheduled_core core).2 s)
        refine ⟨aborted, fun ⟨run, quiet⟩ => once ⟨fun a ha => ?_, ?_⟩⟩
        · rw [ha] at core
          obtain ⟨b, hb, same⟩ := Option.map_eq_some_iff.1 core.symm
          have phase : b.phase = a.phase := congrArg Prod.fst same
          rw [← phase]
          exact run b hb
        · exact (needsLower_body ((abortOne_quiet (Quiet.refl _ h)).body t)).trans quiet

/-- Any assignment that is not ENDING is FOREIGN. -/
def OnlyForeign (h : Hall) : Prop := ∀ (u : Tx) (a : Asg), h.asg[u] = some a → a.phase.isEnding = true ∨ a.sched = none

theorem abortScheduled_onlyForeign : OnlyForeign (abortScheduled e h) := by
  intro u a ha
  obtain ⟨ends, done⟩ := abortWalk (e := e) (h := h) nodup_allTx
  rw [abortScheduled_eq] at ha
  by_cases s : Scheduled h u
  · rcases (done u (mem_allTx u) s).1 with none | ⟨b, hb, phase⟩
    · rw [none] at ha
      cases ha
    · obtain rfl := Option.some.inj (hb.symm.trans ha)
      exact .inl (by rw [phase]; rfl)
  · have core := ends.asg u fun w => s w.2
    refine .inr ?_
    by_contra sched
    exact s ((scheduled_core core).1 ⟨a, ha, sched⟩)

/-! ### STORE-ERASE: items -/

theorem dropStacks_emit {nt : Occ → NoticeBody} {l : List Tx} {i : StackItem} (mem : t ∈ l) (m : i ∈ h.stack[t]) :
    nt i.item.occ ∈ (h.each l fun t => dropStack t (fun _ => true) nt).emit := by
  have grows {l : List Tx} {h : Hall} : h.emit <+: (h.each l fun t => dropStack t (fun _ => true) nt).emit :=
    ((Quiet.refl (fun _ => False) h).each fun y => y.dropStack).emit
  induction l generalizing h with
  | nil => cases mem
  | cons u l ih =>
    by_cases eq : t = u
    · subst eq
      exact (grows (h := dropStack t (fun _ => true) nt h)).subset (dropStack_emit m rfl)
    · refine ih ((List.mem_cons.1 mem).resolve_left eq) (h := dropStack u (fun _ => true) nt h) ?_
      rw [dropStack_stack, if_neg (Ne.symm eq)]
      exact m

theorem expireAll_same : (∀ u : Tx, (expireAll h).stack[u] = []) ∧ (expireAll h).deferral = [] ∧ (expireAll h).asg = h.asg := by
  refine ⟨fun u => ?_, ?_, ?_⟩
  · rw [expireAll, dropDeferral_same.2.1, dropStacks_stack]
    exact List.filter_eq_nil_iff.2 fun _ _ => by decide
  · rw [expireAll, dropDeferral_same.2.2]
    exact List.filter_eq_nil_iff.2 fun _ _ => by decide
  · rw [expireAll, dropDeferral_same.1, dropStacks_asg]

theorem expireAll_quiet {d : Tx → Prop} (x : Quiet d g h) : Quiet d g (expireAll h) := by
  unfold expireAll
  exact (x.each fun y => y.dropStack).dropDeferral

theorem expireAll_stack_emit {i : StackItem} (m : i ∈ h.stack[t]) : .expired i.item.occ ∈ (expireAll h).emit := by
  unfold expireAll
  exact (Quiet.refl (fun _ => False) _).dropDeferral.emit.subset (dropStacks_emit (mem_allTx t) m)

theorem expireAll_deferral_emit {i : DeferItem} (m : i ∈ h.deferral) : .expired i.item.occ ∈ (expireAll h).emit := by
  unfold expireAll
  refine dropDeferral_emit (p := fun _ => true) ?_ rfl
  rw [dropStacks_deferral]
  exact m

theorem expireAll_spends : Spends h (expireAll h) := by
  have dropped : Spends h (h.each allTx fun t => dropStack t (fun _ => true) .expired) := Spends.each (.refl h) fun _ _ => .dropStack
  unfold expireAll
  generalize h.each allTx (fun t => dropStack t (fun _ => true) .expired) = k at dropped
  exact dropped.same

/-! ### STORE-ERASE: holds -/

/-- R176: what clearing holds does where no SCHEDULE assignment runs: no bank, no item, no SCHEDULE assignment is touched. -/
structure Rests (g h : Hall) : Prop where
  mode : h.mode = g.mode
  banks : h.banks = g.banks
  stack : h.stack = g.stack
  deferral : h.deferral = g.deferral
  dslot : h.dslot = g.dslot
  running : h.running = g.running
  faults : h.faults = g.faults
  xpt : h.path.xpt = g.path.xpt
  slots : h.path.slots = g.path.slots
  pos : h.path.pos = g.path.pos
  body : ∀ u : Tx, (h.tx[u]).body = (g.tx[u]).body
  emit : g.emit <+: h.emit
  settled : ∀ u, Settled g u → h.asg[u] = g.asg[u]
  foreign : OnlyForeign g → OnlyForeign h
  holds : ∀ u : Tx, g.holds[u] = Hold.off → h.holds[u] = Hold.off

namespace Rests

theorem refl (h : Hall) : Rests h h :=
  ⟨rfl, rfl, rfl, rfl, rfl, rfl, rfl, rfl, rfl, rfl, fun _ => rfl, List.prefix_rfl, fun _ _ => rfl, id, fun _ => id⟩

theorem trans (x : Rests g h) (y : Rests h k) : Rests g k :=
  ⟨y.mode.trans x.mode, y.banks.trans x.banks, y.stack.trans x.stack, y.deferral.trans x.deferral, y.dslot.trans x.dslot,
    y.running.trans x.running, y.faults.trans x.faults, y.xpt.trans x.xpt, y.slots.trans x.slots, y.pos.trans x.pos,
    fun u => (y.body u).trans (x.body u), x.emit.trans y.emit,
    fun u w => (y.settled u fun a ha => w a (by rw [← x.settled u w]; exact ha)).trans (x.settled u w), fun w => y.foreign (x.foreign w),
    fun u w => y.holds u (x.holds u w)⟩

theorem plain (x : Rests g h) (asg : k.asg = h.asg := by rfl) (mode : k.mode = h.mode := by rfl) (banks : k.banks = h.banks := by rfl)
    (stack : k.stack = h.stack := by rfl) (deferral : k.deferral = h.deferral := by rfl) (dslot : k.dslot = h.dslot := by rfl)
    (running : k.running = h.running := by rfl) (faults : k.faults = h.faults := by rfl)
    (xpt : k.path.xpt = h.path.xpt := by rfl) (slots : k.path.slots = h.path.slots := by rfl)
    (pos : k.path.pos = h.path.pos := by rfl) (tx : k.tx = h.tx := by rfl) (emit : k.emit = h.emit := by rfl)
    (holds : k.holds = h.holds := by rfl) : Rests g k :=
  x.trans ⟨mode, banks, stack, deferral, dslot, running, faults, xpt, slots, pos, fun _ => by rw [tx], by rw [emit],
    fun _ _ => by rw [asg], fun w u a ha => w u a (by rw [← asg]; exact ha), fun _ w => by rw [holds]; exact w⟩

theorem quiet (x : Rests g h) {d : Tx → Prop} (y : Quiet d h k) (asg : k.asg = h.asg := by rfl) (banks : k.banks = h.banks := by rfl)
    (stack : k.stack = h.stack := by rfl) (deferral : k.deferral = h.deferral := by rfl) : Rests g k :=
  x.trans ⟨y.mode, banks, stack, deferral, y.dslot, y.running, y.faults, y.xpt, y.slots, y.pos, y.body, y.emit,
    fun _ _ => by rw [asg], fun w u a ha => w u a (by rw [← asg]; exact ha), fun _ w => by rw [y.holds]; exact w⟩

theorem ite {c : Prop} [Decidable c] {a b : Hall} (x : Rests g a) (y : Rests g b) : Rests g (if c then a else b) := by
  split <;> assumption

/-- A FOREIGN assignment that is not ENDING is worked out again. -/
theorem setForeign (x : Rests g h) (ha : h.asg[t] = some a) (run : a.phase.isEnding = false) (b : Asg) (sched : b.sched = none) :
    Rests g (h.setAsg t (some b)) := by
  refine x.trans { refl h with settled := fun u w => ?_, foreign := fun w u c hc => ?_ }
  · rw [Hall.setAsg_asg, get_upd]
    refine if_neg fun eq => ?_
    subst eq
    rw [w a ha] at run
    cases run
  · rw [Hall.setAsg_asg, get_upd] at hc
    split at hc
    · obtain rfl := Option.some.inj hc
      exact .inr sched
    · exact w u c hc

end Rests

theorem rework_sched {viaHold : Bool} {new : Params} : (rework viaHold new a).sched = a.sched := by
  unfold rework
  dsimp only
  split
  · rfl
  · rfl
  · rfl
  · split <;> rfl
  · split <;> rfl
  · split
    · rfl
    · split <;> rfl
  · split
    · rfl
    · split <;> rfl
  · rfl

theorem currentEff_foreign {k : Tables} (w : a.sched = none) : (currentEff k h t a).out = a.eff.out := by
  unfold currentEff
  rw [w]

/-- R211, log 35: a FOREIGN assignment's retry RAISE takes the new power unchecked. -/
theorem repowerRetry_foreign (w : a.sched = none) :
    repowerRetry e t false a h = h ∨ repowerRetry e t false a h = repower t a.eff.power h := by
  unfold repowerRetry
  dsimp only
  rw [w]
  split
  · exact .inl rfl
  · exact .inr (if_pos rfl)

theorem recompute_rests (w : OnlyForeign h) : Rests h (recompute e t false false h) := by
  unfold recompute
  split
  · exact .refl h
  · next a ha =>
    extract_lets new o ending k₁ awaited k₂ src b k₃
    split
    · exact .refl h
    · next go =>
      have run : a.phase.isEnding = false := by
        rw [Bool.or_eq_true, not_or] at go
        exact Bool.eq_false_iff.2 go.1
      have sched : a.sched = none := (w t a ha).resolve_left (by rw [run]; decide)
      have out : o = a.eff.out := currentEff_foreign sched
      have first : k₁ = h := if_neg (by simp [out])
      have free : b.sched = none := rework_sched.trans sched
      have x₂ : Rests h k₂ ∧ k₂.asg = h.asg := by
        unfold k₂
        rw [first]
        split
        · exact ⟨Rests.plain (.refl h), rfl⟩
        · exact ⟨.refl h, rfl⟩
      have x₃ : Rests h k₃ := x₂.1.setForeign (by rw [x₂.2]; exact ha) run b free
      rw [if_pos (by simp [out])]
      refine .ite (x₃.quiet ((Quiet.refl (· = t) k₃).withdrawRaise rfl)) (.ite ?_ x₃)
      rcases repowerRetry_foreign (e := e) (t := t) (h := k₃) free with same | put
      · rw [same]
        exact x₃
      · rw [put]
        exact x₃.quiet ((Quiet.refl (· = t) k₃).repower rfl)

theorem recomputeReset_rests {power : Bool} (w : OnlyForeign h) : Rests h (recomputeReset e t power h) := by
  unfold recomputeReset
  exact .ite (.refl h) (recompute_rests w)

theorem outAvailable_rests : Rests h (outAvailable o h) := .ite (.plain (.refl h)) (.refl h)

theorem holdCleared_off : (holdCleared t h).holds[t] = Hold.off := by simp [holdCleared]

theorem holdCleared_rests : Rests h (holdCleared t h) := by
  refine { Rests.refl h with emit := List.prefix_append _ _, holds := fun u w => ?_ }
  change (upd h.holds t fun _ => Hold.off)[u] = _
  rw [get_upd]
  split
  · rfl
  · exact w

/-- R176: the holds of one transmitter are cleared. -/
theorem resetHold_rests (w : OnlyForeign h) : Rests h (resetHold e t h) ∧ (resetHold e t h).holds[t] = Hold.off := by
  have cleared : Rests h (holdCleared t h) := holdCleared_rests
  have done {k : Hall} {power : Bool} (x : Rests (holdCleared t h) k) : Rests h (recomputeReset e t power k).wantAlloc ∧
      (recomputeReset e t power k).wantAlloc.holds[t] = Hold.off := by
    have y : Rests (holdCleared t h) (recomputeReset e t power k).wantAlloc :=
      Rests.plain (x.trans (recomputeReset_rests ((cleared.trans x).foreign w)))
    exact ⟨cleared.trans y, y.holds t holdCleared_off⟩
  by_cases on : (h.holds[t]).enabled = []
  · rw [resetHold_off on]
    exact ⟨.refl h, enabled_eq_nil on⟩
  · have eq : resetHold e t h = (recomputeReset e t (h.holds[t]).power.isSome
        ((h.holds[t]).output.elim (holdCleared t h) fun w => outAvailable w.1 (holdCleared t h))).wantAlloc := by
      unfold resetHold
      refine (if_neg (by rwa [List.isEmpty_iff])).trans ?_
      dsimp only
      cases (h.holds[t]).output <;> rfl
    rw [eq]
    cases (h.holds[t]).output with
    | none => exact done (.refl _)
    | some v => exact done outAvailable_rests

theorem resetHolds_rests {l : List Tx} (w : OnlyForeign h) :
    Rests h (h.each l (resetHold e)) ∧ ∀ t ∈ l, (h.each l (resetHold e)).holds[t] = Hold.off := by
  induction l generalizing h with
  | nil => exact ⟨.refl h, fun _ m => nomatch m⟩
  | cons t l ih =>
    obtain ⟨one, off⟩ := resetHold_rests (e := e) (t := t) w
    obtain ⟨rest, offs⟩ := ih (one.foreign w)
    refine ⟨one.trans rest, fun u m => ?_⟩
    rcases List.mem_cons.1 m with rfl | m
    · exact rest.holds u off
    · exact offs u m

/-! ### STORE-ERASE: positioners and the sweep -/

/-- R129: a positioner is left to its slew, or removed. -/
def erasedPos (h : Hall) (o : Out) : Option Pos :=
  if (slewSlot h o).isSome then (h.path.pos[o]).map fun p => { p with gone := true } else none

theorem erasePositioners_hall : ∃ ps, erasePositioners h = { h with path := { h.path with pos := ps } } ∧
    ∀ o : Out, ps[o] = erasedPos h o := by
  have walk (l : List Out) (nd : l.Nodup) (h : Hall) : ∃ ps,
      (h.each l fun o h => if (slewSlot h o).isSome then h.mapPos o fun p => { p with gone := true } else h.setPos o none) =
        { h with path := { h.path with pos := ps } } ∧
      ∀ o : Out, ps[o] = if o ∈ l then erasedPos h o else h.path.pos[o] := by
    induction l generalizing h with
    | nil => exact ⟨h.path.pos, rfl, fun _ => rfl⟩
    | cons o l ih =>
      obtain ⟨fresh, nd⟩ := List.nodup_cons.1 nd
      have one : (if (slewSlot h o).isSome then h.mapPos o fun p => { p with gone := true } else h.setPos o none) =
          h.setPos o (erasedPos h o) := by
        unfold erasedPos
        split
        · rfl
        · rfl
      obtain ⟨ps, eq, get⟩ := ih nd (h.setPos o (erasedPos h o))
      refine ⟨ps, ?_, fun p => ?_⟩
      · change Hall.each (if _ then _ else _) l _ = _
        rw [one, eq]
        rfl
      · have here : (h.setPos o (erasedPos h o)).path.pos[p] = if o = p then erasedPos h o else h.path.pos[p] := by
          change (upd h.path.pos o fun _ => erasedPos h o)[p] = _
          rw [get_upd]
        rw [get, here]
        by_cases same : o = p
        · subst same
          rw [if_neg fresh, if_pos rfl, if_pos List.mem_cons_self]
        · have still : erasedPos (h.setPos o (erasedPos h o)) p = erasedPos h p := by
            unfold erasedPos at here ⊢
            rw [here, if_neg same]
            rfl
          rw [still, if_neg same]
          exact if_congr (by rw [List.mem_cons, or_iff_right (Ne.symm same)]) rfl rfl
  obtain ⟨ps, eq, get⟩ := walk allOut (List.nodup_finRange 28) h
  exact ⟨ps, eq, fun o => by rw [get, if_pos (mem_allOut o)]⟩

theorem refusals_onlyForeign (w : OnlyForeign h) : refusals e h false = [] := by
  refine List.filterMap_eq_nil_iff.2 fun t _ => ?_
  have none : (h.asg[t]).filter (fun a => !a.phase.isEnding && decide (a.sched.isNone = false)) = Option.none := by
    refine Option.filter_eq_none_iff.2 fun a ha => ?_
    rcases w t a ha with ending | foreign
    · simp [ending]
    · simp [foreign]
  rw [refusal, none]
  rfl

/-- R156, R211: with no SCHEDULE assignment left the sweep ends nothing. -/
theorem sweepErased_onlyForeign (w : OnlyForeign h) : sweepErased e h = h := by
  rw [sweepErased, refusals_onlyForeign w]
  rfl

theorem recheckHead_hall : ∃ cs, recheckHead h = { h with changes := cs } := ⟨_, rfl⟩

end
end Sys2Proof.Machine
namespace Sys2Proof.Machine

set_option Elab.async false
section
variable {g h k : Hall} {e : Env} {t : Tx} {o : Out} {n : BankNo} {a b : Asg}

/-! ### STORE-ERASE -/

/-- R19: the banks are EMPTY, the SCHEDULE assignments ended, the items gone. -/
def storeEmptied (e : Env) (h : Hall) : Hall := expireAll (abortScheduled e (eraseBanks h))

theorem eraseBanks_quiet : Quiet (fun _ => True) h (eraseBanks h) := by
  obtain ⟨bs, em, eq, grows, _⟩ := eraseBanks_hall (h := h)
  rw [eq]
  exact { Quiet.refl _ h with emit := grows }

theorem abortScheduled_quiet (x : Quiet (fun _ => True) g h) : Quiet (fun _ => True) g (abortScheduled e h) := by
  rw [abortScheduled_eq]
  exact x.each fun y => abortOne_quiet y

theorem storeEmptied_quiet : Quiet (fun _ => True) h (storeEmptied e h) := expireAll_quiet (abortScheduled_quiet eraseBanks_quiet)

theorem storeEmptied_bank : ((h.banks[n]).st = .empty → (storeEmptied e h).banks[n] = h.banks[n]) ∧
    ((h.banks[n]).st ≠ .empty → (storeEmptied e h).banks[n] = Bank.blank ∧
      .bank n .empty Bank.blank.label Bank.blank.start ∈ (storeEmptied e h).emit) := by
  obtain ⟨bs, em, eq, _, banks⟩ := eraseBanks_hall (h := h)
  obtain ⟨kept, blank⟩ := banks n
  have empty : ((eraseBanks h).banks[n]).st = .empty := by
    rw [eq]
    by_cases st : (h.banks[n]).st = .empty
    · exact (congrArg Bank.st (kept st)).trans st
    · exact congrArg Bank.st (blank st).1
  have spends : Spends (eraseBanks h) (storeEmptied e h) :=
    Spends.trans (abortWalk (e := e) (h := eraseBanks h) nodup_allTx).1.banks expireAll_spends
  have same : (storeEmptied e h).banks[n] = (eraseBanks h).banks[n] := spends.forth (by rw [empty]; decide)
  have grows : (eraseBanks h).emit <+: (storeEmptied e h).emit := (expireAll_quiet (abortScheduled_quiet (Quiet.refl _ _))).emit
  rw [same]
  rw [eq] at grows ⊢
  exact ⟨kept, fun st => ⟨(blank st).1, grows.subset (blank st).2⟩⟩

theorem eraseBanks_same : (eraseBanks h).asg = h.asg ∧ (eraseBanks h).stack = h.stack ∧ (eraseBanks h).deferral = h.deferral ∧
    (eraseBanks h).tx = h.tx := by
  obtain ⟨bs, em, eq, _⟩ := eraseBanks_hall (h := h)
  rw [eq]
  exact ⟨rfl, rfl, rfl, rfl⟩

theorem storeEmptied_stack_emit {i : StackItem} (m : i ∈ h.stack[t]) : .expired i.item.occ ∈ (storeEmptied e h).emit := by
  refine expireAll_stack_emit (t := t) ?_
  rw [abortScheduled_eq, (abortWalk nodup_allTx).1.stack, eraseBanks_same.2.1]
  exact m

theorem storeEmptied_deferral_emit {i : DeferItem} (m : i ∈ h.deferral) : .expired i.item.occ ∈ (storeEmptied e h).emit := by
  refine expireAll_deferral_emit ?_
  rw [abortScheduled_eq, (abortWalk nodup_allTx).1.deferral, eraseBanks_same.2.2.1]
  exact m

theorem storeEmptied_onlyForeign : OnlyForeign (storeEmptied e h) := by
  intro u a ha
  rw [storeEmptied, expireAll_same.2.2] at ha
  exact abortScheduled_onlyForeign u a ha

theorem storeEmptied_aborted (w : Scheduled h t) : Aborted (storeEmptied e h) t ∧ (EndsAtOnce h t → (storeEmptied e h).asg[t] = none) := by
  obtain ⟨asg, _, _, tx⟩ := eraseBanks_same (h := h)
  have done := (abortWalk (e := e) (h := eraseBanks h) nodup_allTx).2 t (mem_allTx t) (by unfold Scheduled; rw [asg]; exact w)
  rw [← abortScheduled_eq] at done
  unfold Aborted EndsAtOnce at *
  rw [asg, tx] at done
  rw [storeEmptied, expireAll_same.2.2]
  exact done

theorem Aborted.settled (w : Aborted h t) : Settled h t := by
  intro a ha
  rcases w with none | ⟨b, hb, phase⟩
  · rw [none] at ha
    cases ha
  · obtain rfl := Option.some.inj (hb.symm.trans ha)
    rw [phase]
    rfl

/-- R129, R176, R193: what the rest of the erasure does. -/
theorem eraseHall_hall : ∃ c ps cs, eraseHall e h = { c with path := { c.path with pos := ps }, changes := cs } ∧
    Rests (resetPlans (storeEmptied e h)) c ∧ (∀ u : Tx, c.holds[u] = Hold.off) ∧ ∀ o : Out, ps[o] = erasedPos c o := by
  have foreign : OnlyForeign (resetPlans (storeEmptied e h)) := by
    have emptied := storeEmptied_onlyForeign (e := e) (h := h)
    rw [resetPlans_eq]
    generalize storeEmptied e h = k at emptied
    exact emptied
  obtain ⟨rests, off⟩ := resetHolds_rests (e := e) (l := allTx) foreign
  obtain ⟨ps, erased, get⟩ := erasePositioners_hall (h := (resetPlans (storeEmptied e h)).each allTx (resetHold e))
  have eq : eraseHall e h = recheckHead (sweepErased e (erasePositioners ((resetPlans (storeEmptied e h)).each allTx (resetHold e)))) :=
    rfl
  generalize (resetPlans (storeEmptied e h)).each allTx (resetHold e) = c at rests off erased get eq
  have swept : sweepErased e (erasePositioners c) = erasePositioners c := by
    rw [erased]
    exact sweepErased_onlyForeign (rests.foreign foreign)
  rw [swept, erased] at eq
  exact ⟨c, ps, _, eq, rests, fun u => off u (mem_allTx u), get⟩

/-- R19, R129, R220: the hall after the erasure, field by field. -/
structure Erased (e : Env) (h r : Hall) : Prop where
  banks : r.banks = (storeEmptied e h).banks
  emit : (storeEmptied e h).emit <+: r.emit
  dslot : r.dslot = none
  running : r.running = none
  mode : r.mode = h.mode
  deferral : r.deferral = []
  stack : ∀ u : Tx, r.stack[u] = []
  holds : ∀ u : Tx, r.holds[u] = Hold.off
  asg : ∀ u, Aborted (storeEmptied e h) u → r.asg[u] = (storeEmptied e h).asg[u]
  body : ∀ u : Tx, (r.tx[u]).body = (h.tx[u]).body
  xpt : r.path.xpt = h.path.xpt
  slots : r.path.slots = h.path.slots
  faults : r.faults = h.faults
  pos : ∀ o : Out, r.path.pos[o] = erasedPos h o

theorem resetPlans_rests {r : Hall} (x : Rests (resetPlans h) r) : r.banks = h.banks ∧ h.emit <+: r.emit ∧ r.dslot = none ∧
    r.running = none ∧ r.mode = h.mode ∧ r.deferral = h.deferral ∧ r.stack = h.stack ∧ (∀ u, Settled h u → r.asg[u] = h.asg[u]) ∧
    (∀ u : Tx, (r.tx[u]).body = (h.tx[u]).body) ∧ r.path.xpt = h.path.xpt ∧ r.path.slots = h.path.slots ∧ r.path.pos = h.path.pos ∧
    r.faults = h.faults := by
  rw [resetPlans_eq] at x
  exact ⟨x.banks, (List.prefix_append _ _).trans x.emit, x.dslot, x.running, x.mode, x.deferral, x.stack, x.settled, x.body, x.xpt,
    x.slots, x.pos, x.faults⟩

theorem eraseHall_erased : Erased e h (eraseHall e h) := by
  obtain ⟨c, ps, cs, eq, rests, off, get⟩ := eraseHall_hall (e := e) (h := h)
  have quiet := storeEmptied_quiet (e := e) (h := h)
  have stack : ∀ u : Tx, (storeEmptied e h).stack[u] = [] := expireAll_same.1
  have deferral : (storeEmptied e h).deferral = [] := expireAll_same.2.1
  obtain ⟨banks, emit, dslot, running, mode, deferral', stack', asg, body, xpt, slots, pos, faults⟩ := resetPlans_rests rests
  clear rests
  rw [eq]
  refine ⟨banks, emit, dslot, running, mode.trans quiet.mode, deferral'.trans deferral, fun u => ?_, off, fun u w => asg u w.settled,
    fun u => (body u).trans (quiet.body u), xpt.trans quiet.xpt, slots.trans quiet.slots, faults.trans quiet.faults,
    fun o => (get o).trans ?_⟩
  · change c.stack[u] = []
    rw [stack']
    exact stack u
  · unfold erasedPos slewSlot slotList
    rw [slots.trans quiet.slots, pos.trans quiet.pos]

theorem eraseHall_bank : ((h.banks[n]).st = .empty → (eraseHall e h).banks[n] = h.banks[n]) ∧
    ((h.banks[n]).st ≠ .empty → (eraseHall e h).banks[n] = Bank.blank ∧
      .bank n .empty Bank.blank.label Bank.blank.start ∈ (eraseHall e h).emit) := by
  have erased := eraseHall_erased (e := e) (h := h)
  obtain ⟨kept, blank⟩ := storeEmptied_bank (e := e) (h := h) (n := n)
  rw [erased.banks]
  exact ⟨kept, fun st => ⟨(blank st).1, erased.emit.subset (blank st).2⟩⟩

theorem eraseHall_empty : ((eraseHall e h).banks[n]).st = .empty := by
  obtain ⟨kept, blank⟩ := eraseHall_bank (e := e) (h := h) (n := n)
  by_cases st : (h.banks[n]).st = .empty
  · rw [kept st, st]
  · rw [(blank st).1]
    rfl

theorem eraseHall_stack_emit {i : StackItem} (m : i ∈ h.stack[t]) : .expired i.item.occ ∈ (eraseHall e h).emit :=
  eraseHall_erased.emit.subset (storeEmptied_stack_emit m)

theorem eraseHall_deferral_emit {i : DeferItem} (m : i ∈ h.deferral) : .expired i.item.occ ∈ (eraseHall e h).emit :=
  eraseHall_erased.emit.subset (storeEmptied_deferral_emit m)

theorem eraseHall_aborted (w : Scheduled h t) : Aborted (eraseHall e h) t ∧ (EndsAtOnce h t → (eraseHall e h).asg[t] = none) := by
  obtain ⟨aborted, once⟩ := storeEmptied_aborted (e := e) w
  have same := eraseHall_erased.asg t aborted
  unfold Aborted at *
  rw [same]
  exact ⟨aborted, once⟩

theorem eraseHall_pos : (slewSlot h o = none → (eraseHall e h).path.pos[o] = none) ∧
    (slewSlot h o ≠ none → (eraseHall e h).path.pos[o] = (h.path.pos[o]).map fun p => { p with gone := true }) := by
  rw [eraseHall_erased.pos, erasedPos]
  exact ⟨fun none => if_neg (by rw [none]; decide), fun some => if_pos (Option.isSome_iff_ne_none.2 some)⟩

theorem undefAll_same {k : Tables} : (undefAll k h).mode = h.mode ∧ (undefAll k h).banks = h.banks ∧ (undefAll k h).asg = h.asg ∧
    (undefAll k h).stack = h.stack ∧ (undefAll k h).deferral = h.deferral ∧ (undefAll k h).path = h.path ∧
    (undefAll k h).faults = h.faults ∧
    ∀ u : Tx, (undefAll k h).tx[u] = { h.tx[u] with undef := (k.txs[u]).defined || (h.tx[u]).undef } := by
  obtain ⟨v, undef, txs⟩ := undefAll_hall (k := k) (h := h)
  rw [undef]
  exact ⟨rfl, rfl, rfl, rfl, rfl, rfl, rfl, txs⟩

theorem needsLower_quiet {r : TxRec} (rad : isRad r.st = false) (st : r.st ≠ .unreachable) : r.needsLower = false := by
  simp [TxRec.needsLower, rad, st]

theorem slewSlot_path (w : k.path = h.path) : slewSlot k o = slewSlot h o := by
  unfold slewSlot slotList
  rw [w]

theorem anyRaised_iff : anyRaised h = true ↔ ∃ u : Tx, (h.tx[u]).st = .raising ∨ (h.tx[u]).st = .onAir := by
  unfold anyRaised
  simp only [List.any_eq_true, mem_allTx, true_and, Bool.or_eq_true, decide_eq_true_eq]

theorem storeErase_locked {s : State} (w : s.tables.lock = true) : storeErase s = s.refuse .locked := if_pos w

theorem storeErase_raised {s : State} (w : s.tables.lock = false) (r : ∃ u : Tx, (s.hall.tx[u]).st = .raising ∨ (s.hall.tx[u]).st = .onAir) :
    storeErase s = s.refuse .state := by
  unfold storeErase
  rw [if_neg (by rw [w]; decide)]
  exact if_pos (anyRaised_iff.2 r)

/-- What an event reads once the store is erased. -/
def erasedEnv (s : State) : Env := ⟨Tables.default, s.time⟩

theorem storeErase_ok {s : State} {tag : Nat} (w : s.tables.lock = false)
    (r : ∀ u : Tx, (s.hall.tx[u]).st ≠ .raising ∧ (s.hall.tx[u]).st ≠ .onAir) : (storeErase s).reply tag .storeErase =
      ({ s with hall := eraseHall (erasedEnv s) (undefAll s.tables s.hall), tables := Tables.default }.say tag
        (some .storeErase) .accepted .nothing) := by
  have calm : ¬ anyRaised s.hall = true := fun v => by
    obtain ⟨u, st⟩ := anyRaised_iff.1 v
    exact st.elim (r u).1 (r u).2
  unfold storeErase
  rw [if_neg (by rw [w]; decide), if_neg calm]
  rfl

end
end Sys2Proof.Machine
namespace Sys2Proof.Machine

set_option Elab.async false
section
variable {h : Hall} {e : Env} {t : Tx}

/-! ### The resets, field by field -/

/-- R219: the hall after a HALL reset. -/
theorem resetHall_fields : (resetHall e h).mode = .adopting ∧ (resetHall e h).changes = [] ∧ (resetHall e h).deferral = [] ∧
    (resetHall e h).dslot = none ∧ (resetHall e h).running = none ∧ (resetHall e h).faults = h.faults ∧
    (resetHall e h).sense = h.sense ∧ (resetHall e h).path.queue = [] ∧ (resetHall e h).path.pos = h.path.pos ∧
    (resetHall e h).path.xpt = h.path.xpt ∧ (resetHall e h).path.slots = h.path.slots ∧
    (∀ n : BankNo, ((resetHall e h).banks[n]).recs = (h.banks[n]).recs ∧ ((resetHall e h).banks[n]).label = (h.banks[n]).label) ∧
    (∀ o : Out, (resetHall e h).path.owner[o] = none ∧ (resetHall e h).path.cols[o] = ⟨false, some ⟨0, none⟩, none⟩) ∧
    (resetHall e h).adoptedS = 0 ∧ (resetHall e h).adoptedF = 0 ∧ (resetHall e h).dlast = dlastReset h ∧
    (resetHall e h).emit = h.emit ++ [.hall .adopting .reset] ++
      (h.changes.map fun (c : Change) => .changeRejected c.tag c.bank c.kind c.id .reset) ++ spentNotices h ++ planNotices h ++
      allTx.flatMap (holdNotice h) ∧
    ∀ u : Tx, (resetHall e h).asg[u] = none ∧ (resetHall e h).stack[u] = [] ∧ (resetHall e h).idle[u] = .stopped ∧
      (resetHall e h).holds[u] = Hold.off ∧ ((resetHall e h).path.seqs[u]).next = none ∧
      (resetHall e h).adopt[u] = ⟨!txDefined e.k h u, none, false, false⟩ ∧ (resetHall e h).tx[u] = (h.tx[u]).reset := by
  obtain ⟨seqs, hs, a, next, off, eq⟩ := resetHall_eq (e := e) (h := h)
  rw [eq]
  exact ⟨rfl, rfl, rfl, rfl, rfl, rfl, rfl, rfl, rfl, rfl, rfl, fun n => banksSpent_kept,
    fun o => ⟨get_tab 28 none o, get_tab 28 _ o⟩, rfl, rfl, rfl, rfl, fun u => ⟨get_tab 12 none u, get_tab 12 [] u, get_tab 12 _ u,
      off u, next u, get_ofFn _ u, by simp [blocksReset]⟩⟩

/-- R155, R219: the orders and the state of the transmitter after its SECTION reset. -/
theorem resetSection_tx (d : txDefined e.k h t = true) : SectionOrders h.tx[t] (resetSection t e h).tx[t] ∧
    ((resetSection t e h).tx[t]).body = (h.tx[t]).section.body := by
  obtain ⟨_, _, tx, _⟩ := resetSection_same (e := e) (t := t) (h := h)
  rw [tx, ← (sectionStart_tx t).trans (if_pos rfl)]
  exact ⟨sectionEnds_orders d, sectionEnds_quiet.body t⟩

/-- R219: the engine's records of the transmitter after its SECTION reset. -/
theorem resetSection_engine : (resetSection t e h).stack[t] = [] ∧ (resetSection t e h).holds[t] = Hold.off ∧
    (resetSection t e h).idle[t] = .stopped ∧
    (∀ a, (resetSection t e h).asg[t] = some a → a.phase = .ending .aborted .nothing) ∧
    (∀ i ∈ h.stack[t], .expired i.item.occ ∈ (resetSection t e h).emit) ∧
    (isRad (h.tx[t]).st = false → (∀ a, h.asg[t] = some a → a.phase.isEnding = false) → (resetSection t e h).asg[t] = none) := by
  obtain ⟨asg, stack, _, _, _, _, _, idle, holds, emit⟩ := resetSection_same (e := e) (t := t) (h := h)
  rw [asg, stack, idle, holds, get_upd, get_upd, if_pos rfl, if_pos rfl]
  exact ⟨(sectionEnds_stack t).trans (if_pos rfl), rfl, rfl, fun _ => sectionEnds_aborted,
    fun i m => emit.subset (sectionEnds_expired m), fun rad run => sectionEnds_gone run rad⟩

/-- R219: what a SECTION reset leaves as it was. -/
theorem resetSection_kept : (resetSection t e h).deferral = h.deferral ∧ (resetSection t e h).path.xpt = h.path.xpt ∧
    (resetSection t e h).faults = h.faults ∧ (resetSection t e h).sense = h.sense ∧
    ∀ u : Tx, u ≠ t → (resetSection t e h).tx[u] = h.tx[u] ∧ (resetSection t e h).stack[u] = h.stack[u] ∧
      (resetSection t e h).holds[u] = h.holds[u] ∧ (resetSection t e h).idle[u] = h.idle[u] := by
  obtain ⟨_, stack, tx, deferral, xpt, faults, sense, idle, holds, _⟩ := resetSection_same (e := e) (t := t) (h := h)
  obtain ⟨_, same_faults, same_sense, same_path, same_idle, same_holds⟩ := sectionStart_same (t := t) (h := h)
  have quiet := sectionEnds_quiet (e := e) (t := t) (h := h)
  have left (u : Tx) := sectionEnds_stack (e := e) (t := t) (h := h) u
  rw [deferral, xpt, faults, sense, tx, stack, holds, idle]
  refine ⟨sectionEnds_deferral, quiet.xpt.trans (congrArg (·.xpt) same_path), quiet.faults.trans same_faults,
    quiet.sense.trans same_sense, fun u ne => ⟨?_, (left u).trans (if_neg ne.symm), ?_, ?_⟩⟩
  · exact (quiet.tx u ne).trans ((sectionStart_tx u).trans (if_neg ne.symm))
  · rw [get_upd, if_neg ne.symm, quiet.holds, same_holds]
  · rw [get_upd, if_neg ne.symm, quiet.idle, same_idle]

/-- R19, R76: the assignments after an erasure. -/
theorem eraseHall_asg {a b : Asg} (hb : h.asg[t] = some b) (sched : b.sched ≠ none) :
    ((eraseHall e h).asg[t] = some a → a.phase = .ending .aborted .nothing) ∧
    (b.phase.isEnding = false → (h.tx[t]).needsLower = false → (eraseHall e h).asg[t] = none) := by
  obtain ⟨aborted, once⟩ := eraseHall_aborted (e := e) ⟨b, hb, sched⟩
  refine ⟨fun ha => ?_, fun run quiet => once ⟨fun a ha => ?_, quiet⟩⟩
  · rcases aborted with none | ⟨a', ha', phase⟩
    · rw [none] at ha
      cases ha
    · obtain rfl := Option.some.inj (ha'.symm.trans ha)
      exact phase
  · obtain rfl := Option.some.inj (hb.symm.trans ha)
    exact run

/-- R212 step 1: an assignment that is not past its stop instant runs on. -/
theorem endWhere_later {b : Asg} (hb : h.asg[t] = some b) (later : ∀ x, b.sched = some x → e.min < x.stop) :
    ∃ b', (endWhere e (pastStop e) .completed h).asg[t] = some b' ∧ b'.phase = b.phase ∧ b'.sched = b.sched ∧ b'.eff = b.eff := by
  have kept := endWhere_keeps (e := e) (q := pastStop e) (oc := .completed) (h := h) (t := t) fun a ha past => by
    obtain rfl := Option.some.inj (hb.symm.trans ha)
    obtain ⟨x, hx, stop⟩ := (Option.any_eq_true _ _).1 past
    exact absurd (later x hx) (Nat.not_lt.2 (of_decide_eq_true stop))
  rw [hb] at kept
  obtain ⟨b', hb', core⟩ := Option.map_eq_some_iff.1 kept
  exact ⟨b', hb', congrArg Prod.fst core, core_sched core, congrArg (fun k => k.2.2.1) core⟩

/-- R212 step 1: one past its stop instant ends COMPLETED. -/
theorem endWhere_past {b : Asg} {x : Sched} (hb : h.asg[t] = some b) (hx : b.sched = some x) (run : b.phase.isEnding = false)
    (stop : x.stop ≤ e.min) : (endWhere e (pastStop e) .completed h).asg[t] = none ∨
      ∃ b', (endWhere e (pastStop e) .completed h).asg[t] = some b' ∧ b'.phase = .ending .completed .nothing := by
  have past : pastStop e b.sched = true := by rw [hx]; exact decide_eq_true stop
  exact (endWhere_ended hb past run).cases.imp_right fun ⟨b', hb', core⟩ => ⟨b', hb', congrArg Prod.fst core⟩

end
end Sys2Proof.Machine

namespace Sys2Proof.Proofs

set_option Elab.async false
section
open Machine

/-- Settles O54, by what each reset leaves of the hall field by field, and by the rows of R207 to R212 in their order. -/
theorem adoptionAndResets : Obligations.AdoptionAndResets := by
  refine ⟨fun tag t s => ⟨fun w => ?_, fun w => refused_request w rfl rfl,
    fun w un un' => refused_request w rfl (sectionReset_notFound un un'), fun w d => ?_,
    fun w lock => refused_request w rfl (storeErase_locked lock), fun w lock raised => refused_request w rfl (storeErase_raised lock raised),
    fun w lock calm => ?_, fun x rep d ⟨mode, unj⟩ hx hr lim due => ?_, fun w => ?_, fun x rep hx hr later => ?_⟩, fun e h t => ?_⟩
  · obtain ⟨mode, changes, deferral, dslot, running, faults, sense, queue, pos, xpt, slots, banks, outs, adoptedS, adoptedF, dlast, emit,
      txs⟩ := resetHall_fields (e := s.env) (h := s.hall)
    refine ⟨resetHall s.env s.hall, completes_request w rfl rfl, mode, changes, deferral, dslot, running, faults, sense, queue, pos, xpt,
      slots, banks, outs, adoptedS, adoptedF, dlast, emit.trans ?_, txs⟩
    unfold spentNotices planNotices
    rw [← List.append_assoc]
    cases retiringBank s.hall <;> cases s.hall.running <;> cases s.hall.dslot <;> rfl
  · have def_ : txDefined s.tables s.hall t = true := by simpa [txDefined] using d
    obtain ⟨stack, holds, idle, aborted, expired, gone⟩ := resetSection_engine (e := s.env) (t := t) (h := s.hall)
    obtain ⟨orders, body⟩ := resetSection_tx (e := s.env) (t := t) (h := s.hall) def_
    have kept := resetSection_kept (e := s.env) (t := t) (h := s.hall)
    refine ⟨resetSection t s.env s.hall, completes_request w rfl (sectionReset_ok def_), ?_⟩
    generalize resetSection t s.env s.hall = k at *
    exact ⟨stack, holds, congrArg (·.window) body, congrArg (·.rcv) body, idle, aborted, expired,
      ⟨gone, orders.none, orders.pend, orders.raised, orders.tripped, orders.lower, congrArg (·.before) body, congrArg (·.st) body,
        congrArg (·.permit) body, congrArg (·.cond) body, congrArg (·.contact) body, congrArg (·.undef) body⟩, kept⟩
  · obtain ⟨mode₀, banks₀, asg₀, stack₀, deferral₀, path₀, faults₀, tx₀⟩ := undefAll_same (k := s.tables) (h := s.hall)
    refine ⟨eraseHall (erasedEnv s) (undefAll s.tables s.hall), completes_request w rfl (storeErase_ok lock calm), ?_⟩
    generalize undefAll s.tables s.hall = g at *
    rw [← mode₀, ← banks₀, ← asg₀, ← stack₀, ← deferral₀, ← path₀, ← faults₀]
    have erased := eraseHall_erased (e := erasedEnv s) (h := g)
    have body (u : Tx) := (erased.body u).trans (congrArg TxRec.body (tx₀ u))
    have bank (n : BankNo) := eraseHall_bank (e := erasedEnv s) (h := g) (n := n)
    have pos (o : Out) := eraseHall_pos (e := erasedEnv s) (h := g) (o := o)
    have expired (u : Tx) (i : StackItem) (m : i ∈ g.stack[u]) := eraseHall_stack_emit (e := erasedEnv s) m
    have gone (i : DeferItem) (m : i ∈ g.deferral) := eraseHall_deferral_emit (e := erasedEnv s) m
    have empty (n : BankNo) := eraseHall_empty (e := erasedEnv s) (h := g) (n := n)
    have asg (u : Tx) (a b : Asg) := eraseHall_asg (e := erasedEnv s) (h := g) (t := u) (a := a) (b := b)
    obtain ⟨_, _, dslot, running, mode, deferral, stack, holds, _, _, xpt, slots, faults, _⟩ := erased
    generalize eraseHall (erasedEnv s) g = h at *
    refine ⟨fun n => ⟨empty n, bank n⟩, dslot, running, mode, deferral, gone, fun u => ⟨holds u, stack u, expired u,
      fun b a hb sched => (asg u a b hb sched).1, fun b x hb hx run rad st => ?_, congrArg (·.undef) (body u), congrArg (·.st) (body u),
      congrArg (·.permit) (body u), congrArg (·.window) (body u)⟩, xpt, slots, faults, fun o => ?_⟩
    · refine (asg u b b hb (by rw [hx]; nofun)).2 run ?_
      rw [tx₀]
      exact needsLower_quiet rad st
    · rw [← slewSlot_path path₀]
      exact pos o
  · have lim : lapseLimit s.tables t rep.cond = some d := by rw [← lim]; cases rep.cond <;> rfl
    have taken := adoptionLapse_taken (e := s.env) (unjudged_iff.2 ⟨mode, unj⟩) ((lapseDue_limit hx hr).2 ⟨d, lim, due⟩)
    exact completes_happen rfl (by rw [State.onHall, taken])
  · have idle : adoptionLapse t s.env s.hall = s.hall := by
      refine adoptionLapse_idle (w.imp (fun w => Bool.eq_false_iff.2 (mt unjudged_iff.1 w)) fun w => ?_)
      rw [lapseDue, w]
      rfl
    exact completes_happen rfl (by rw [State.onHall, idle])
  · have idle : adoptionLapse t s.env s.hall = s.hall := by
      refine adoptionLapse_idle (.inr (Bool.eq_false_iff.2 fun due => ?_))
      obtain ⟨d, lim, passed⟩ := (lapseDue_limit hx hr).1 due
      exact absurd passed (Nat.not_le.2 (later d (by rw [← lim]; cases rep.cond <;> rfl)))
    exact completes_happen rfl (by rw [State.onHall, idle])
  · refine ⟨readyToJudge_iff, adoptStep_idle, fun ready => adoptStep_judges (readyToJudge_iff.2 ready), adoptStep_ends,
      judge_lockout, judge_local, judge_tripped, fun lk nl nt => ⟨fun nr rfp => ?_, fun f m kw c blind => ?_, fun f m kw o c path => ?_,
        judge_moving lk nl nt, judge_quiet (dec := _) lk nl nt⟩, fun o f m kw => adoptCarrier_unmatched,
      fun o f m kw n c cand _ => ?_,
      fun o f m kw => ⟨foundParams h o f m kw, rfl, rfl, rfl, rfl, rfl, fun n => foundParams_preset, adoptForeign_permitted,
        adoptForeign_refused⟩, fun o w => ?_,
      endWhere e (pastStop e) .completed h, spendRetiring (endWhere e (pastStop e) .completed h), endAdoption_eq,
      endWhere_pastStop, fun u b x => endWhere_past, fun u b => endWhere_later, fun n => spendRetiring_kept,
      fun n => spendRetiring_spent, spendRetiring_none⟩
    · exact (judge_carrier lk nl nt (.inr ⟨nr, rfp⟩)).trans (judgeCarrier_unreachable nr)
    · exact (judge_carrier lk nl nt (.inl ⟨f, m, kw, c⟩)).trans (judgeCarrier_noPath c blind)
    · exact (judge_carrier lk nl nt (.inl ⟨f, m, kw, c⟩)).trans (judgeCarrier_path c path)
    · obtain ⟨n', c', found, cand', least⟩ := matchCarrier_some cand
      exact ⟨n', c', cand', least n c cand, adoptCarrier_matched found⟩
    · obtain ⟨asg, idle, owner, kw⟩ := adoptAsg_same (t := t) (o := o) (h := h) (a := w)
      exact ⟨asg, idle, owner, kw, rfl, rfl⟩

end
end Sys2Proof.Proofs
namespace Sys2Proof.Machine

set_option Elab.async false
section
variable {s : State} {tag bank id : Nat} {n : BankNo} {k : ChangeKind} {f : Option EntryForm}

/-! ### CHANGE-POST -/

/-- R20: the entry that a change carries, under the change's id. -/
def postEntry (id : Nat) (f : Option EntryForm) : Option Entry := f.bind fun f => entryOf { f with id := id }

/-- R20: the id is one of R1, and the entry of an ADD or AMEND too, without a preset on a dummy load. -/
def PostRange (k : ChangeKind) (id : Nat) (f : Option EntryForm) : Prop :=
  1 ≤ id ∧ id ≤ 65535 ∧ (k ≠ .withdraw → ∃ en, postEntry id f = some en ∧ (isLoad en.out = true → en.preset = none))

/-- R20: the entry stands exactly with ADD and AMEND. -/
theorem changeForm_iff : changeForm (some k) f = true ↔ (k = .withdraw ↔ f = none) := by
  cases k <;> simp [changeForm, Option.isSome_iff_ne_none]

theorem changeEntry_some (form : k = .withdraw ↔ f = none) (range : PostRange k id f) :
    changeEntry id f = some (postEntry id f) := by
  obtain ⟨-, -, entry⟩ := range
  cases f with
  | none => rfl
  | some f =>
    obtain ⟨en, q, load⟩ := entry fun w => nomatch form.1 w
    have ok : ¬ (isLoad en.out && en.preset.isSome) = true := by
      rw [Bool.and_eq_true, not_and]
      intro l
      rw [load l]
      decide
    replace q : entryOf { f with id := id } = some en := q
    rw [changeEntry, q, postEntry, Option.bind_some, q]
    exact if_neg ok

theorem changeEntry_none (form : k = .withdraw ↔ f = none) (ids : 1 ≤ id ∧ id ≤ 65535) (range : ¬ PostRange k id f) :
    changeEntry id f = none := by
  cases f with
  | none => exact absurd ⟨ids.1, ids.2, fun w => absurd (form.2 rfl) w⟩ range
  | some f =>
    unfold changeEntry
    dsimp only
    cases q : entryOf { f with id := id } with
    | none => rfl
    | some en =>
      refine if_pos ?_
      by_contra ok
      refine range ⟨ids.1, ids.2, fun _ => ⟨en, q, fun l => ?_⟩⟩
      simpa [l] using ok

theorem changePost_badForm (form : ¬ (k = .withdraw ↔ f = none)) :
    changePost tag bank (some k) id f s = s.refuse .badForm :=
  if_pos (by rw [Bool.eq_false_iff.2 (mt changeForm_iff.1 form)]; rfl)

/-- R20: a request of the right form that names its bank and kind. -/
theorem changePost_formed (form : k = .withdraw ↔ f = none) : changePost tag (n.val + 1) (some k) id f s =
    if !within 1 65535 id then s.refuse .range
    else named s (changeEntry id f) fun en =>
      if 16 ≤ s.hall.changes.length then s.refuse .full
      else ({ s with hall := { s.hall with changes := s.hall.changes ++
        [(⟨tag, n, k, id, en, false, [], [], false⟩ : Change)] } }).ans .accepted .nothing := by
  unfold changePost
  rw [changeForm_iff.2 form, bankOf_succ]
  rfl

theorem changePost_noKind : changePost tag (n.val + 1) none id f s = s.refuse .range := by
  unfold changePost
  rw [bankOf_succ]
  rfl

theorem changePost_outOfRange (form : k = .withdraw ↔ f = none) (range : ¬ PostRange k id f) :
    changePost tag (n.val + 1) (some k) id f s = s.refuse .range := by
  rw [changePost_formed form]
  by_cases ids : 1 ≤ id ∧ id ≤ 65535
  · rw [changeEntry_none form ids range]
    exact ite_self _
  · exact if_pos (by rw [within_false.2 ids]; rfl)

theorem changePost_inRange (form : k = .withdraw ↔ f = none) (range : PostRange k id f) :
    changePost tag (n.val + 1) (some k) id f s =
      if 16 ≤ s.hall.changes.length then s.refuse .full
      else ({ s with hall := { s.hall with changes := s.hall.changes ++
        [(⟨tag, n, k, id, postEntry id f, false, [], [], false⟩ : Change)] } }).ans .accepted .nothing := by
  rw [changePost_formed form, changeEntry_some form range]
  exact if_neg (by rw [within_iff.2 ⟨range.1, range.2.1⟩]; decide)

end
end Sys2Proof.Machine

namespace Sys2Proof.Proofs

set_option Elab.async false
section
open Machine

/-- Settles O17, by the tests of R20 in their order. -/
theorem changePost : Obligations.ChangePost := by
  intro tag id n k f s w
  refine ⟨fun form bank => refused_request w rfl (changePost_badForm form),
    fun form bank out => refused_request w rfl (changePost_range (changeForm_iff.2 form) out),
    refused_request w rfl changePost_noKind, fun form range => refused_request w rfl (changePost_outOfRange form range),
    fun form range full => refused_request w rfl ?_, fun form range room => completes_request w rfl ?_⟩
  · rw [changePost_inRange form range, if_pos full]
  · rw [changePost_inRange form range, if_neg (Nat.not_le.2 room)]
    rfl

end
end Sys2Proof.Proofs
namespace Sys2Proof.Machine

set_option Elab.async false
section
variable {h : Hall} {e : Env} {t u : Tx} {o : Out} {x : Target} {m : Motion} {k : MotionKind}

/-! ### What a path sequence looks at -/

/-- R102: a granted request that T's sequence awaits. -/
def Granted (h : Hall) (t : Tx) : Prop := ∃ (i : Fin 4) (x : Slot), h.path.slots[i] = some x ∧ t ∈ x.motion.waiters

/-- R102: a queued request that T's sequence awaits. -/
def Queued (h : Hall) (t : Tx) : Prop := ∃ m ∈ h.path.queue, t ∈ m.waiters

theorem mem_grantedOf : m ∈ grantedOf h t ↔
    t ∈ m.waiters ∧ ∃ (i : Fin 4) (x : Slot), h.path.slots[i] = some x ∧ x.motion = m := by
  unfold grantedOf
  simp only [List.mem_map, List.mem_filter, mem_slotList, List.contains_iff_mem]
  constructor
  · rintro ⟨x, ⟨⟨i, hi⟩, w⟩, rfl⟩
    exact ⟨w, i, x, hi, rfl⟩
  · rintro ⟨w, i, x, hi, rfl⟩
    exact ⟨x, ⟨⟨i, hi⟩, w⟩, rfl⟩

theorem mem_queuedOf : m ∈ queuedOf h t ↔ t ∈ m.waiters ∧ m ∈ h.path.queue := by
  rw [queuedOf, List.mem_filter, List.contains_iff_mem, and_comm]

theorem grantedOf_isEmpty : (grantedOf h t).isEmpty = true ↔ ¬ Granted h t := by
  rw [List.isEmpty_iff, List.eq_nil_iff_forall_not_mem]
  constructor
  · rintro none ⟨i, x, hi, w⟩
    exact none x.motion (mem_grantedOf.2 ⟨w, i, x, hi, rfl⟩)
  · intro free m hm
    obtain ⟨w, i, x, hi, rfl⟩ := mem_grantedOf.1 hm
    exact free ⟨i, x, hi, w⟩

theorem queuedOf_isEmpty : (queuedOf h t).isEmpty = true ↔ ¬ Queued h t := by
  rw [List.isEmpty_iff, List.eq_nil_iff_forall_not_mem]
  constructor
  · rintro none ⟨m, hm, w⟩
    exact none m (mem_queuedOf.2 ⟨w, hm⟩)
  · intro free m hm
    obtain ⟨w, hm⟩ := mem_queuedOf.1 hm
    exact free ⟨m, hm, w⟩

/-- R101: T's sequence awaits a request of the kind. -/
def Awaits (h : Hall) (t : Tx) (k : MotionKind) : Prop := ∃ m, m.kind = k ∧ t ∈ m.waiters ∧
  (m ∈ h.path.queue ∨ ∃ (i : Fin 4) (x : Slot), h.path.slots[i] = some x ∧ x.motion = m)

theorem mem_awaited : k ∈ (grantedOf h t ++ queuedOf h t).map Motion.kind ↔ Awaits h t k := by
  unfold Awaits
  simp only [List.mem_map, List.mem_append, mem_grantedOf, mem_queuedOf]
  constructor
  · rintro ⟨m, ⟨w, q⟩ | ⟨w, q⟩, rfl⟩
    · exact ⟨m, rfl, w, .inr q⟩
    · exact ⟨m, rfl, w, .inl q⟩
  · rintro ⟨m, rfl, w, q | q⟩
    · exact ⟨m, .inr ⟨w, q⟩, rfl⟩
    · exact ⟨m, .inl ⟨w, q⟩, rfl⟩

theorem needsMake_iff : (decide (xst h t o ≠ .closed) &&
    !((grantedOf h t ++ queuedOf h t).map Motion.kind).contains (.make t o)) = true ↔
      xst h t o ≠ .closed ∧ ¬ Awaits h t (.make t o) := by
  rw [Bool.and_eq_true, decide_eq_true_eq, Bool.not_eq_true', Bool.eq_false_iff, ne_eq (_ : Bool), List.contains_iff_mem,
    mem_awaited]

/-- R101: only a slew moves a positioner. -/
theorem sameTarget_slew {n : Nat} (w : sameTarget k (.slew o n) = true) : ∃ j, k = .slew o j := by
  cases k with
  | make => cases w
  | brk => cases w
  | slew p j => exact ⟨j, by rw [of_decide_eq_true w]⟩

/-- R101: a request that T's sequence awaits too. -/
def Motion.joined (t : Tx) (m : Motion) : Motion := if t ∈ m.waiters then m else { m with waiters := m.waiters ++ [t] }

theorem joined_eq : (m.joined t) = if m.waiters.contains t then m else { m with waiters := m.waiters ++ [t] } :=
  if_congr List.contains_iff_mem.symm rfl rfl

/-- R103 step 1, R111: the output is FAULTED, or the row or the column holds an UNKNOWN crosspoint. -/
def PathBlocked (h : Hall) (t : Tx) (o : Out) : Prop :=
  outState h o = .faulted ∨ (∃ p, xst h t p = .unknown) ∨ ∃ u, xst h u o = .unknown

theorem pathBlocked_iff : pathBlocked h t o = true ↔ PathBlocked h t o := by
  simp [pathBlocked, PathBlocked, or_assoc]

/-- R106, R116: the output is slewable and its positioner is not known to be parked at the preset. -/
def SlewNeeded (k : Tables) (h : Hall) (x : Target) : Prop :=
  (k.outs[x.out]).slewable = true ∧ ∃ p, h.path.pos[x.out] = some p ∧
    ¬ (p.read = true ∧ x.preset ≠ none ∧ p.st = .parked x.preset)

theorem slewWanted_iff {k : Tables} : slewWanted k h x = true ↔ SlewNeeded k h x := by
  unfold slewWanted SlewNeeded parkedAt
  cases h.path.pos[x.out] with
  | none => simp
  | some p => simp [imp_iff_not_or, or_assoc]

/-- R123: the positioner has no such preset. -/
def PresetMissing (h : Hall) (x : Target) : Prop :=
  ∃ p n, h.path.pos[x.out] = some p ∧ x.preset = some n ∧ p.preset n = none

theorem presetUndefined_iff : presetUndefined h x = true ↔ PresetMissing h x := by
  unfold presetUndefined PresetMissing Pos.preset
  cases h.path.pos[x.out] with
  | none => simp
  | some p =>
    cases x.preset with
    | none => simp
    | some n => by_cases hn : n < 16 <;> simp [hn]

/-- R104: a motion of row T, of column O or of O's positioner. -/
def Stirs (t : Tx) (o : Out) : MotionKind → Prop
  | .make u p | .brk u p => u = t ∨ p = o
  | .slew p _ => p = o

/-- R104: such a motion holds a slot. -/
def Stirred (h : Hall) (t : Tx) (o : Out) : Prop :=
  ∃ (i : Fin 4) (x : Slot), h.path.slots[i] = some x ∧ Stirs t o x.motion.kind

theorem settled_iff : settled h t o = true ↔ ¬ Stirred h t o := by
  unfold settled Stirred
  simp only [List.all_eq_true, mem_slotList, not_exists, not_and, forall_exists_index]
  refine ⟨fun w i x hi => ?_, fun w x i hi => ?_⟩
  · have rest := w x i hi
    cases hk : x.motion.kind <;> simpa [Stirs, hk] using rest
  · have rest := w i x hi
    cases hk : x.motion.kind <;> simpa [Stirs, hk] using rest

theorem mem_permitsWanted : u ∈ permitsWanted h t o ↔ u = t ∨ xst h u o ≠ .opened := by
  by_cases q : u = t <;> simp [permitsWanted, q]

theorem breaksNeeded_eq : breaksNeeded h t o =
    ((allOut.filter fun p => decide (p ≠ o ∧ xst h t p ≠ .opened)).map fun p => MotionKind.brk t p) ++
      (allTx.filter fun u => decide (u ≠ t ∧ xst h u o ≠ .opened)).map fun u => .brk u o := by
  simp only [breaksNeeded, Bool.decide_and]

/-! ### A path request -/

theorem setSeq_congr {f g : PathSeq → PathSeq} (w : f h.path.seqs[t] = g h.path.seqs[t]) : h.setSeq t f = h.setSeq t g := by
  unfold Hall.setSeq Hall.setPath
  dsimp only
  rw [upd_congr _ _ w]

theorem leaveQueued_eq : leaveQueued t h =
    h.setQueue ((h.path.queue.map fun m => { m with waiters := m.waiters.filter fun u => decide (u ≠ t) }).filter
      fun m => decide (m.waiters ≠ [])) := by
  unfold leaveQueued
  congr 1
  refine List.filter_congr fun m _ => ?_
  cases m.waiters <;> simp

theorem pathRequest_undefined (w : PresetMissing h x) : pathRequest e t x h = failSeq e t h :=
  if_pos (presetUndefined_iff.2 w)

section
variable (known : ¬ PresetMissing h x)
include known

theorem pathRequest_idle (st : (h.path.seqs[t]).stage = .idle) : pathRequest e t x h =
    if pathBlocked h t x.out then failSeq e t h
    else if pathMade e.k h t x then pathComplete t h
    else h.setSeq t fun s => { s with stage := .settling, target := some x } := by
  unfold pathRequest
  rw [if_neg (mt presetUndefined_iff.1 known), st]

theorem pathRequest_blocked (st : (h.path.seqs[t]).stage = .idle) (w : PathBlocked h t x.out) :
    pathRequest e t x h = failSeq e t h := by
  rw [pathRequest_idle known st, if_pos (pathBlocked_iff.2 w)]

theorem pathRequest_made (st : (h.path.seqs[t]).stage = .idle) (w : ¬ PathBlocked h t x.out) (closed : xst h t x.out = .closed)
    (slew : ¬ SlewNeeded e.k h x) : pathRequest e t x h = pathComplete t h := by
  have made : pathMade e.k h t x = true := by
    rw [pathMade, closed, Bool.eq_false_iff.2 (mt slewWanted_iff.1 slew)]
    rfl
  rw [pathRequest_idle known st, if_neg (mt pathBlocked_iff.1 w), if_pos made]

theorem pathRequest_begins (st : (h.path.seqs[t]).stage = .idle) (w : ¬ PathBlocked h t x.out)
    (open_ : ¬ xst h t x.out = .closed ∨ SlewNeeded e.k h x) :
    pathRequest e t x h = h.setSeq t fun s => { s with stage := .settling, target := some x } := by
  have unmade : ¬ pathMade e.k h t x = true := by
    rw [pathMade, Bool.and_eq_true, decide_eq_true_eq, Bool.not_eq_true', Bool.eq_false_iff, ne_eq, slewWanted_iff]
    exact fun made => open_.elim (fun w => w made.1) made.2
  rw [pathRequest_idle known st, if_neg (mt pathBlocked_iff.1 w), if_neg unmade]

theorem pathRequest_retarget (st : (h.path.seqs[t]).stage = .settling ∨ (h.path.seqs[t]).stage = .permits) :
    pathRequest e t x h = h.setSeq t fun s => { s with stage := .settling, target := some x } := by
  unfold pathRequest
  rcases st with st | st <;> rw [if_neg (mt presetUndefined_iff.1 known), st]

theorem pathRequest_redirect [dec : Decidable (Granted h t)]
    (st : (h.path.seqs[t]).stage = .breaking ∨ (h.path.seqs[t]).stage = .making) :
    pathRequest e t x h = (leaveQueued t h).setSeq t fun s =>
      { s with stage := if Granted h t then .redirecting else .settling, target := some x } := by
  have stage : (if (grantedOf h t).isEmpty = true then SeqStage.settling else .redirecting) =
      if Granted h t then .redirecting else .settling := by
    rw [← ite_not (p := Granted h t)]
    exact if_congr grantedOf_isEmpty rfl rfl
  rw [← stage]
  unfold pathRequest
  rcases st with st | st <;> rw [if_neg (mt presetUndefined_iff.1 known), st] <;> rfl

theorem pathRequest_redirecting (st : (h.path.seqs[t]).stage = .redirecting) :
    pathRequest e t x h = h.setSeq t fun s => { s with stage := .redirecting, target := some x } := by
  unfold pathRequest
  rw [if_neg (mt presetUndefined_iff.1 known), st]
  exact setSeq_congr (by rw [← st])

theorem pathRequest_cancelling (st : (h.path.seqs[t]).stage = .cancelling) :
    pathRequest e t x h = h.setSeq t fun s => { s with next := some x } := by
  unfold pathRequest
  rw [if_neg (mt presetUndefined_iff.1 known), st]

end

/-! ### A cancel -/

theorem cancelSeq_idle (st : (h.path.seqs[t]).stage = .idle) : cancelSeq t h = h := if_pos st

theorem cancelSeq_free (st : (h.path.seqs[t]).stage ≠ .idle) (free : ¬ Granted h t) :
    cancelSeq t h = (leaveQueued t h).setSeq t fun _ => PathSeq.idle :=
  (if_neg st).trans (if_pos (grantedOf_isEmpty (h := h).2 free))

theorem cancelSeq_granted (st : (h.path.seqs[t]).stage ≠ .idle) (held : Granted h t) :
    cancelSeq t h = (leaveQueued t h).setSeq t fun s => { s with stage := .cancelling, target := none, next := none } :=
  (if_neg st).trans (if_neg fun w => grantedOf_isEmpty (h := h).1 w held)

/-! ### The next move of a sequence -/

theorem seqStep_cancelling (st : (h.path.seqs[t]).stage = .cancelling) (free : ¬ Granted h t)
    (target : (h.path.seqs[t]).next = some x) :
    seqStep e t h = some (h.setSeq t fun s => { s with stage := .settling, target := some x, next := none }) := by
  unfold seqStep
  simp only [st, target, grantedOf_isEmpty.2 free]
  rfl

theorem seqStep_cancelled (st : (h.path.seqs[t]).stage = .cancelling) (free : ¬ Granted h t)
    (none : (h.path.seqs[t]).next = none) : seqStep e t h = some (h.setSeq t fun _ => PathSeq.idle) := by
  unfold seqStep
  simp only [st, none, grantedOf_isEmpty.2 free]
  rfl

theorem seqStep_redirected (st : (h.path.seqs[t]).stage = .redirecting) (free : ¬ Granted h t) :
    seqStep e t h = some (h.setSeq t fun s => { s with stage := .settling }) := by
  unfold seqStep
  simp only [st, grantedOf_isEmpty.2 free]
  rfl

theorem seqStep_waits (st : (h.path.seqs[t]).stage = .redirecting ∨ (h.path.seqs[t]).stage = .cancelling)
    (held : Granted h t) : seqStep e t h = none := by
  have some : (grantedOf h t).isEmpty = false := Bool.eq_false_iff.2 fun w => grantedOf_isEmpty.1 w held
  unfold seqStep
  rcases st with st | st <;> simp only [st, some] <;> rfl

section
variable (target : (h.path.seqs[t]).target = some x)
include target

theorem seqStep_settling (st : (h.path.seqs[t]).stage = .settling) : seqStep e t h =
    if outState h x.out = .faulted then some (failSeq e t h)
    else if !settled h t x.out then none
    else if pathBlocked h t x.out then some (failSeq e t h)
    else some (h.setSeq t fun s => { s with stage := .permits, wants := permitsWanted h t x.out }) := by
  unfold seqStep
  simp only [st, target]

/-- R104, R111: a target FAULTED, or found UNKNOWN at rest, fails the sequence. -/
theorem seqStep_settling_fails (st : (h.path.seqs[t]).stage = .settling)
    (w : outState h x.out = .faulted ∨ (¬ Stirred h t x.out ∧ PathBlocked h t x.out)) :
    seqStep e t h = some (failSeq e t h) := by
  rw [seqStep_settling target st]
  by_cases faulted : outState h x.out = .faulted
  · exact if_pos faulted
  · obtain ⟨rest, bad⟩ := w.resolve_left faulted
    rw [if_neg faulted, settled_iff.2 rest, if_neg (by decide), if_pos (pathBlocked_iff.2 bad)]

theorem seqStep_settling_waits (st : (h.path.seqs[t]).stage = .settling) (sound : ¬ outState h x.out = .faulted)
    (stirred : Stirred h t x.out) : seqStep e t h = none := by
  rw [seqStep_settling target st, if_neg sound, if_pos]
  rw [Bool.eq_false_iff.2 fun w => settled_iff.1 w stirred]
  rfl

theorem seqStep_settled (st : (h.path.seqs[t]).stage = .settling) (sound : ¬ PathBlocked h t x.out)
    (rest : ¬ Stirred h t x.out) :
    seqStep e t h = some (h.setSeq t fun s => { s with stage := .permits, wants := permitsWanted h t x.out }) := by
  rw [seqStep_settling target st, if_neg fun w => sound (.inl w), settled_iff.2 rest, if_neg (by decide),
    if_neg (mt pathBlocked_iff.1 sound)]

/-- R111: past SETTLING too, a FAULTED target or an UNKNOWN crosspoint fails the sequence (log 43). -/
theorem seqStep_blocked (st : (h.path.seqs[t]).stage = .permits ∨ (h.path.seqs[t]).stage = .breaking ∨
    (h.path.seqs[t]).stage = .making) (w : PathBlocked h t x.out) : seqStep e t h = some (failSeq e t h) := by
  unfold seqStep
  rcases st with st | st | st <;> simp only [st, target, pathBlocked_iff.2 w, if_true]

variable (sound : ¬ PathBlocked h t x.out)
include sound

theorem seqStep_permits (st : (h.path.seqs[t]).stage = .permits) : seqStep e t h =
    if (h.path.seqs[t]).wants.all fun u => decide ((h.tx[u]).permit = .granted) then
      some ((h.setSeq t fun s => { s with stage := .breaking }).each (breaksNeeded h t x.out) (joinOrQueue t))
    else none := by
  unfold seqStep
  simp only [st, target]
  rw [if_neg (mt pathBlocked_iff.1 sound)]

theorem seqStep_permitted (st : (h.path.seqs[t]).stage = .permits)
    (all : ∀ u ∈ (h.path.seqs[t]).wants, (h.tx[u]).permit = .granted) : seqStep e t h =
      some ((h.setSeq t fun s => { s with stage := .breaking }).each (breaksNeeded h t x.out) (joinOrQueue t)) := by
  rw [seqStep_permits target sound st, if_pos]
  exact List.all_eq_true.2 fun u hu => decide_eq_true (all u hu)

theorem seqStep_unpermitted (st : (h.path.seqs[t]).stage = .permits)
    (lacks : ¬ ∀ u ∈ (h.path.seqs[t]).wants, (h.tx[u]).permit = .granted) : seqStep e t h = none := by
  rw [seqStep_permits target sound st, if_neg]
  exact fun w => lacks fun u hu => of_decide_eq_true (List.all_eq_true.1 w u hu)

theorem seqStep_breaking (st : (h.path.seqs[t]).stage = .breaking) : seqStep e t h =
    if (grantedOf h t).isEmpty && (queuedOf h t).isEmpty then some (h.setSeq t fun s => { s with stage := .making })
    else none := by
  unfold seqStep
  simp only [st, target]
  rw [if_neg (mt pathBlocked_iff.1 sound)]

theorem seqStep_broken (st : (h.path.seqs[t]).stage = .breaking) (free : ¬ Granted h t) (left : ¬ Queued h t) :
    seqStep e t h = some (h.setSeq t fun s => { s with stage := .making }) := by
  rw [seqStep_breaking target sound st, grantedOf_isEmpty.2 free, queuedOf_isEmpty.2 left]
  rfl

theorem seqStep_breaking_waits (st : (h.path.seqs[t]).stage = .breaking) (w : Granted h t ∨ Queued h t) :
    seqStep e t h = none := by
  rw [seqStep_breaking target sound st, if_neg]
  rw [Bool.and_eq_true, grantedOf_isEmpty, queuedOf_isEmpty, ← not_or, not_not]
  exact w

/-- R106: the MAKE comes first. -/
theorem seqStep_makes (st : (h.path.seqs[t]).stage = .making) (open_ : ¬ xst h t x.out = .closed)
    (alone : ¬ Awaits h t (.make t x.out)) : seqStep e t h = some (joinOrQueue t (.make t x.out) h) := by
  unfold seqStep
  simp only [st, target]
  rw [if_neg (mt pathBlocked_iff.1 sound), if_pos (needsMake_iff.2 ⟨open_, alone⟩)]

/-- R106, R116: then the SLEW, while no slew of the positioner waits or runs. -/
theorem seqStep_slews {n : Nat} (st : (h.path.seqs[t]).stage = .making)
    (made : xst h t x.out = .closed ∨ Awaits h t (.make t x.out)) (slew : SlewNeeded e.k h x) (preset : x.preset = some n)
    (queue : ∀ m ∈ h.path.queue, ∀ j, m.kind ≠ .slew x.out j)
    (slots : ∀ (i : Fin 4) (y : Slot) (j : Nat), h.path.slots[i] = some y → y.motion.kind ≠ .slew x.out j) :
    seqStep e t h = some (joinOrQueue t (.slew x.out n) h) := by
  have alone : ¬ ((grantedOf h t ++ queuedOf h t).map Motion.kind).contains (.slew x.out n) = true := by
    rw [List.contains_iff_mem, mem_awaited]
    rintro ⟨m, hk, -, q | ⟨i, y, hy, rfl⟩⟩
    · exact queue m q n hk
    · exact slots i y n hy hk
  have still : ¬ (h.path.queue.map Motion.kind ++ (slotList h).map fun s => s.motion.kind).any
      (fun k => sameTarget k (.slew x.out n) && decide (k ≠ .slew x.out n)) = true := by
    rw [List.any_eq_true]
    rintro ⟨k, mem, q⟩
    obtain ⟨j, rfl⟩ := sameTarget_slew (Bool.and_eq_true _ _ ▸ q).1
    rcases List.mem_append.1 mem with mem | mem
    · obtain ⟨m, hm, hk⟩ := List.mem_map.1 mem
      exact queue m hm j hk
    · obtain ⟨y, hy, hk⟩ := List.mem_map.1 mem
      obtain ⟨i, hi⟩ := mem_slotList.1 hy
      exact slots i y j hi hk
  unfold seqStep
  simp only [st, target, preset]
  rw [if_neg (mt pathBlocked_iff.1 sound), if_neg fun w => made.elim (needsMake_iff.1 w).1 (needsMake_iff.1 w).2,
    if_pos (slewWanted_iff.2 slew), if_neg alone, if_neg still]

/-- R107: with the path made and nothing awaited, it is complete. -/
theorem seqStep_completes (st : (h.path.seqs[t]).stage = .making) (closed : xst h t x.out = .closed)
    (slew : ¬ SlewNeeded e.k h x) (free : ¬ Granted h t) (left : ¬ Queued h t) :
    seqStep e t h = some (pathComplete t (h.setSeq t fun _ => PathSeq.idle)) := by
  have none : ((grantedOf h t ++ queuedOf h t).map Motion.kind).isEmpty = true := by
    rw [List.isEmpty_iff.1 (grantedOf_isEmpty.2 free), List.isEmpty_iff.1 (queuedOf_isEmpty.2 left)]
    rfl
  unfold seqStep
  simp only [st, target]
  rw [if_neg (mt pathBlocked_iff.1 sound), if_neg fun w => (needsMake_iff.1 w).1 closed, if_neg (mt slewWanted_iff.1 slew),
    if_pos none]

end

/-! ### Requests for motion -/

theorem joinOrQueue_queued (w : ∃ m ∈ h.path.queue, m.kind = k) : joinOrQueue t k h =
    h.setQueue (h.path.queue.map fun m => if m.kind = k then m.joined t else m) := by
  obtain ⟨m, hm, hk⟩ := w
  have q : (h.path.queue.any fun m => decide (m.kind = k)) = true := List.any_eq_true.2 ⟨m, hm, decide_eq_true hk⟩
  simp only [joined_eq]
  exact if_pos q

/-- R101: a granted request of the kind, not after a hot switch. -/
def InSlot (h : Hall) (k : MotionKind) : Prop :=
  ∃ (i : Fin 4) (x : Slot), h.path.slots[i] = some x ∧ x.motion.kind = k ∧ x.hot = false

theorem inSlot_iff : ((slotList h).any fun s => decide (s.motion.kind = k) && !s.hot) = true ↔ InSlot h k := by
  simp only [List.any_eq_true, mem_slotList, Bool.and_eq_true, decide_eq_true_eq, Bool.not_eq_true', InSlot]
  constructor
  · rintro ⟨x, ⟨i, hi⟩, w⟩
    exact ⟨i, x, hi, w⟩
  · rintro ⟨i, x, hi, w⟩
    exact ⟨x, ⟨i, hi⟩, w⟩

theorem not_queued (w : ¬ ∃ m ∈ h.path.queue, m.kind = k) : ¬ (h.path.queue.any fun m => decide (m.kind = k)) = true := by
  rw [List.any_eq_true]
  rintro ⟨m, hm, hk⟩
  exact w ⟨m, hm, of_decide_eq_true hk⟩

theorem mapSlots_slot {f : Slot → Option Slot} (i : Fin 4) : (h.mapSlots f).path.slots[i] = (h.path.slots[i]).bind f := by
  simp

theorem joinOrQueue_granted (none : ¬ ∃ m ∈ h.path.queue, m.kind = k) (w : InSlot h k) : joinOrQueue t k h =
    h.mapSlots fun s => some (if s.motion.kind = k then { s with motion := s.motion.joined t } else s) := by
  simp only [joined_eq]
  exact (if_neg (not_queued none)).trans (if_pos (inSlot_iff.2 w))

theorem joinOrQueue_new (none : ¬ ∃ m ∈ h.path.queue, m.kind = k) (free : ¬ InSlot h k) : joinOrQueue t k h =
    { h with path := { h.path with
      queue := h.path.queue ++ [⟨k, h.path.arrival, [t]⟩], arrival := seqSucc h.path.arrival } } :=
  (if_neg (not_queued none)).trans (if_neg (mt inSlot_iff.1 free))

end
end Sys2Proof.Machine
namespace Sys2Proof.Machine

set_option Elab.async false
section
variable {h : Hall} {e : Env} {t u : Tx} {o : Out} {m : Motion} {i : Fin 4}

/-! ### Eligible requests -/

theorem frozen_eq_false : frozen h u = false ↔ ∀ c rest, h.changes = c :: rest → c.draining = true → u ∉ c.frozen := by
  unfold frozen
  cases h.changes <;> simp

/-- R101, R123: what the target of a request asks for. -/
def MayMove (h : Hall) : MotionKind → Prop
  | .make t o => (h.tx[t]).permit = .granted ∧ (∀ p, p ≠ o → xst h t p = .opened) ∧ ∀ u, u ≠ t → xst h u o = .opened
  | .brk t _ => (h.tx[t]).permit = .granted
  | .slew o _ => (∃ p, h.path.pos[o] = some p ∧ p.read = true ∧ p.st ≠ .stalled) ∧
      ∀ t, feeder h o = some t → (h.tx[t]).permit = .granted ∧ ∃ u : Tx, t ∈ (h.path.seqs[u]).wants

/-- R101: a request may be granted. -/
def May (h : Hall) (m : Motion) : Prop :=
  (∃ u ∈ m.waiters, ∀ c rest, h.changes = c :: rest → c.draining = true → u ∉ c.frozen) ∧
  (∀ (i : Fin 4) (x : Slot), h.path.slots[i] = some x → sameTarget x.motion.kind m.kind = false) ∧ MayMove h m.kind

theorem mem_holders : u ∈ holders h t ↔ t ∈ (h.path.seqs[u]).wants := by
  simp [holders]

/-- R104: some sequence wants the permit. -/
def PermitWanted (h : Hall) (t : Tx) : Prop := ∃ u : Tx, t ∈ (h.path.seqs[u]).wants

theorem holders_isEmpty : (holders h t).isEmpty = true ↔ ¬ PermitWanted h t := by
  rw [List.isEmpty_iff, List.eq_nil_iff_forall_not_mem, PermitWanted, not_exists]
  exact forall_congr' fun u => not_congr mem_holders

theorem eligible_iff : eligible h m = true ↔ May h m := by
  unfold eligible May
  rw [Bool.and_eq_true, Bool.and_eq_true, and_assoc]
  refine and_congr ?_ (and_congr ?_ ?_)
  · simp only [List.any_eq_true, Bool.not_eq_true', frozen_eq_false]
  · simp only [Bool.not_eq_true', List.any_eq_false, mem_slotList, Bool.not_eq_true, forall_exists_index]
    exact forall_comm
  · cases m.kind with
    | make t o => simp [MayMove, Decidable.imp_iff_not_or, and_assoc]
    | brk t o => exact decide_eq_true_iff
    | slew o n =>
      simp only [MayMove, Bool.and_eq_true, Option.any_eq_true, Option.all_eq_true, decide_eq_true_eq, Bool.not_eq_true',
        Bool.eq_false_iff, ne_eq, holders_isEmpty, not_not]
      rfl

/-! ### The best request -/

/-- R101: the better of the best so far and one that arrived later. -/
def better (h : Hall) (best : Option Motion) (m : Motion) : Option Motion :=
  match best with
  | none => some m
  | some b => if motionClass h b < motionClass h m then some m else some b

theorem better_lower {best : Option Motion} (w : ∀ b, best = some b → motionClass h b < motionClass h m) :
    better h best m = some m := by
  cases best with
  | none => rfl
  | some b => exact if_pos (w b rfl)

theorem better_fold_lower {l : List Motion} {best : Option Motion} (w : ∀ b, best = some b → motionClass h b < motionClass h m)
    (v : ∀ y ∈ l, motionClass h y < motionClass h m) :
    ∀ b, l.foldl (better h) best = some b → motionClass h b < motionClass h m := by
  induction l generalizing best with
  | nil => exact w
  | cons y l ih =>
    have hy := v y (List.mem_cons_self ..)
    refine ih (fun b hb => ?_) fun z hz => v z (List.mem_cons_of_mem _ hz)
    cases best with
    | none => exact Option.some.inj hb ▸ hy
    | some a =>
      rcases ite_eq_or_eq (motionClass h a < motionClass h y) (some y) (some a) with q | q
      · exact Option.some.inj (q.symm.trans hb) ▸ hy
      · exact w b (q.symm.trans hb)

theorem better_fold_keeps {l : List Motion} (v : ∀ y ∈ l, motionClass h y ≤ motionClass h m) :
    l.foldl (better h) (some m) = some m := by
  induction l with
  | nil => rfl
  | cons y l ih =>
    have same : better h (some m) y = some m := if_neg (Nat.not_lt.2 (v y (List.mem_cons_self ..)))
    rw [List.foldl_cons, same]
    exact ih fun z hz => v z (List.mem_cons_of_mem _ hz)

theorem bestRequest_eq : bestRequest h = (h.path.queue.filter fun m => eligible h m).foldl (better h) none := rfl

/-- R101: the first of the highest class among the eligible ones. -/
theorem bestRequest_some {before after : List Motion} (q : h.path.queue = before ++ m :: after) (may : May h m)
    (lower : ∀ y ∈ before, May h y → motionClass h y < motionClass h m)
    (notHigher : ∀ y ∈ after, May h y → motionClass h y ≤ motionClass h m) : bestRequest h = some m := by
  have first := better_fold_lower (h := h) (m := m) (l := before.filter fun m => eligible h m) (best := none) nofun fun y hy =>
    lower y (List.mem_filter.1 hy).1 (eligible_iff.1 (List.mem_filter.1 hy).2)
  rw [bestRequest_eq, q, List.filter_append, List.filter_cons_of_pos (eligible_iff.2 may), List.foldl_append, List.foldl_cons,
    better_lower first]
  exact better_fold_keeps fun y hy => notHigher y (List.mem_filter.1 hy).1 (eligible_iff.1 (List.mem_filter.1 hy).2)

theorem bestRequest_none (none : ∀ m ∈ h.path.queue, ¬ May h m) : bestRequest h = Option.none := by
  have nil : h.path.queue.filter (fun m => eligible h m) = [] :=
    List.filter_eq_nil_iff.2 fun m hm => mt eligible_iff.1 (none m hm)
  rw [bestRequest_eq, nil]
  rfl

/-! ### A grant -/

theorem freeSlot_none (w : ∀ i : Fin 4, h.path.slots[i] ≠ none) : freeSlot h = none :=
  List.find?_eq_none.2 fun i _ => mt Option.isNone_iff_eq_none.1 (w i)

theorem freeSlot_some (w : ∃ i : Fin 4, h.path.slots[i] = none) : ∃ i, freeSlot h = some i ∧ h.path.slots[i] = none := by
  cases q : freeSlot h with
  | none =>
    obtain ⟨i, hi⟩ := w
    exact absurd (Option.isNone_iff_eq_none.2 hi) (List.find?_eq_none.1 q i (List.mem_finRange i))
  | some i => exact ⟨i, rfl, Option.isNone_iff_eq_none.1 (List.find?_some (p := fun i : Fin 4 => (h.path.slots[i]).isNone) q)⟩

theorem outBecomes_path {a b : OutState} : (outBecomes a b h).path = h.path := by
  unfold outBecomes
  split <;> rfl

/-- R98: a start leaves the slots and the queue to the grant. -/
theorem startMotion_kept {k : MotionKind} : (startMotion e k h).1.path.slots = h.path.slots ∧
    (startMotion e k h).1.path.queue = h.path.queue := by
  cases k with
  | make t o =>
    unfold startMotion
    dsimp only
    rw [outBecomes_path]
    exact ⟨rfl, rfl⟩
  | brk t o => exact ⟨rfl, rfl⟩
  | slew o n =>
    unfold startMotion
    dsimp only
    split <;> exact ⟨rfl, rfl⟩

theorem xst_setXpt {f : Xpt → Xpt} : xst (h.setXpt t o f) t o = (f ((h.path.xpt[o])[t])).st := by
  simp [xst]

theorem startMotion_make : xst (startMotion e (.make t o) h).1 t o = .closing ∧
    (startMotion e (.make t o) h).2 = (e.k.outs[o]).throw * 1000 := by
  unfold startMotion
  refine ⟨?_, rfl⟩
  rw [xst, outBecomes_path]
  exact xst_setXpt

theorem startMotion_brk : xst (startMotion e (.brk t o) h).1 t o = .opening ∧
    (startMotion e (.brk t o) h).2 = (e.k.outs[o]).throw * 1000 := ⟨xst_setXpt, rfl⟩

theorem startMotion_slew {n : Nat} {p : Pos} (hp : h.path.pos[o] = some p) :
    (startMotion e (.slew o n) h).1.path.pos[o] = some { p with st := .slewing n } ∧
    (startMotion e (.slew o n) h).2 = (ceilDiv (travel p ((p.preset n).getD 0)) p.rate + 20) * 1000 := by
  unfold startMotion
  dsimp only
  rw [hp]
  refine ⟨?_, rfl⟩
  simp [hp]

/-- R101: the queue once a request has been granted. -/
def takenFrom (m : Motion) (h : Hall) : Hall := h.setQueue (h.path.queue.filter fun y => decide (y ≠ m))

/-- R98: the slot that a grant fills. -/
def grantedSlot (e : Env) (m : Motion) (h : Hall) : Slot := ⟨m, e.now, (startMotion e m.kind (takenFrom m h)).2, false⟩

theorem grantStep_some (free : freeSlot h = some i) (best : bestRequest h = some m) : grantStep e h =
    some ((startMotion e m.kind (takenFrom m h)).1.setSlot i (some (grantedSlot e m h))) := by
  unfold grantStep
  rw [free, best]
  rfl

theorem grantStep_none (w : freeSlot h = none ∨ bestRequest h = none) : grantStep e h = none := by
  unfold grantStep
  rcases w with w | w
  · rw [w]
  · rw [w]
    cases freeSlot h <;> rfl

end
end Sys2Proof.Machine

namespace Sys2Proof.Proofs

set_option Elab.async false
section
open Machine

/-- R98, R101: what a grant leaves. -/
theorem granted (e : Env) (h : Hall) (before : List Motion) (m : Motion) (after : List Motion)
    (free : ∃ i : Fin 4, h.path.slots[i] = none) (q : h.path.queue = before ++ m :: after) (may : May h m)
    (lower : ∀ y ∈ before, May h y → motionClass h y < motionClass h m)
    (notHigher : ∀ y ∈ after, May h y → motionClass h y ≤ motionClass h m) :
    ∃ (g : Hall) (i : Fin 4) (x : Slot), grantStep e h = some g ∧ h.path.slots[i] = none ∧ g.path.slots[i] = some x ∧
      (∀ j, j ≠ i → g.path.slots[j] = h.path.slots[j]) ∧ x.motion = m ∧ x.start = e.now ∧ x.hot = false ∧
      g.path.queue = (h.path.queue.filter fun y => decide (y ≠ m)) ∧
      (∀ t o, m.kind = .make t o → xst g t o = .closing ∧ x.timeout = (e.k.outs[o]).throw * 1000) ∧
      (∀ t o, m.kind = .brk t o → xst g t o = .opening ∧ x.timeout = (e.k.outs[o]).throw * 1000) ∧
      ∀ o n p, m.kind = .slew o n → h.path.pos[o] = some p → g.path.pos[o] = some { p with st := .slewing n } ∧
        x.timeout = (ceilDiv (travel p ((p.preset n).getD 0)) p.rate + 20) * 1000 := by
  obtain ⟨i, first, none⟩ := freeSlot_some free
  obtain ⟨slots, queue⟩ := startMotion_kept (e := e) (k := m.kind) (h := takenFrom m h)
  refine ⟨_, i, grantedSlot e m h, grantStep_some first (bestRequest_some q may lower notHigher), none, ?_, fun j ne => ?_,
    rfl, rfl, rfl, queue, fun t o hk => ?_, fun t o hk => ?_, fun o n p hk hp => ?_⟩
  · rw [Hall.setSlot_path, get_upd, if_pos rfl]
  · rw [Hall.setSlot_path, get_upd, if_neg ne.symm, slots]
    rfl
  · unfold grantedSlot
    rw [hk]
    exact startMotion_make
  · unfold grantedSlot
    rw [hk]
    exact startMotion_brk
  · unfold grantedSlot
    rw [hk]
    exact startMotion_slew (h := takenFrom m h) hp

/-- Settles O36, by the stages of a path sequence and by the fold over the queue that finds the request to grant. -/
theorem grantsAreSafe : Obligations.GrantsAreSafe := by
  refine ⟨fun e t g h => ?_, fun e h => ?_⟩
  · refine ⟨pathRequest_undefined, fun known => ⟨pathRequest_blocked known, pathRequest_made known, pathRequest_begins known,
      pathRequest_retarget known, fun st => ?_, pathRequest_redirecting known, pathRequest_cancelling known⟩, rfl,
      cancelSeq_idle, fun st free => ?_, fun st held => ?_, fun target => ?_, seqStep_waits, seqStep_redirected,
      seqStep_cancelled, seqStep_cancelling, fun k => ?_⟩
    · rw [← leaveQueued_eq]
      exact pathRequest_redirect (dec := _) known st
    · rw [← leaveQueued_eq]
      exact cancelSeq_free st free
    · rw [← leaveQueued_eq]
      exact cancelSeq_granted st held
    · refine ⟨seqStep_settling_fails target, seqStep_settling_waits target,
        fun st sound rest => ⟨_, seqStep_settled target st sound rest, fun u => mem_permitsWanted⟩, seqStep_blocked target,
        fun st sound all => ?_, fun st sound => seqStep_unpermitted target sound st,
        fun st sound => seqStep_broken target sound st, fun st sound => seqStep_breaking_waits target sound st,
        fun st sound => seqStep_makes target sound st, fun n st sound => seqStep_slews target sound st,
        fun st sound => seqStep_completes target sound st⟩
      rw [← breaksNeeded_eq]
      exact seqStep_permitted target sound st all
    · refine ⟨joinOrQueue_queued, fun none inSlot => ⟨_, joinOrQueue_granted none inSlot, rfl, rfl, fun i => ?_⟩,
        joinOrQueue_new⟩
      rw [mapSlots_slot]
      cases h.path.slots[i] with
      | none => rfl
      | some x => rfl
  · exact ⟨fun w => grantStep_none (w.imp freeSlot_none bestRequest_none), granted e h⟩

end
end Sys2Proof.Proofs

namespace Sys2Proof.Machine

set_option Elab.async false
section
variable {h : Hall} {e : Env} {t u : Tx} {o w : Order} {a : Asg} {k : OrderKind} {p : Order → Bool}

/-! ### Orders handed back -/

/-- R141, R59: what the engine makes of an assignment whose order comes back overtaken. -/
def Asg.overtaken (k : OrderKind) (a : Asg) : Asg :=
  match k with
  | .tune _ _ _ => if a.tune = .asked then { a with tune := .wanted } else a
  | .raise _ =>
      if a.raise ≠ .asked then a
      else if a.phase = .onAir then { a with raise := .done, power := true }
      else { a with raise := .wanted }
  | _ => a

theorem overtaken_eq : overtaken t o h = if o.engine && o.handBack then h.mapAsg t (Asg.overtaken o.kind) else h := rfl

theorem overtaken_idle (w : o.engine = false ∨ o.handBack = false ∨ h.asg[t] = none) : overtaken t o h = h := by
  rw [overtaken_eq]
  rcases w with w | w | none
  · exact if_neg (by simp [w])
  · exact if_neg (by simp [w])
  · have same : h.mapAsg t (Asg.overtaken o.kind) = h := by
      unfold Hall.mapAsg
      rw [upd_self _ _ _ (by rw [none]; rfl)]
    rw [same, ite_self]

theorem overtaken_handed (eng : o.engine = true) (back : o.handBack = true) (ha : h.asg[t] = some a) :
    overtaken t o h = h.setAsg t (some (a.overtaken o.kind)) := by
  rw [overtaken_eq, eng, back]
  refine (if_pos rfl).trans ?_
  unfold Hall.mapAsg Hall.setAsg
  rw [upd_congr]
  rw [ha]
  rfl

theorem overtaken_setTx {f : TxRec → TxRec} : overtaken t o (h.setTx u f) = (overtaken t o h).setTx u f := by
  unfold overtaken
  split <;> rfl

/-- R141: an order, if there is one, is handed back. -/
def handedBack (t : Tx) (x : Option Order) (h : Hall) : Hall := (x.map fun o => overtaken t o h).getD h

theorem handedBack_setTx {x : Option Order} {f : TxRec → TxRec} :
    handedBack t x (h.setTx u f) = (handedBack t x h).setTx u f := by
  cases x with
  | none => rfl
  | some o => exact overtaken_setTx

theorem handedBack_tx {x : Option Order} : (handedBack t x h).tx = h.tx := by
  cases x with
  | none => rfl
  | some o => exact overtaken_tx

theorem setTx_setTx {f g : TxRec → TxRec} : (h.setTx t f).setTx t g = h.setTx t fun r => g (f r) := by
  unfold Hall.setTx
  rw [upd_upd]

theorem setTx_self {f : TxRec → TxRec} (w : f h.tx[t] = h.tx[t]) : h.setTx t f = h := by
  unfold Hall.setTx
  rw [upd_self _ _ _ w]

theorem setTx_congr {f g : TxRec → TxRec} (w : f h.tx[t] = g h.tx[t]) : h.setTx t f = h.setTx t g := by
  unfold Hall.setTx
  rw [upd_congr _ _ w]

theorem overtakeOut_some (ho : (h.tx[t]).out = some o) : overtakeOut t p h =
    if p o then overtaken t o (h.setTx t fun r => { r with out := none }) else h := by
  unfold overtakeOut
  rw [ho]

theorem overtakeOut_eq : overtakeOut t p h =
    (handedBack t ((h.tx[t]).out.filter p) h).setTx t fun r => { r with out := r.out.filter fun o => !p o } := by
  cases ho : (h.tx[t]).out with
  | none =>
    have same : overtakeOut t p h = h := by
      unfold overtakeOut
      rw [ho]
    rw [same]
    refine (setTx_self (h := h) ?_).symm
    rw [ho, Option.filter_none, ← ho]
  | some o =>
    rw [overtakeOut_some ho]
    by_cases w : p o = true
    · rw [if_pos w, Option.filter_some_pos w, overtaken_setTx]
      refine setTx_congr (h := overtaken t o h) ?_
      rw [overtaken_tx, ho, Option.filter_some_neg (by rw [w]; decide)]
    · rw [if_neg w, Option.filter_some_neg (Bool.eq_false_iff.2 w)]
      refine (setTx_self (h := h) ?_).symm
      rw [ho, Option.filter_some_pos (by rw [Bool.eq_false_iff.2 w]; rfl), ← ho]

theorem overtakePend_some (ho : (h.tx[t]).pend = some o) : overtakePend t p h =
    if p o then overtaken t o (h.setTx t fun r => { r with pend := none }) else h := by
  unfold overtakePend
  rw [ho]

theorem overtakePend_eq : overtakePend t p h =
    (handedBack t ((h.tx[t]).pend.filter p) h).setTx t fun r => { r with pend := r.pend.filter fun o => !p o } := by
  cases ho : (h.tx[t]).pend with
  | none =>
    have same : overtakePend t p h = h := by
      unfold overtakePend
      rw [ho]
    rw [same]
    refine (setTx_self (h := h) ?_).symm
    rw [ho, Option.filter_none, ← ho]
  | some o =>
    rw [overtakePend_some ho]
    by_cases w : p o = true
    · rw [if_pos w, Option.filter_some_pos w, overtaken_setTx]
      refine setTx_congr (h := overtaken t o h) ?_
      rw [overtaken_tx, ho, Option.filter_some_neg (by rw [w]; decide)]
    · rw [if_neg w, Option.filter_some_neg (Bool.eq_false_iff.2 w)]
      refine (setTx_self (h := h) ?_).symm
      rw [ho, Option.filter_some_pos (by rw [Bool.eq_false_iff.2 w]; rfl), ← ho]

theorem overtakePend_tx : (overtakePend t p h).tx[t] = { h.tx[t] with pend := (h.tx[t]).pend.filter fun o => !p o } := by
  rw [overtakePend_eq, setTx_same, handedBack_tx]

/-! ### The pending order -/

theorem makePending_eq : makePending t o h = (handedBack t (h.tx[t]).pend h).setTx t fun r => { r with pend := some o } := by
  have all : (h.tx[t]).pend.filter (fun _ => true) = (h.tx[t]).pend := by cases (h.tx[t]).pend <;> rfl
  rw [makePending, overtakePend_eq, setTx_setTx, all]

theorem makePending_free (none : (h.tx[t]).pend = none) : makePending t o h = h.setTx t fun r => { r with pend := some o } := by
  rw [makePending_eq, none]
  rfl

theorem makePending_busy (hp : (h.tx[t]).pend = some w) :
    makePending t o h = (overtaken t w h).setTx t fun r => { r with pend := some o } := by
  rw [makePending_eq, hp]
  rfl

/-- R141: an order that waits drops whatever waited before. -/
theorem makePending_overtakePend : makePending t o (overtakePend t p h) = makePending t o h := by
  cases hp : (h.tx[t]).pend with
  | none => rw [overtakePend_none hp]
  | some w =>
    by_cases q : p w = true
    · have left : ((overtakePend t p h).tx[t]).pend = none := by
        rw [overtakePend_tx, hp]
        exact Option.filter_some_neg (p := fun o => !p o) (by rw [q]; rfl)
      rw [makePending_free left, overtakePend_eq, setTx_setTx, hp, Option.filter_some_pos q, makePending_busy hp]
      rfl
    · have same : overtakePend t p h = h := by
        unfold overtakePend
        rw [hp]
        exact if_neg q
      rw [same]

theorem listed_iff {s : TxState} : o.listed s = true ↔ orderListed o.kind s = true ∨ (o.again = true ∧ s = .raising) := by
  simp [Order.listed]

section
variable (out : (h.tx[t]).out = none) (pend : (h.tx[t]).pend = some o)
include out pend

/-- R149: in LOCAL and ABSENT the pending order is overtaken. -/
theorem pendStep_left (st : (h.tx[t]).st = .absent ∨ (h.tx[t]).st = .isLocal) :
    pendStep e t h = some (overtaken t o (h.setTx t fun r => { r with pend := none })) := by
  unfold pendStep
  rcases st with st | st <;> simp only [out, pend, st]

theorem pendStep_lost (st : (h.tx[t]).st = .unreachable) : pendStep e t h =
    if o.kind = .lower then some (h.setTx t fun r => { r with out := some o, pend := none }) else none := by
  unfold pendStep
  simp only [out, pend, st]

theorem pendStep_reached (absent : (h.tx[t]).st ≠ .absent) (left : (h.tx[t]).st ≠ .isLocal)
    (lost : (h.tx[t]).st ≠ .unreachable) : pendStep e t h =
      if o.kind = .lower then
        if orderListed .lower (h.tx[t]).st || rfpActive e h t then
          some (h.setTx t fun r => { r with out := some o, pend := none })
        else some (h.setTx t fun r => { r with pend := none })
      else if !o.listed (h.tx[t]).st then some (declineUnsent e t o (h.setTx t fun r => { r with pend := none }))
      else if o.kind.isRaise && raiseHeld e h t then none
      else some (h.setTx t fun r => { r with out := some o, pend := none }) := by
  unfold pendStep
  simp only [out, pend]

theorem pendStep_lower (kind : o.kind = .lower) (absent : (h.tx[t]).st ≠ .absent) (left : (h.tx[t]).st ≠ .isLocal) :
    pendStep e t h = some (if orderListed .lower (h.tx[t]).st = true ∨ rfpActive e h t = true then
      h.setTx t fun r => { r with out := some o, pend := none } else h.setTx t fun r => { r with pend := none }) := by
  by_cases lost : (h.tx[t]).st = .unreachable
  · rw [pendStep_lost out pend lost, if_pos kind, if_pos (.inl (by rw [lost]; rfl))]
  · rw [pendStep_reached out pend absent left lost, if_pos kind, apply_ite some]
    exact if_congr Bool.or_eq_true_iff rfl rfl

end

/-! ### An order of the engine -/

theorem declineUnsent_plain (kind : o.kind ≠ .clearTrip) :
    declineUnsent e t o h = declined e t o .state (some (h.tx[t]).st) h :=
  if_neg (by simp [kind])

theorem declined_ends {r : DeclineReason} {st : Option TxState} (eng : o.engine = true) (back : o.handBack = true)
    (kind : o.kind = .warm ∨ o.kind.isTune = true ∨ o.kind.isRaise = true) : declined e t o r st h =
      endAsg e t .failed .nothing (reportTx e .orderDeclined t (some (.declined o.kind r st)) h) := by
  unfold declined
  refine (if_pos (by rw [eng, back]; rfl)).trans ?_
  cases hk : o.kind <;> simp [hk, OrderKind.isTune, OrderKind.isRaise] at kind ⊢

theorem declined_cool {r : DeclineReason} {st : Option TxState} (kind : o.kind = .cool) :
    declined e t o r st h = reportTx e .orderDeclined t (some (.declined o.kind r st)) h := by
  unfold declined
  simp only [kind]
  exact ite_self _

theorem handOrder_left (st : (h.tx[t]).st = .absent ∨ (h.tx[t]).st = .isLocal) :
    handOrder e t k h = overtaken t (Order.mk0 k true false) h := by
  unfold handOrder
  rcases st with st | st <;> rw [st]

theorem handOrder_lost (st : (h.tx[t]).st = .unreachable) : handOrder e t k h = makePending t (Order.mk0 k true false) h := by
  unfold handOrder
  rw [st]

section
variable (absent : (h.tx[t]).st ≠ .absent) (left : (h.tx[t]).st ≠ .isLocal) (lost : (h.tx[t]).st ≠ .unreachable)
include absent left lost

theorem handOrder_reached : handOrder e t k h =
    if !orderListed k (h.tx[t]).st || decide ((h.tx[t]).st = .lockout) then declineUnsent e t (Order.mk0 k true false) h
    else if (h.tx[t]).out.isSome || (k.isRaise && raiseHeld e h t) then makePending t (Order.mk0 k true false) h
    else h.setTx t fun r => { r with out := some (Order.mk0 k true false) } := by
  unfold handOrder
  cases st : (h.tx[t]).st
  case absent => exact absurd st absent
  case isLocal => exact absurd st left
  case unreachable => exact absurd st lost
  all_goals rfl

theorem handOrder_taken (free : (h.tx[t]).st ≠ .lockout) (listed : orderListed k (h.tx[t]).st = true) : handOrder e t k h =
    if (h.tx[t]).out.isSome || (k.isRaise && raiseHeld e h t) then makePending t (Order.mk0 k true false) h
    else h.setTx t fun r => { r with out := some (Order.mk0 k true false) } := by
  rw [handOrder_reached absent left lost, listed, decide_eq_false free]
  exact if_neg nofun

end

theorem handOrder_declined (w : (h.tx[t]).st = .lockout ∨
    (¬ ((h.tx[t]).st = .absent ∨ (h.tx[t]).st = .isLocal ∨ (h.tx[t]).st = .unreachable) ∧
      orderListed k (h.tx[t]).st = false)) : handOrder e t k h = declineUnsent e t (Order.mk0 k true false) h := by
  have cut : (h.tx[t]).st ≠ .absent ∧ (h.tx[t]).st ≠ .isLocal ∧ (h.tx[t]).st ≠ .unreachable := by
    rcases w with w | w
    · rw [w]
      decide
    · simpa only [not_or] using w.1
  rw [handOrder_reached cut.1 cut.2.1 cut.2.2]
  refine if_pos ?_
  rcases w with w | w
  · rw [w]
    exact Bool.or_true _
  · rw [w.2]
    rfl

/-! ### A LOWER -/

theorem txDefined_iff {k : Tables} : txDefined k h t = true ↔ (k.txs[t]).defined = true ∨ (h.tx[t]).undef = true :=
  Bool.or_eq_true_iff

/-- R139: the states in which a transmitter that is reached does not radiate, and has not tripped. -/
def isDown : TxState → Bool
  | .cold | .warming | .standby | .tuning | .ready => true
  | _ => false

theorem isDown_iff {s : TxState} : isDown s = true ↔ s = .cold ∨ s = .warming ∨ s = .standby ∨ s = .tuning ∨ s = .ready := by
  cases s <;> simp [isDown]

/-- R140: a LOWER handed has something to do. -/
def LowerGoes (e : Env) (h : Hall) (t : Tx) : Prop :=
  ((e.k.txs[t]).defined = true ∨ (h.tx[t]).undef = true) ∧ (h.tx[t]).st ≠ .absent ∧ (h.tx[t]).st ≠ .isLocal ∧
    ((h.tx[t]).st = .cold ∨ (h.tx[t]).st = .warming ∨ (h.tx[t]).st = .standby ∨ (h.tx[t]).st = .tuning ∨
      (h.tx[t]).st = .ready → rfpActive e h t = true)

theorem handLower_known {byTrip : Bool} (known : txDefined e.k h t = true) (absent : (h.tx[t]).st ≠ .absent)
    (left : (h.tx[t]).st ≠ .isLocal) : handLower e t byTrip h =
      if isDown (h.tx[t]).st && !rfpActive e h t then h else queueLower t byTrip h := by
  unfold handLower
  rw [known, if_neg nofun]
  cases st : (h.tx[t]).st
  case absent => exact absurd st absent
  case isLocal => exact absurd st left
  case cold | warming | standby | tuning | ready => cases rfpActive e h t <;> rfl
  all_goals rfl

theorem handLower_goes {byTrip : Bool} (w : LowerGoes e h t) : handLower e t byTrip h = queueLower t byTrip h := by
  obtain ⟨known, absent, left, down⟩ := w
  rw [handLower_known (txDefined_iff.2 known) absent left, if_neg]
  rw [Bool.and_eq_true, isDown_iff, Bool.not_eq_true']
  rintro ⟨d, rfp⟩
  rw [down d] at rfp
  cases rfp

theorem handLower_idle {byTrip : Bool} (w : ¬ LowerGoes e h t) : handLower e t byTrip h = h := by
  by_cases known : txDefined e.k h t = true
  · by_cases absent : (h.tx[t]).st = .absent
    · unfold handLower
      rw [known, if_neg nofun, absent]
    · by_cases left : (h.tx[t]).st = .isLocal
      · unfold handLower
        rw [known, if_neg nofun, left]
      · rw [handLower_known known absent left, if_pos]
        rw [Bool.and_eq_true, isDown_iff, Bool.not_eq_true']
        by_contra q
        refine w ⟨txDefined_iff.1 known, absent, left, fun down => ?_⟩
        exact Bool.of_not_eq_false fun rfp => q ⟨down, rfp⟩
  · exact if_pos (by rw [Bool.eq_false_iff.2 known]; rfl)

/-- R165: a LOWER not yet sent that the trip rules order too. -/
def Order.marked (o : Order) : Order := if o.kind = .lower ∧ o.sentAt = none then { o with byTrip := true } else o

theorem lowerByTrip_eq : lowerByTrip t h = h.setTx t fun r =>
    { r with out := r.out.map Order.marked, pend := r.pend.map Order.marked } := by
  have mark : (fun o : Order => if decide (o.kind = .lower) && o.sentAt.isNone then { o with byTrip := true } else o) =
      Order.marked := funext fun o => if_congr (by simp) rfl rfl
  unfold lowerByTrip
  rw [mark]

theorem queueLower_held {byTrip : Bool} (hand : (h.tx[t]).lowerInHand = true) : queueLower t byTrip h =
    if byTrip = true then h.setTx t fun r => { r with out := r.out.map Order.marked, pend := r.pend.map Order.marked } else h := by
  rw [← lowerByTrip_eq]
  exact if_pos hand

/-- R141: a LOWER waits behind a WARM, COOL or CLEAR-TRIP. -/
theorem queueLower_behind {byTrip : Bool} (hand : (h.tx[t]).lowerInHand = false) (out : (h.tx[t]).out = some o)
    (raise : o.kind.isRaise = false) (tune : o.kind.isTune = false) :
    queueLower t byTrip h = makePending t (Order.mk0 .lower false byTrip) h := by
  have kept : overtakeOut t (fun o => o.kind.isRaise || o.kind.isTune) h = h := by
    unfold overtakeOut
    rw [out]
    exact if_neg (by simp [raise, tune])
  have still : ((overtakePend t (fun o => o.kind.isRaise) h).tx[t]).out = some o := by rw [overtakePend_tx, out]
  unfold queueLower
  rw [hand, if_neg nofun, kept]
  dsimp only
  rw [still]
  exact makePending_overtakePend

/-- R141: a LOWER overtakes a RAISE or TUNE, and a pending RAISE. -/
theorem queueLower_out {byTrip : Bool} (hand : (h.tx[t]).lowerInHand = false)
    (out : ∀ o, (h.tx[t]).out = some o → o.kind.isRaise = true ∨ o.kind.isTune = true) : queueLower t byTrip h =
      (handedBack t ((h.tx[t]).pend.filter fun o => o.kind.isRaise) (handedBack t (h.tx[t]).out h)).setTx t fun r =>
        { r with out := some (Order.mk0 .lower false byTrip), pend := r.pend.filter fun o => !o.kind.isRaise } := by
  have all : (h.tx[t]).out.filter (fun o => o.kind.isRaise || o.kind.isTune) = (h.tx[t]).out := by
    cases ho : (h.tx[t]).out with
    | none => rfl
    | some o => exact Option.filter_some_pos (by simpa using out o ho)
  have none : (h.tx[t]).out.filter (fun o => !(o.kind.isRaise || o.kind.isTune)) = none := by
    cases ho : (h.tx[t]).out with
    | none => rfl
    | some o => exact Option.filter_some_neg (by simpa [imp_iff_not_or] using out o ho)
  have free : ((overtakePend t (fun o => o.kind.isRaise) (overtakeOut t (fun o => o.kind.isRaise || o.kind.isTune) h)).tx[t]).out =
      Option.none := by rw [overtakePend_tx, overtakeOut_tx, none]
  have pend : ((overtakeOut t (fun o => o.kind.isRaise || o.kind.isTune) h).tx[t]).pend = (h.tx[t]).pend := by
    rw [overtakeOut_tx]
  unfold queueLower
  rw [hand, if_neg nofun]
  dsimp only
  rw [free, overtakePend_eq, pend, overtakeOut_eq, all, handedBack_setTx, setTx_setTx, setTx_setTx]

/-! ### Permits -/

/-- R150: what a permit waits for. -/
def PermitTest (e : Env) (h : Hall) (t : Tx) : Prop :=
  isRad (h.tx[t]).st = false ∧ (h.tx[t]).lowerInHand = false ∧
    ¬ ((h.tx[t]).st = .unreachable ∧ ∃ x, (h.tx[t]).before = some x ∧ isRad x = true) ∧
    ((h.tx[t]).st = .isLocal ∨ (h.tx[t]).st = .lockout → ¬ ∃ c, (h.tx[t]).cond = some c ∧ condIsRad c.cond = true) ∧
    rfpActive e h t = false ∧ doorActive e h t = false

theorem permitTest_iff : permitTest e h t = true ↔ PermitTest e h t := by
  unfold permitTest PermitTest TxRec.condRad
  simp only [Bool.and_eq_true, Bool.not_eq_true', Bool.and_eq_false_iff, Bool.or_eq_false_iff, decide_eq_false_iff_not,
    and_assoc, Bool.eq_false_iff (b := Option.any _ _), ne_eq, Option.any_eq_true, not_and_or, not_or, imp_iff_not_or]

section
variable {p : Permit}

theorem permitStep_none (w : (h.tx[t]).permit = .none) : permitStep e t h =
    if (holders h t).isEmpty then none else some (h.setTx t fun r => { r with permit := .requested, permitHot := false }) := by
  unfold permitStep
  simp only [w]

theorem permitStep_requested (w : (h.tx[t]).permit = .requested) : permitStep e t h =
    if (holders h t).isEmpty then some (h.setTx t fun r => { r with permit := .none, permitHot := false })
    else if permitTest e h t then some (h.setTx t fun r => { r with permit := .granted, permitHot := false })
    else none := by
  unfold permitStep
  simp only [w]

theorem permitStep_granted (w : (h.tx[t]).permit = .granted) : permitStep e t h =
    if rowMotion h t then none
    else if (holders h t).isEmpty then some (h.setTx t fun r => { r with permit := .none, permitHot := false })
    else if (h.tx[t]).permitHot then some (h.setTx t fun r => { r with permit := .requested, permitHot := false })
    else if doorActive e h t then some (h.setTx t fun r => { r with permit := .requested, permitHot := false })
    else none := by
  unfold permitStep
  simp only [w]

end

theorem takeBackStep_some (w : (h.tx[t]).permit = .granted) (rad : isRad (h.tx[t]).st = true) :
    takeBackStep e t h = some (takeBackPermit e t h) := if_pos (by rw [w, rad]; rfl)

theorem takeBackStep_none (w : (h.tx[t]).permit ≠ .granted ∨ isRad (h.tx[t]).st = false) : takeBackStep e t h = none := by
  refine if_neg ?_
  rw [Bool.and_eq_true, decide_eq_true_eq]
  rintro ⟨granted, rad⟩
  rcases w with w | w
  · exact w granted
  · rw [w] at rad
    cases rad

/-- R150: the permit of the first transmitter that radiates under one is taken back before anything else. -/
theorem takeBackStep_first {g : Hall} (w : takeBackStep e t h = some g) :
    ∃ u k, u ≤ t ∧ takeBackStep e u h = some k ∧ nextRule e h = some k := by
  cases first : forTx takeBackStep e h with
  | none =>
    have none : takeBackStep e t h = none := List.findSome?_eq_none_iff.1 first t (mem_allTx t)
    rw [w] at none
    cases none
  | some k =>
    obtain ⟨before, u, after, split, hu, none⟩ := List.findSome?_eq_some_iff.1 first
    refine ⟨u, k, ?_, hu, ?_⟩
    · have mem : t ∈ before ++ u :: after := split ▸ mem_allTx t
      rcases List.mem_append.1 mem with early | late
      · rw [none t early] at w
        cases w
      · rcases List.mem_cons.1 late with rfl | late
        · exact le_rfl
        · have sorted : (before ++ u :: after).Pairwise (· < ·) := split ▸ List.pairwise_lt_finRange 12
          exact (List.rel_of_pairwise_cons (List.pairwise_append.1 sorted).2.1 late).le
    · unfold nextRule rules
      rw [List.findSome?_cons, first]

end
end Sys2Proof.Machine

namespace Sys2Proof.Machine

set_option Elab.async false
section
variable {g h k : Hall} {e : Env} {t u : Tx} {s : FaultSource} {r : Report}

/-! ### What a report leaves in the Fault Table -/

theorem blocked_iff : blocked h s = true ↔ ∃ x ∈ h.faults.recs, x.blocking = true ∧ x.src = s := by
  simp [blocked]

/-- R198: the older of the oldest non-blocking record so far and another record. -/
def olderOpen (best : Option FaultRec) (r : FaultRec) : Option FaultRec :=
  if r.blocking then best else
    match best with
    | none => some r
    | some b => if r.first < b.first then some r else some b

theorem olderOpen_cases (best : Option FaultRec) (x : FaultRec) :
    olderOpen best x = best ∨ (olderOpen best x = some x ∧ x.blocking = false) := by
  unfold olderOpen
  cases hx : x.blocking with
  | true => exact .inl rfl
  | false =>
    cases best with
    | none => exact .inr ⟨rfl, rfl⟩
    | some b => exact (ite_eq_or_eq (x.first < b.first) (some x) (some b)).symm.imp_right fun q => ⟨q, rfl⟩

theorem oldestOpen_open {l : List FaultRec} {x : FaultRec} (w : oldestOpen l = some x) : x.blocking = false := by
  have fold : oldestOpen l = l.foldl olderOpen none := rfl
  have all : ∀ y, l.foldl olderOpen none = some y → y.blocking = false := by
    refine List.foldlRecOn (motive := fun b => ∀ y : FaultRec, b = some y → y.blocking = false) l _ (fun _ q => nomatch q)
      fun b w a _ y hy => ?_
    rcases olderOpen_cases b a with q | ⟨q, free⟩
    · exact w y (q.symm.trans hy)
    · exact Option.some.inj (q.symm.trans hy) ▸ free
  exact all x (fold.symm.trans w)

/-- R196: a record of the reported kind and source has taken a report in, in its place in the table. -/
structure Coalesced (r : Report) (h g : Hall) (x y : FaultRec) : Prop where
  old : x ∈ h.faults.recs
  recs : g.faults.recs = h.faults.recs.map fun z => if z.seq = x.seq then y else z
  seq : y.seq = x.seq
  was : x.kind = r.kind ∧ x.src = r.src
  kind : y.kind = r.kind
  src : y.src = r.src
  detail : y.detail = r.detail
  blocking : y.blocking = (x.blocking || (r.kind.canBlock && !blocked h r.src))

/-- R194, R198: a new record stands after the records `kept`. -/
structure Added (r : Report) (h g : Hall) (kept : List FaultRec) (y : FaultRec) : Prop where
  recs : g.faults.recs = kept ++ [y]
  seq : y.seq = freeSeq kept (kept.length + 1) h.faults.next
  room : kept.length < Config.maxFaults ∨ ¬ h.faults.recs.length ≤ Config.maxFaults
  kind : y.kind = r.kind
  src : y.src = r.src
  detail : y.detail = r.detail
  blocking : y.blocking = (r.kind.canBlock && !blocked h r.src)
  kept : kept = h.faults.recs ∨ (¬ h.faults.recs.length < Config.maxFaults ∧
    ∃ x ∈ h.faults.recs, x.blocking = false ∧ kept = h.faults.recs.filter fun z => decide (z.seq ≠ x.seq))

theorem addRecord_recs {sec : Seconds} {b : Bool} {d : Option Nat} : ∃ y : FaultRec, (addRecord sec r b d h).faults.recs = h.faults.recs ++ [y] ∧
    y.seq = freeSeq h.faults.recs (h.faults.recs.length + 1) h.faults.next ∧ y.kind = r.kind ∧ y.src = r.src ∧
    y.detail = r.detail ∧ y.blocking = b := ⟨_, rfl, rfl, rfl, rfl, rfl, rfl⟩

/-- R196 to R198: a report is taken into a record, makes one, or is lost on a full table. -/
theorem report_cases : (∃ x y, Coalesced r h (report e r h) x y) ∨ (∃ kept y, Added r h (report e r h) kept y) ∨
    ((report e r h).faults.recs = h.faults.recs ∧ ¬ h.faults.recs.length < Config.maxFaults) := by
  unfold report
  dsimp only
  split
  · next x hx =>
    have is := List.find?_some hx
    rw [Bool.and_eq_true, decide_eq_true_eq, decide_eq_true_eq] at is
    exact .inl ⟨x, _, List.mem_of_find?_eq_some hx, rfl, rfl, is, is.1, is.2, rfl, rfl⟩
  · refine .inr ?_
    split
    · next room =>
      obtain ⟨y, recs, seq, kind, src, detail, blocking⟩ := addRecord_recs (h := h) (r := r) (sec := e.sec)
        (b := r.kind.canBlock && !blocked h r.src) (d := none)
      exact .inl ⟨_, y, recs, seq, .inl room, kind, src, detail, blocking, .inl rfl⟩
    · next full =>
      split
      · exact .inr ⟨rfl, full⟩
      · split
        · exact .inr ⟨rfl, full⟩
        · next old hold =>
          obtain ⟨y, recs, seq, kind, src, detail, blocking⟩ := addRecord_recs (r := r) (sec := e.sec)
            (b := r.kind.canBlock && !blocked h r.src) (d := some old.seq) (h := { h with faults := { h.faults with
              recs := h.faults.recs.filter fun (x : FaultRec) => decide (x.seq ≠ old.seq), overflow := true } })
          have fewer : (h.faults.recs.filter fun y => decide (y.seq ≠ old.seq)).length < h.faults.recs.length :=
            List.length_filter_lt_length_iff_exists.2 ⟨old, oldestOpen_mem hold, by simp⟩
          refine .inl ⟨_, y, recs, seq, ?_, kind, src, detail, blocking,
            .inr ⟨full, old, oldestOpen_mem hold, oldestOpen_open hold, rfl⟩⟩
          exact (Nat.lt_or_ge _ _).imp_right fun many => Nat.not_le.2 (many.trans_lt fewer)

theorem Coalesced.ok {x y : FaultRec} (w : Coalesced r h g x y) (ok : h.faults.ok) : g.faults.ok := by
  have seqs : g.faults.recs.map FaultRec.seq = h.faults.recs.map FaultRec.seq := by
    rw [w.recs, List.map_map]
    refine List.map_congr_left fun z _ => ?_
    rw [Function.comp_apply]
    split
    · next same => exact w.seq.trans same.symm
    · rfl
  refine ⟨?_, by rw [seqs]; exact ok.2⟩
  rw [w.recs, List.length_map]
  exact ok.1

theorem Added.sublist {kept : List FaultRec} {y : FaultRec} (w : Added r h g kept y) : kept.Sublist h.faults.recs := by
  rcases w.kept with rfl | ⟨_, x, _, _, rfl⟩
  · exact .refl _
  · exact List.filter_sublist

theorem Added.ok {kept : List FaultRec} {y : FaultRec} (w : Added r h g kept y) (ok : h.faults.ok) : g.faults.ok := by
  have whole := addRecord_ok (f := ⟨kept, h.faults.next, false⟩) (w.room.resolve_right (not_not.2 ok.1))
    ((w.sublist.map _).nodup ok.2) (x := y) w.seq (n := 0) (o := false)
  unfold FaultTable.ok
  rw [w.recs]
  exact whole

theorem report_ok (ok : h.faults.ok) : (report e r h).faults.ok := by
  rcases report_cases (e := e) (r := r) (h := h) with ⟨x, y, w⟩ | ⟨kept, y, w⟩ | ⟨same, _⟩
  · exact w.ok ok
  · exact w.ok ok
  · unfold FaultTable.ok
    rw [same]
    exact ok

theorem report_length : (report e r h).faults.recs.length ≤ h.faults.recs.length + 1 := by
  rcases report_cases (e := e) (r := r) (h := h) with ⟨x, y, w⟩ | ⟨kept, y, w⟩ | ⟨same, _⟩
  · rw [w.recs, List.length_map]
    exact Nat.le_succ _
  · rw [w.recs, List.length_append]
    exact Nat.succ_le_succ w.sublist.length_le
  · rw [same]
    exact Nat.le_succ _

/-- R197: where each number stands once, no report takes a block away. -/
theorem report_blocked (ok : h.faults.ok) (w : blocked h s = true) : blocked (report e r h) s = true := by
  obtain ⟨z, hz, blocking, src⟩ := blocked_iff.1 w
  rcases report_cases (e := e) (r := r) (h := h) with ⟨x, y, w⟩ | ⟨kept, y, w⟩ | ⟨same, _⟩
  · by_cases q : z.seq = x.seq
    · obtain rfl : z = x := List.inj_on_of_nodup_map ok.2 hz w.old q
      refine blocked_iff.2 ⟨y, ?_, by rw [w.blocking, blocking]; rfl, by rw [w.src, ← w.was.2, src]⟩
      rw [w.recs]
      exact List.mem_map.2 ⟨z, hz, if_pos rfl⟩
    · refine blocked_iff.2 ⟨z, ?_, blocking, src⟩
      rw [w.recs]
      exact List.mem_map.2 ⟨z, hz, if_neg q⟩
  · refine blocked_iff.2 ⟨z, ?_, blocking, src⟩
    rw [w.recs]
    refine List.mem_append_left _ ?_
    rcases w.kept with rfl | ⟨_, x, hx, free, rfl⟩
    · exact hz
    · refine List.mem_filter.2 ⟨hz, decide_eq_true fun q => ?_⟩
      rw [List.inj_on_of_nodup_map ok.2 hz hx q, free] at blocking
      cases blocking
  · refine blocked_iff.2 ⟨z, ?_, blocking, src⟩
    rw [same]
    exact hz

/-- R195: with room, a report leaves a record of its kind, source and detail. -/
theorem report_recorded (room : h.faults.recs.length < 48) : ∃ y ∈ (report e r h).faults.recs,
    y.kind = r.kind ∧ y.src = r.src ∧ y.detail = r.detail ∧
      (r.kind.canBlock = true → blocked h r.src = false → y.blocking = true) := by
  rcases report_cases (e := e) (r := r) (h := h) with ⟨x, y, w⟩ | ⟨kept, y, w⟩ | ⟨_, full⟩
  · refine ⟨y, ?_, w.kind, w.src, w.detail, fun can free => by rw [w.blocking, can, free]; exact Bool.or_true _⟩
    rw [w.recs]
    exact List.mem_map.2 ⟨x, w.old, if_pos rfl⟩
  · refine ⟨y, ?_, w.kind, w.src, w.detail, fun can free => by rw [w.blocking, can, free]; rfl⟩
    rw [w.recs]
    exact List.mem_append_right _ (List.mem_singleton.2 rfl)
  · exact absurd room full

/-- R197: with room, a report of a kind that blocks leaves its source blocked. -/
theorem report_blocks (ok : h.faults.ok) (room : h.faults.recs.length < 48) (can : r.kind.canBlock = true) :
    blocked (report e r h) r.src = true := by
  cases already : blocked h r.src with
  | true => exact report_blocked ok already
  | false =>
    obtain ⟨y, hy, _, src, _, blocks⟩ := report_recorded (e := e) (r := r) room
    exact blocked_iff.2 ⟨y, hy, blocks can already, src⟩

theorem reportAsg_eq {kd : FaultKind} {d : Option Detail} {f : Bool} :
    ∃ r : Report, reportAsg e kd t d f h = report e r h ∧ r.kind = kd ∧ r.src = .tx t ∧ r.detail = d := by
  unfold reportAsg
  split
  · split
    · exact ⟨_, rfl, rfl, rfl, rfl⟩
    · exact ⟨_, rfl, rfl, rfl, rfl⟩
  · exact ⟨_, rfl, rfl, rfl, rfl⟩

/-- R196: a report writes the Fault Table and makes a notice. -/
theorem report_hall : ∃ f em, report e r h = { h with faults := f, emit := em } := by
  unfold report addRecord
  dsimp only
  split
  · exact ⟨_, _, rfl⟩
  · split
    · exact ⟨_, _, rfl⟩
    · split
      · exact ⟨_, _, rfl⟩
      · split <;> exact ⟨_, _, rfl⟩

theorem reportAsg_hall {kd : FaultKind} {d : Option Detail} {b : Bool} :
    ∃ f em, reportAsg e kd t d b h = { h with faults := f, emit := em } := by
  obtain ⟨r, eq, -⟩ := reportAsg_eq (e := e) (t := t) (h := h) (kd := kd) (d := d) (f := b)
  rw [eq]
  exact report_hall

/-! ### A part-side state -/

/-- R139, R153: what a change of part-side state leaves of a record. -/
structure Restated (new : TxState) (r q : TxRec) : Prop where
  st : q.st = new
  orders : q.out = r.out ∧ q.pend = r.pend
  permit : q.permit = r.permit
  undef : q.undef = r.undef
  window : q.window = r.window

/-- R139: a record in a new part-side state. -/
def TxRec.restated (new : TxState) (r : TxRec) : TxRec :=
  { r with
    st := new, before := if new = .unreachable then r.before else none
    resend := r.resend && decide (new ≠ .isLocal)
    rcv := if new = .isLocal then Recovery.idle else r.rcv }

theorem setTxState_eq {new : TxState} {c : TxCause} : setTxState t new c h =
    if (h.tx[t]).st = new then h
    else if isAvail new && !isAvail (h.tx[t]).st && (h.asg[t]).isNone then
      ((h.setTx t (TxRec.restated new)).note (.tx t new (h.tx[t]).st c)).wantAlloc
    else (h.setTx t (TxRec.restated new)).note (.tx t new (h.tx[t]).st c) := rfl

theorem setTxState_hall {new : TxState} {c : TxCause} : ∃ q al em, setTxState t new c h =
    { h with tx := upd h.tx t fun _ => q, alloc := al, emit := em } ∧ Restated new h.tx[t] q := by
  rw [setTxState_eq]
  split
  · next same =>
    refine ⟨h.tx[t], h.alloc, h.emit, ?_, same, ⟨rfl, rfl⟩, rfl, rfl, rfl⟩
    rw [upd_self _ _ _ rfl]
  · have body : Restated new h.tx[t] (TxRec.restated new h.tx[t]) := ⟨rfl, ⟨rfl, rfl⟩, rfl, rfl, rfl⟩
    split
    · exact ⟨_, _, _, rfl, body⟩
    · exact ⟨_, _, _, rfl, body⟩

theorem setTxState_tx {new : TxState} {c : TxCause} : Restated new h.tx[t] (setTxState t new c h).tx[t] := by
  obtain ⟨q, al, em, eq, body⟩ := setTxState_hall (t := t) (h := h) (new := new) (c := c)
  rw [eq]
  dsimp only
  rw [get_upd, if_pos rfl]
  exact body

theorem setTxState_same {new : TxState} {c : TxCause} : (setTxState t new c h).asg = h.asg ∧
    (setTxState t new c h).faults = h.faults ∧ (setTxState t new c h).path = h.path ∧
    (setTxState t new c h).sense = h.sense ∧ (setTxState t new c h).changes = h.changes := by
  obtain ⟨q, al, em, eq, -⟩ := setTxState_hall (t := t) (h := h) (new := new) (c := c)
  rw [eq]
  exact ⟨rfl, rfl, rfl, rfl, rfl⟩

end
end Sys2Proof.Machine

namespace Sys2Proof.Machine

set_option Elab.async false

/-- The orders in hand in `q` are LOWER or of a kind that is in hand in `r`, and `q` is not RAISING where `r` is not. -/
structure Lowers (r q : TxRec) : Prop where
  raising : q.st = .raising → r.st = .raising
  out : ∀ o, q.out = some o → o.kind = .lower ∨ ∃ x, r.out = some x ∧ x.kind = o.kind
  pend : ∀ o, q.pend = some o → o.kind = .lower ∨ ∃ x, r.pend = some x ∧ x.kind = o.kind

/-- From `g` to `h` by operations that end assignments, take orders away and hand LOWER: the change queue and the sense lines stay. -/
structure Hands (g h : Hall) : Prop where
  changes : h.changes = g.changes
  sense : h.sense = g.sense
  tx : ∀ u : Tx, Lowers g.tx[u] h.tx[u]

section
variable {g h k : Hall} {e : Env} {t : Tx} {o : Out} {r q : TxRec} {p : Order → Bool}

namespace Lowers

theorem refl (r : TxRec) : Lowers r r := ⟨id, fun o ho => .inr ⟨o, ho, rfl⟩, fun o ho => .inr ⟨o, ho, rfl⟩⟩

theorem trans {a b c : TxRec} (x : Lowers a b) (y : Lowers b c) : Lowers a c where
  raising w := x.raising (y.raising w)
  out o ho := by
    rcases y.out o ho with low | ⟨z, hz, kind⟩
    · exact .inl low
    · rw [← kind]
      exact x.out z hz
  pend o ho := by
    rcases y.pend o ho with low | ⟨z, hz, kind⟩
    · exact .inl low
    · rw [← kind]
      exact x.pend z hz

theorem orders (st : q.st = .raising → r.st = .raising) (out : q.out = r.out) (pend : q.pend = r.pend) : Lowers r q :=
  ⟨st, fun o ho => .inr ⟨o, out ▸ ho, rfl⟩, fun o ho => .inr ⟨o, pend ▸ ho, rfl⟩⟩

/-- An order of the result comes from one of the same kind. -/
theorem kinds {f : Option Order → Option Order} (w : ∀ x o, f x = some o → ∃ y, x = some y ∧ y.kind = o.kind) :
    Lowers r { r with out := f r.out, pend := f r.pend } :=
  ⟨id, fun o ho => .inr (w _ o ho), fun o ho => .inr (w _ o ho)⟩

theorem filterOut (r : TxRec) (p : Order → Bool) : Lowers r { r with out := r.out.filter p } where
  raising := id
  out o ho := .inr ⟨o, (Option.filter_eq_some_iff.1 ho).1, rfl⟩
  pend _ ho := .inr ⟨_, ho, rfl⟩

theorem filterPend (r : TxRec) (p : Order → Bool) : Lowers r { r with pend := r.pend.filter p } where
  raising := id
  out _ ho := .inr ⟨_, ho, rfl⟩
  pend o ho := .inr ⟨o, (Option.filter_eq_some_iff.1 ho).1, rfl⟩

theorem map (r : TxRec) {f : Order → Order} (w : ∀ o, (f o).kind = o.kind) :
    Lowers r { r with out := r.out.map f, pend := r.pend.map f } := kinds (f := Option.map f) fun x o ho => by
  obtain ⟨y, hy, rfl⟩ := Option.map_eq_some_iff.1 ho
  exact ⟨y, hy, (w y).symm⟩

theorem putOut (r : TxRec) {x : Order} (low : x.kind = .lower) : Lowers r { r with out := some x } where
  raising := id
  out _ ho := .inl (Option.some.inj ho ▸ low)
  pend _ ho := .inr ⟨_, ho, rfl⟩

theorem putPend (r : TxRec) {x : Order} (low : x.kind = .lower) : Lowers r { r with pend := some x } where
  raising := id
  out _ ho := .inr ⟨_, ho, rfl⟩
  pend _ ho := .inl (Option.some.inj ho ▸ low)

end Lowers

theorem marked_kind {o : Order} : o.marked.kind = o.kind := by
  unfold Order.marked
  split <;> rfl

namespace Hands

theorem refl (h : Hall) : Hands h h := ⟨rfl, rfl, fun _ => .refl _⟩

theorem trans (x : Hands g h) (y : Hands h k) : Hands g k :=
  ⟨y.changes.trans x.changes, y.sense.trans x.sense, fun u => (x.tx u).trans (y.tx u)⟩

theorem ite {c : Prop} [Decidable c] {a b : Hall} (x : Hands g a) (y : Hands g b) : Hands g (if c then a else b) := by
  split <;> assumption

theorem each {α : Type} {l : List α} {f : α → Hall → Hall} (x : Hands g h) (y : ∀ {a k}, Hands g k → Hands g (f a k)) :
    Hands g (h.each l f) := by
  induction l generalizing h with
  | nil => exact x
  | cons a l ih => exact ih (y x)

/-- An update of what the relation does not speak of. -/
theorem plain (x : Hands g h) (changes : k.changes = h.changes := by rfl) (sense : k.sense = h.sense := by rfl)
    (tx : k.tx = h.tx := by rfl) : Hands g k :=
  ⟨changes.trans x.changes, sense.trans x.sense, fun u => tx ▸ x.tx u⟩

protected theorem note {b : NoticeBody} (x : Hands g h) : Hands g (h.note b) := x.plain

protected theorem wantAlloc (x : Hands g h) : Hands g h.wantAlloc := x.plain

protected theorem setTx {f : TxRec → TxRec} (x : Hands g h) (w : Lowers h.tx[t] (f h.tx[t])) : Hands g (h.setTx t f) := by
  refine x.trans ⟨rfl, rfl, fun u => ?_⟩
  rw [Hall.setTx_tx, get_upd]
  split
  · next eq => exact eq ▸ w
  · exact .refl _

protected theorem report {r : Report} (x : Hands g h) : Hands g (report e r h) := by
  obtain ⟨f, em, eq⟩ := report_hall (e := e) (r := r) (h := h)
  rw [eq]
  exact x.plain

protected theorem handedBack {y : Option Order} (x : Hands g h) : Hands g (handedBack t y h) := by
  cases y with
  | none => exact x
  | some o => exact ite x.plain x

protected theorem overtaken {y : Order} (x : Hands g h) : Hands g (overtaken t y h) := x.handedBack (y := some y)

protected theorem overtakeOut (x : Hands g h) : Hands g (overtakeOut t p h) := by
  rw [overtakeOut_eq]
  exact x.handedBack.setTx (.filterOut _ _)

protected theorem overtakePend (x : Hands g h) : Hands g (overtakePend t p h) := by
  rw [overtakePend_eq]
  exact x.handedBack.setTx (.filterPend _ _)

protected theorem queueLower {byTrip : Bool} (x : Hands g h) : Hands g (queueLower t byTrip h) := by
  cases hand : (h.tx[t]).lowerInHand with
  | true =>
    rw [queueLower_held hand]
    exact ite (x.setTx (.map _ fun _ => marked_kind)) x
  | false =>
    unfold queueLower
    rw [hand, if_neg nofun]
    have y := (x.overtakeOut (t := t) (p := fun o => o.kind.isRaise || o.kind.isTune)).overtakePend (t := t)
      (p := fun o => o.kind.isRaise)
    dsimp only
    split
    · exact y.setTx (.putOut _ rfl)
    · rw [makePending_eq]
      exact y.handedBack.setTx (.putPend _ rfl)

protected theorem handLower {byTrip : Bool} (x : Hands g h) : Hands g (handLower e t byTrip h) := by
  rcases handLower_cases (e := e) (t := t) (byTrip := byTrip) (h := h) with same | queued
  · rw [same]
    exact x
  · rw [queued]
    exact x.queueLower

protected theorem withdrawRaise (x : Hands g h) : Hands g (withdrawRaise t h) :=
  x.setTx ((Lowers.filterOut _ _).trans (.filterPend _ _))

protected theorem dropHandBack (x : Hands g h) : Hands g (dropHandBack t h) :=
  x.setTx (.map _ fun o => by split <;> rfl)

protected theorem cancelSeq (x : Hands g h) : Hands g (cancelSeq t h) := by
  unfold cancelSeq leaveQueued
  exact ite x (ite x.plain x.plain)

protected theorem passClaim (x : Hands g h) : Hands g (passClaim t o h) := by
  unfold passClaim
  split
  · exact x.plain
  · exact ite x.plain x.plain

protected theorem retireCheck {n : BankNo} (x : Hands g h) : Hands g (retireCheck n h) := by
  unfold retireCheck retireNow spendBank bankNotice
  exact ite x (ite x.plain x)

/-- The completion of an end without push or deferral. -/
protected theorem completeEnd {a : Asg} {oc : EndOutcome} (x : Hands g h) (ha : h.asg[t] = some a)
    (hp : a.phase = .ending oc .nothing) : Hands g (completeEnd e t h) := by
  unfold completeEnd
  rw [ha]
  dsimp only
  rw [hp]
  dsimp only
  have y : Hands g (h.each (claims h t) (passClaim t)) := x.each fun y => y.passClaim
  generalize h.each (claims h t) (passClaim t) = k at y
  have z : Hands g (clearAwaits t (k.setAsg t none)) := y.plain
  split
  · exact z.note.retireCheck.wantAlloc
  · exact z.note.wantAlloc

protected theorem endBegun {a : Asg} (x : Hands g h) : Hands g (endBegun t a h) :=
  (x.plain (k := h.setAsg t (some a))).withdrawRaise.dropHandBack.cancelSeq

protected theorem endAsg {oc : EndOutcome} (x : Hands g h) : Hands g (endAsg e t oc .nothing h) := by
  cases ha : h.asg[t] with
  | none => unfold endAsg; rw [ha]; exact x
  | some a =>
    cases hp : a.phase.isEnding with
    | true => rw [endAsg_ending ha hp]; exact x
    | false =>
      have y : Hands g (endBegun t (a.ended oc .nothing) h) := x.endBegun
      rw [endAsg_eq ha hp]
      exact ite (y.completeEnd (endBegun_asg t (a.ended oc .nothing) h) rfl) (ite y y.handLower)

protected theorem setTxState {new : TxState} {c : TxCause} (x : Hands g h) (w : new ≠ .raising) :
    Hands g (setTxState t new c h) := by
  obtain ⟨q, al, em, eq, body⟩ := setTxState_hall (t := t) (h := h) (new := new) (c := c)
  have y : Hands g (h.setTx t fun _ => q) :=
    x.setTx (.orders (fun st => absurd (body.st.symm.trans st) w) body.orders.1 body.orders.2)
  rw [eq]
  exact y.plain

end Hands

/-! ### A trip -/

/-- R165, R166: the causes for which the trip rules order a LOWER. -/
def TripCause.lowers : TripCause → Bool
  | .senseRefl | .senseArc | .raiseTimeout | .door => true
  | _ => false

/-- R166 steps 1 and 2: the state, then the record. -/
def tripTold (e : Env) (t : Tx) (c : TripCause) (h : Hall) : Hall :=
  if decide (c = .raiseTimeout) || decide (c = .clear) then setTxState t .tripped .trip h
  else reportAsg e .trip t (some (.trip c)) true (setTxState t .tripped .trip h)

/-- R166 step 2: RAISE and TUNE are overtaken. -/
def tripCut (e : Env) (t : Tx) (c : TripCause) (h : Hall) : Hall :=
  overtakePend t (fun o => o.kind.isRaise) (overtakeOut t (fun o => o.kind.isRaise || o.kind.isTune) (tripTold e t c h))

/-- R166 step 3. -/
def tripLowered (e : Env) (t : Tx) (c : TripCause) (h : Hall) : Hall :=
  if c.lowers then handLower e t true (tripCut e t c h) else tripCut e t c h

/-- R166 step 4. -/
def tripCounted (e : Env) (t : Tx) (c : TripCause) (h : Hall) : Hall :=
  if decide (c ≠ .door) then addTrip e t c (tripLowered e t c h) else tripLowered e t c h

theorem trip_eq {c : TripCause} : trip e t c h = (engineTrip e t (decide (c ≠ .door)) (tripCounted e t c h)).setTx t fun r =>
    { r with rcv := ⟨.stopping, some c, c.isRefl, none, false, false, false⟩ } := by
  cases c <;> rfl

theorem tripTold_hall {c : TripCause} : ∃ f em, tripTold e t c h =
    { setTxState t .tripped .trip h with faults := f, emit := em } := by
  unfold tripTold
  split
  · exact ⟨_, _, rfl⟩
  · exact reportAsg_hall

theorem tripLowered_hands {c : TripCause} : Hands h (tripLowered e t c h) := by
  obtain ⟨f, em, eq⟩ := tripTold_hall (e := e) (t := t) (h := h) (c := c)
  have told : Hands h (tripTold e t c h) := by
    have state : Hands h (setTxState t .tripped .trip h) := (Hands.refl h).setTxState (by decide)
    rw [eq]
    exact state.plain
  have cut : Hands h (tripCut e t c h) := told.overtakeOut.overtakePend
  exact .ite cut.handLower cut

/-- R167: the window once the trip is counted. -/
def tripWindow (e : Env) (c : TripCause) (l : List TripEntry) : List TripEntry :=
  if c = .door then l else l.drop (l.length + 1 - 8) ++ [⟨e.now, e.sec, c, c.isRefl⟩]

theorem addTrip_hall {c : TripCause} : addTrip e t c h =
    (windowLeave t (((h.tx[t]).window).take ((h.tx[t]).window.length + 1 - 8)) h).setTx t fun r =>
      { r with window := (h.tx[t]).window.drop ((h.tx[t]).window.length + 1 - 8) ++ [⟨e.now, e.sec, c, c.isRefl⟩] } := rfl

theorem trip_hands {c : TripCause} : Hands h (trip e t c h) := by
  have low := tripLowered_hands (e := e) (t := t) (h := h) (c := c)
  have counted : Hands h (tripCounted e t c h) := .ite (Hands.setTx (h := windowLeave t _ _) low.plain (.orders id rfl rfl)) low
  rw [trip_eq]
  exact Hands.setTx (h := engineTrip e t _ _) counted.plain (.orders id rfl rfl)

end
end Sys2Proof.Machine

namespace Sys2Proof.Machine

set_option Elab.async false
section
variable {g h k : Hall} {e : Env} {t : Tx} {o : Out} {r q : TxRec} {p : OrderKind → Bool} {c : TripCause} {a : Asg}

/-! ### What orders do not write -/

section
variable (w : r.body = q.body)
include w

theorem body_st : r.st = q.st := congrArg (·.st) w

theorem body_undef : r.undef = q.undef := congrArg (·.undef) w

theorem body_window : r.window = q.window := congrArg (·.window) w

theorem body_rcv : r.rcv = q.rcv := congrArg (·.rcv) w

end

/-! ### Orders in hand -/

theorem inHand_eq_false : r.inHand p = false ↔
    (∀ x, r.out = some x → p x.kind = false) ∧ ∀ x, r.pend = some x → p x.kind = false := by
  unfold TxRec.inHand
  rw [Bool.or_eq_false_iff]
  refine and_congr ?_ ?_
  · cases r.out <;> simp
  · cases r.pend <;> simp

theorem Lowers.noRaise (x : Lowers r q) (w : r.inHand OrderKind.isRaise = false) : q.inHand OrderKind.isRaise = false := by
  obtain ⟨out, pend⟩ := inHand_eq_false.1 w
  refine inHand_eq_false.2 ⟨fun y hy => ?_, fun y hy => ?_⟩
  · rcases x.out y hy with low | ⟨z, hz, kind⟩
    · rw [low]
      rfl
    · rw [← kind]
      exact out z hz
  · rcases x.pend y hy with low | ⟨z, hz, kind⟩
    · rw [low]
      rfl
    · rw [← kind]
      exact pend z hz

/-- R141: a LOWER that is not in hand waits, or goes out. -/
theorem queueLower_cases {byTrip : Bool} (hand : (h.tx[t]).lowerInHand = false) :
    queueLower t byTrip h = makePending t (Order.mk0 .lower false byTrip) h ∨ queueLower t byTrip h =
      (handedBack t ((h.tx[t]).pend.filter fun o => o.kind.isRaise) (handedBack t (h.tx[t]).out h)).setTx t fun r =>
        { r with out := some (Order.mk0 .lower false byTrip), pend := r.pend.filter fun o => !o.kind.isRaise } := by
  by_cases behind : ∃ x, (h.tx[t]).out = some x ∧ x.kind.isRaise = false ∧ x.kind.isTune = false
  · obtain ⟨x, out, raise, tune⟩ := behind
    exact .inl (queueLower_behind hand out raise tune)
  · refine .inr (queueLower_out hand fun x out => ?_)
    by_contra none
    rw [not_or, Bool.not_eq_true, Bool.not_eq_true] at none
    exact behind ⟨x, out, none⟩

/-- R165: a LOWER queued is in hand. -/
theorem queueLower_inHand {byTrip : Bool} : ((queueLower t byTrip h).tx[t]).lowerInHand = true := by
  cases hand : (h.tx[t]).lowerInHand with
  | true =>
    have kinds (x : Option Order) : (x.map Order.marked).any (fun o => decide (o.kind = .lower)) =
        x.any fun o => decide (o.kind = .lower) := by
      cases x with
      | none => rfl
      | some o => rw [Option.map_some, Option.any_some, marked_kind, Option.any_some]
    rw [queueLower_held hand]
    split
    · rw [setTx_same, TxRec.lowerInHand, TxRec.inHand, kinds, kinds]
      exact hand
    · exact hand
  | false =>
    rcases queueLower_cases (byTrip := byTrip) hand with behind | out
    · rw [behind, makePending_eq, setTx_same]
      exact Bool.or_true _
    · rw [out, setTx_same]
      rfl

/-- R165, R173: a transmitter TRIPPED or in LOCKOUT is lowered. -/
theorem handLower_inHand {byTrip : Bool} (known : txDefined e.k h t = true)
    (st : (h.tx[t]).st = .tripped ∨ (h.tx[t]).st = .lockout) : ((handLower e t byTrip h).tx[t]).lowerInHand = true := by
  have goes : LowerGoes e h t := by
    refine ⟨txDefined_iff.1 known, ?_⟩
    rcases st with st | st <;> exact ⟨by rw [st]; decide, by rw [st]; decide, fun w => absurd w (by rw [st]; decide)⟩
  rw [handLower_goes goes]
  exact queueLower_inHand

theorem txDefined_congr {kt : Tables} (w : (k.tx[t]).undef = (h.tx[t]).undef) : txDefined kt k t = txDefined kt h t := by
  rw [txDefined, w, txDefined]

/-! ### Trip counts -/

/-- R56, R166: what a trip writes of an assignment. -/
def Asg.log (a : Asg) : Phase × Nat × List Seconds := (a.phase, a.trips, a.tripTimes)

/-- The trip counts of every assignment are as they were. -/
def SameLogs (g h : Hall) : Prop := ∀ u : Tx, (h.asg[u]).map Asg.log = (g.asg[u]).map Asg.log

theorem overtaken_log {kind : OrderKind} : (a.overtaken kind).log = a.log := by
  unfold Asg.overtaken
  cases kind with
  | tune =>
    dsimp only
    split <;> rfl
  | raise =>
    dsimp only
    split
    · rfl
    · split <;> rfl
  | _ => rfl

theorem mapAsg_logs {f : Asg → Asg} (w : ∀ a, (f a).log = a.log) (x : SameLogs g h) : SameLogs g (h.mapAsg t f) := by
  intro u
  rw [← x u, Hall.mapAsg_asg, get_upd]
  split
  · next eq =>
    subst eq
    cases h.asg[t] with
    | none => rfl
    | some a => exact congrArg some (w a)
  · rfl

theorem handedBack_logs {y : Option Order} (x : SameLogs g h) : SameLogs g (handedBack t y h) := by
  cases y with
  | none => exact x
  | some o =>
    unfold handedBack
    rw [Option.map_some, Option.getD_some, overtaken_eq]
    split
    · exact mapAsg_logs (fun _ => overtaken_log) x
    · exact x

theorem setTx_logs {f : TxRec → TxRec} (x : SameLogs g h) : SameLogs g (h.setTx t f) := x

theorem overtakeOut_logs {w : Order → Bool} (x : SameLogs g h) : SameLogs g (overtakeOut t w h) := by
  rw [overtakeOut_eq]
  exact setTx_logs (handedBack_logs x)

theorem overtakePend_logs {w : Order → Bool} (x : SameLogs g h) : SameLogs g (overtakePend t w h) := by
  rw [overtakePend_eq]
  exact setTx_logs (handedBack_logs x)

theorem queueLower_logs {byTrip : Bool} (x : SameLogs g h) : SameLogs g (queueLower t byTrip h) := by
  cases hand : (h.tx[t]).lowerInHand with
  | true =>
    rw [queueLower_held hand]
    split
    · exact setTx_logs x
    · exact x
  | false =>
    rcases queueLower_cases (byTrip := byTrip) hand with behind | out
    · rw [behind, makePending_eq]
      exact setTx_logs (handedBack_logs x)
    · rw [out]
      exact setTx_logs (handedBack_logs (handedBack_logs x))

theorem handLower_logs {byTrip : Bool} (x : SameLogs g h) : SameLogs g (handLower e t byTrip h) := by
  rcases handLower_cases (e := e) (t := t) (byTrip := byTrip) (h := h) with same | queued
  · rw [same]
    exact x
  · rw [queued]
    exact queueLower_logs x

/-! ### What a trip leaves -/

theorem tripTold_tx : Restated .tripped h.tx[t] (tripTold e t c h).tx[t] := by
  obtain ⟨f, em, eq⟩ := tripTold_hall (e := e) (t := t) (h := h) (c := c)
  rw [eq]
  exact setTxState_tx

theorem tripTold_asg : (tripTold e t c h).asg = h.asg := by
  obtain ⟨f, em, eq⟩ := tripTold_hall (e := e) (t := t) (h := h) (c := c)
  rw [eq]
  exact setTxState_same.1

/-- R166 step 1: the record of the trip. -/
theorem tripTold_recorded (retry : c ≠ .raiseTimeout) (clear : c ≠ .clear) (room : h.faults.recs.length < 48) :
    ∃ x ∈ (tripTold e t c h).faults.recs, x.kind = .trip ∧ x.src = .tx t ∧ x.detail = some (.trip c) := by
  obtain ⟨-, faults, -⟩ := setTxState_same (t := t) (h := h) (new := .tripped) (c := .trip)
  obtain ⟨r, eq, kind, src, detail⟩ := reportAsg_eq (e := e) (t := t) (h := setTxState t .tripped .trip h) (kd := .trip)
    (d := some (.trip c)) (f := true)
  have told : tripTold e t c h = report e r (setTxState t .tripped .trip h) := by
    rw [← eq]
    exact if_neg (by rw [decide_eq_false retry, decide_eq_false clear]; decide)
  obtain ⟨x, hx, xkind, xsrc, xdetail, -⟩ := report_recorded (e := e) (r := r) (by rw [faults]; exact room)
  rw [told]
  exact ⟨x, hx, xkind.trans kind, xsrc.trans src, xdetail.trans detail⟩

theorem tripCut_quiet : Quiet (· = t) (tripTold e t c h) (tripCut e t c h) :=
  ((Quiet.refl (· = t) _).overtakeOut rfl).overtakePend rfl

theorem tripLowered_quiet : Quiet (· = t) (tripTold e t c h) (tripLowered e t c h) :=
  .ite (tripCut_quiet.handLower rfl) tripCut_quiet

theorem tripCut_noRaise : ((tripCut e t c h).tx[t]).inHand OrderKind.isRaise = false := by
  unfold tripCut
  rw [overtakePend_tx, overtakeOut_tx]
  refine inHand_eq_false.2 ⟨fun x hx => ?_, fun x hx => ?_⟩
  · have keep := (Option.filter_eq_some_iff.1 hx).2
    rw [Bool.not_eq_true', Bool.or_eq_false_iff] at keep
    exact keep.1
  · exact (Bool.not_eq_true' _).mp (Option.filter_eq_some_iff.1 hx).2

theorem tripLowered_noRaise : ((tripLowered e t c h).tx[t]).inHand OrderKind.isRaise = false := by
  have cut : Hands (tripCut e t c h) (tripLowered e t c h) := .ite (Hands.refl _).handLower (.refl _)
  exact (cut.tx t).noRaise tripCut_noRaise

theorem tripLowered_inHand (lowers : c.lowers = true) (known : txDefined e.k h t = true) :
    ((tripLowered e t c h).tx[t]).lowerInHand = true := by
  have body := tripCut_quiet (e := e) (t := t) (c := c) (h := h) |>.body t
  have told := tripTold_tx (e := e) (t := t) (h := h) (c := c)
  have low : tripLowered e t c h = handLower e t true (tripCut e t c h) := if_pos lowers
  rw [low]
  refine handLower_inHand ?_ (.inl ((body_st body).trans told.st))
  rw [txDefined_congr (h := h) ((body_undef body).trans told.undef)]
  exact known

theorem tripLowered_window : ((tripLowered e t c h).tx[t]).window = (h.tx[t]).window :=
  (body_window (tripLowered_quiet.body t)).trans tripTold_tx.window

theorem tripCounted_tx : (tripCounted e t c h).tx[t] =
    { (tripLowered e t c h).tx[t] with window := tripWindow e c (h.tx[t]).window } := by
  unfold tripCounted tripWindow
  rw [← tripLowered_window (e := e) (t := t) (c := c) (h := h)]
  by_cases door : c = .door
  · rw [if_pos door, if_neg (by rw [door]; decide)]
  · rw [if_neg door, if_pos (decide_eq_true door), addTrip_hall, setTx_same]
    rfl

/-- R166: a transmitter's record after a trip. -/
theorem trip_tx : (trip e t c h).tx[t] = { (tripLowered e t c h).tx[t] with
    window := tripWindow e c (h.tx[t]).window, rcv := ⟨.stopping, some c, c.isRefl, none, false, false, false⟩ } := by
  rw [trip_eq, setTx_same]
  exact congrArg (fun r : TxRec => { r with rcv := ⟨.stopping, some c, c.isRefl, none, false, false, false⟩ }) tripCounted_tx

theorem trip_st : ((trip e t c h).tx[t]).st = .tripped := by
  rw [trip_tx]
  exact (body_st (tripLowered_quiet.body t)).trans tripTold_tx.st

theorem trip_faults : (trip e t c h).faults = (tripTold e t c h).faults := by
  have counted : (tripCounted e t c h).faults = (tripLowered e t c h).faults := by
    unfold tripCounted
    split <;> rfl
  rw [trip_eq]
  exact counted.trans tripLowered_quiet.faults

/-- R166 step 5: what the engine makes of an assignment. -/
def Asg.takeTrip (sec : Seconds) (counted : Bool) (a : Asg) : Asg :=
  match a.phase with
  | .raising | .onAir | .tripped =>
      let a := { a with phase := .tripped, raise := .done, power := false }
      if counted then { a with trips := min 65535 (a.trips + 1), tripTimes := a.tripTimes ++ [sec] } else a
  | _ => a

/-- R166 step 5: the phases in which a trip is taken. -/
abbrev Asg.tripPhase (a : Asg) : Prop := a.phase = .raising ∨ a.phase = .onAir ∨ a.phase = .tripped

theorem takeTrip_taken {sec : Seconds} {counted : Bool} (w : a.tripPhase) : (a.takeTrip sec counted).log =
    (.tripped, if counted then min 65535 (a.trips + 1) else a.trips,
      if counted then a.tripTimes ++ [sec] else a.tripTimes) := by
  unfold Asg.takeTrip
  rcases w with w | w | w <;> rw [w] <;> cases counted <;> rfl

theorem takeTrip_idle {sec : Seconds} {counted : Bool} (w : ¬ a.tripPhase) : a.takeTrip sec counted = a := by
  unfold Asg.takeTrip
  split
  · next st => exact absurd (.inl st) w
  · next st => exact absurd (.inr (.inl st)) w
  · next st => exact absurd (.inr (.inr st)) w
  · rfl

/-- R167: the readings that leave with the window's oldest entries. -/
def Asg.windowLeft (l : List TripEntry) (a : Asg) : Asg :=
  { a with tripTimes := (l.take (l.length + 1 - 8)).foldl (fun l x => l.erase x.clock) a.tripTimes }

theorem mapAsg_asg_some {f : Asg → Asg} (ha : h.asg[t] = some a) : (h.mapAsg t f).asg[t] = some (f a) := by
  rw [Hall.mapAsg_asg, get_upd, if_pos rfl, ha]
  rfl

/-- R166: an assignment after a trip. -/
theorem trip_asg (ha : h.asg[t] = some a) : ∃ a' : Asg, a'.log = a.log ∧ (trip e t c h).asg[t] =
    some (if c = .door then a'.takeTrip e.sec false else (a'.windowLeft (h.tx[t]).window).takeTrip e.sec true) := by
  have logs : SameLogs h (tripLowered e t c h) := by
    have told : SameLogs h (tripTold e t c h) := fun u => by rw [tripTold_asg]
    unfold tripLowered
    split
    · exact handLower_logs (overtakePend_logs (overtakeOut_logs told))
    · exact overtakePend_logs (overtakeOut_logs told)
  have same := logs t
  rw [ha, Option.map_some, Option.map_eq_some_iff] at same
  obtain ⟨a', ha', log⟩ := same
  refine ⟨a', log, ?_⟩
  have engine (counted : Bool) (k : Hall) : engineTrip e t counted k = k.mapAsg t (Asg.takeTrip e.sec counted) := rfl
  rw [trip_eq, engine]
  unfold tripCounted
  by_cases door : c = .door
  · rw [if_pos door, if_neg (by rw [door]; decide), decide_eq_false (not_not.2 door)]
    exact mapAsg_asg_some ha'
  · rw [if_neg door, if_pos (decide_eq_true door), decide_eq_true door, addTrip_hall, tripLowered_window]
    exact mapAsg_asg_some (h := (windowLeave t _ (tripLowered e t c h)).setTx t _) (mapAsg_asg_some ha')

theorem trip_logged (ha : h.asg[t] = some a) : ∃ b, (trip e t c h).asg[t] = some b ∧
    b.tripTimes = (if c = .door then a.tripTimes
      else if a.tripPhase then (a.windowLeft (h.tx[t]).window).tripTimes ++ [e.sec]
      else (a.windowLeft (h.tx[t]).window).tripTimes) ∧
    (a.tripPhase → b.phase = .tripped ∧ b.trips = if c = .door then a.trips else min 65535 (a.trips + 1)) ∧
    (¬ a.tripPhase → b.phase = a.phase ∧ b.trips = a.trips) := by
  obtain ⟨a', log, hb⟩ := trip_asg (e := e) (c := c) ha
  obtain ⟨phase, rest⟩ := Prod.mk.inj log
  obtain ⟨trips, times⟩ := Prod.mk.inj rest
  have takes : a'.tripPhase ↔ a.tripPhase := by rw [Asg.tripPhase, phase, Asg.tripPhase]
  have left : (a'.windowLeft (h.tx[t]).window).tripTimes = (a.windowLeft (h.tx[t]).window).tripTimes := by
    rw [Asg.windowLeft, times, Asg.windowLeft]
  refine ⟨_, hb, ?_⟩
  simp only [← takes, ← left, ← times, ← trips, ← phase]
  by_cases door : c = .door
  · simp only [if_pos door]
    by_cases taken : a'.tripPhase
    · obtain ⟨ph, rest⟩ := Prod.mk.inj (takeTrip_taken (sec := e.sec) (counted := false) taken)
      obtain ⟨tr, ti⟩ := Prod.mk.inj rest
      exact ⟨ti, fun _ => ⟨ph, tr⟩, fun no => absurd taken no⟩
    · rw [takeTrip_idle taken]
      exact ⟨rfl, fun yes => absurd yes taken, fun _ => ⟨rfl, rfl⟩⟩
  · simp only [if_neg door]
    by_cases taken : a'.tripPhase
    · obtain ⟨ph, rest⟩ := Prod.mk.inj (takeTrip_taken (sec := e.sec) (counted := true)
        (a := a'.windowLeft (h.tx[t]).window) taken)
      obtain ⟨tr, ti⟩ := Prod.mk.inj rest
      rw [if_pos taken]
      exact ⟨ti, fun _ => ⟨ph, tr⟩, fun no => absurd taken no⟩
    · rw [if_neg taken, takeTrip_idle (a := a'.windowLeft (h.tx[t]).window) taken]
      exact ⟨rfl, fun yes => absurd yes taken, fun _ => ⟨rfl, rfl⟩⟩

end
end Sys2Proof.Machine

namespace Sys2Proof.Machine

set_option Elab.async false
section
variable {g h k : Hall} {e : Env} {t u : Tx} {o : Out} {r : TxRec} {a : Asg} {x : Slot} {i : Fin 4}

/-! ### An end that needs no LOWER -/

/-- R66: what the end of an assignment leaves in hand. -/
def TxRec.ended (r : TxRec) : TxRec :=
  { r with
    out := (r.out.filter fun o => !(o.kind.isRaise && o.sentAt.isNone && o.engine)).map Order.cut
    pend := (r.pend.filter fun o => !(o.kind.isRaise && o.engine)).map Order.cut }

theorem endBegun_ended : (endBegun t a h).tx[t] = (h.tx[t]).ended := by
  have cancelled := ((Quiet.refl (fun _ => False) (dropHandBack t (withdrawRaise t (h.setAsg t (some a))))).cancelSeq (t := t)).tx t id
  unfold endBegun
  rw [cancelled]
  unfold dropHandBack noHandBack withdrawRaise
  rw [setTx_same, setTx_same]
  rfl

theorem endAsg_ended {oc : EndOutcome} (quiet : (h.tx[t]).needsLower = false) :
    (endAsg e t oc .nothing h).tx[t] = h.tx[t] ∨ (endAsg e t oc .nothing h).tx[t] = (h.tx[t]).ended := by
  cases ha : h.asg[t] with
  | none =>
    unfold endAsg
    rw [ha]
    exact .inl rfl
  | some a =>
    cases hp : a.phase.isEnding with
    | true =>
      rw [endAsg_ending ha hp]
      exact .inl rfl
    | false =>
      have done := ((Quiet.refl (fun _ => False) _).completeEnd (e := e)
        (endBegun_asg t (a.ended oc .nothing) h) rfl).tx t id
      rw [endAsg_completes ha hp quiet, done]
      exact .inr endBegun_ended

theorem ended_lowerInHand (w : r.lowerInHand = true) : r.ended.lowerInHand = true := by
  have keeps (x : Option Order) (p : Order → Bool) (low : ∀ o, o.kind = .lower → p o = true)
      (w : x.any (fun o => decide (o.kind = .lower)) = true) :
      ((x.filter p).map Order.cut).any (fun o => decide (o.kind = .lower)) = true := by
    obtain ⟨o, rfl, kind⟩ := (Option.any_eq_true _ _).1 w
    have kind := of_decide_eq_true kind
    rw [Option.filter_some_pos (low o kind), Option.map_some, Option.any_some, cut_kind.1]
    exact decide_eq_true kind
  unfold TxRec.lowerInHand TxRec.inHand at w ⊢
  rw [Bool.or_eq_true] at w ⊢
  exact w.imp (keeps _ _ fun o kind => by rw [kind]; rfl) (keeps _ _ fun o kind => by rw [kind]; rfl)

theorem lockout_quiet (st : r.st = .lockout) : r.needsLower = false :=
  needsLower_quiet (by rw [st]; rfl) (by rw [st]; decide)

/-- R172, R173: a lockout handed to the engine ends the assignment LOCKED-OUT. -/
theorem engineLockout_asg (core : (k.asg[t]).map Asg.core = (h.asg[t]).map Asg.core) (ha : h.asg[t] = some a)
    (run : a.phase.isEnding = false) : (engineLockout e t k).asg[t] = none ∨
      ∃ b, (engineLockout e t k).asg[t] = some b ∧ b.phase = .ending .lockedOut .nothing := by
  rw [ha, Option.map_some, Option.map_eq_some_iff] at core
  obtain ⟨b, hb, same⟩ := core
  have phase : b.phase = a.phase := congrArg Prod.fst same
  refine (endAsg_asg hb (by rw [phase]; exact run)).imp_right fun w => ?_
  obtain ⟨d, hd, ended⟩ := Option.map_eq_some_iff.1 w
  exact ⟨d, hd, congrArg Prod.fst ended⟩

theorem setTxState_ends {d : Tx → Prop} {new : TxState} {c : TxCause} : Ends d h (setTxState t new c h) := by
  obtain ⟨q, al, em, eq, -⟩ := setTxState_hall (t := t) (h := h) (new := new) (c := c)
  rw [eq]
  exact (Ends.refl d h).plain rfl rfl rfl rfl rfl rfl

theorem reportAsg_ends {d : Tx → Prop} {kd : FaultKind} {w : Option Detail} {f : Bool} (x : Ends d g h) :
    Ends d g (reportAsg e kd t w f h) := by
  obtain ⟨r, eq, -⟩ := reportAsg_eq (e := e) (t := t) (h := h) (kd := kd) (d := w) (f := f)
  rw [eq]
  exact report_ends x

/-! ### Too many trips -/

/-- R172 step 1. -/
def lockoutCut (t : Tx) (h : Hall) : Hall :=
  dropHandBack t (overtakePend t (fun _ => true) (setTxState t .lockout .trip h))

/-- R172 step 2. -/
def lockoutTold (e : Env) (t : Tx) (h : Hall) : Hall :=
  reportAsg e .lockout t (some (.trips (h.tx[t]).window.length)) false (lockoutCut t h)

/-- R172 step 3. -/
def suspectAntenna (e : Env) (t : Tx) (w : List TripEntry) (h : Hall) : Hall :=
  match madeOut h t with
  | some o => if w.all TripEntry.refl then report e ⟨.antennaSuspect, .out o, none, none, none⟩ h else h
  | none => h

/-- R172 step 4: what is handed to the engine. -/
def lockoutReady (e : Env) (t : Tx) (h : Hall) : Hall :=
  (suspectAntenna e t (h.tx[t]).window (lockoutTold e t h)).setTx t fun r => { r with rcv := Recovery.idle }

theorem lockoutTrips_eq : lockoutTrips e t h = engineLockout e t (lockoutReady e t h) := rfl

theorem suspectAntenna_cases {w : List TripEntry} : suspectAntenna e t w h = h ∨
    ∃ r, suspectAntenna e t w h = report e r h := by
  unfold suspectAntenna
  split
  · split
    · exact .inr ⟨_, rfl⟩
    · exact .inl rfl
  · exact .inl rfl

theorem suspectAntenna_made {w : List TripEntry} (made : madeOut h t = some o) (refl : ∀ x ∈ w, x.refl = true) :
    suspectAntenna e t w h = report e ⟨.antennaSuspect, .out o, none, none, none⟩ h := by
  unfold suspectAntenna
  rw [made]
  exact if_pos (List.all_eq_true.2 refl)

theorem suspectAntenna_same {w : List TripEntry} : (suspectAntenna e t w h).tx = h.tx := by
  rcases suspectAntenna_cases (e := e) (t := t) (h := h) (w := w) with same | ⟨r, eq⟩
  · rw [same]
  · obtain ⟨f, em, hall⟩ := report_hall (e := e) (r := r) (h := h)
    rw [eq, hall]

theorem suspectAntenna_ends {d : Tx → Prop} {w : List TripEntry} (x : Ends d g h) : Ends d g (suspectAntenna e t w h) := by
  rcases suspectAntenna_cases (e := e) (t := t) (h := h) (w := w) with same | ⟨r, eq⟩
  · rw [same]
    exact x
  · rw [eq]
    exact report_ends x

theorem lockoutCut_tx : ((lockoutCut t h).tx[t]).st = .lockout ∧ ((lockoutCut t h).tx[t]).pend = none ∧
    ((lockoutCut t h).tx[t]).window = (h.tx[t]).window := by
  have told := setTxState_tx (t := t) (h := h) (new := .lockout) (c := .trip)
  have none (x : Option Order) : (x.filter fun _ => !true) = Option.none := by cases x <;> rfl
  unfold lockoutCut dropHandBack noHandBack
  rw [setTx_same, overtakePend_tx, none]
  exact ⟨told.st, rfl, told.window⟩

theorem lockoutCut_same : (lockoutCut t h).faults = h.faults ∧ (lockoutCut t h).path.xpt = h.path.xpt := by
  obtain ⟨-, faults, path, -⟩ := setTxState_same (t := t) (h := h) (new := .lockout) (c := .trip)
  have quiet := ((Quiet.refl (· = t) (setTxState t .lockout .trip h)).overtakePend (p := fun _ => true) rfl).noHandBack
    (p := fun k => decide (k ≠ .lower)) rfl
  exact ⟨quiet.faults.trans faults, quiet.xpt.trans (by rw [path])⟩

theorem lockoutTold_report : ∃ r, lockoutTold e t h = report e r (lockoutCut t h) ∧ r.kind = .lockout ∧ r.src = .tx t := by
  obtain ⟨r, told, kind, src, -⟩ := reportAsg_eq (e := e) (t := t) (kd := .lockout)
    (d := some (.trips (h.tx[t]).window.length)) (f := false) (h := lockoutCut t h)
  exact ⟨r, told, kind, src⟩

theorem lockoutTold_same : (lockoutTold e t h).tx = (lockoutCut t h).tx ∧ (lockoutTold e t h).path = (lockoutCut t h).path := by
  obtain ⟨r, told, -⟩ := lockoutTold_report (e := e) (t := t) (h := h)
  obtain ⟨f, em, hall⟩ := report_hall (e := e) (r := r) (h := lockoutCut t h)
  rw [told, hall]
  exact ⟨rfl, rfl⟩

theorem lockoutReady_tx : ((lockoutReady e t h).tx[t]).st = .lockout ∧ ((lockoutReady e t h).tx[t]).rcv = Recovery.idle ∧
    ((lockoutReady e t h).tx[t]).pend = none ∧ ((lockoutReady e t h).tx[t]).window = (h.tx[t]).window := by
  obtain ⟨st, pend, window⟩ := lockoutCut_tx (t := t) (h := h)
  unfold lockoutReady
  rw [setTx_same, suspectAntenna_same, lockoutTold_same.1]
  exact ⟨st, rfl, pend, window⟩

theorem madeOut_congr (w : k.path.xpt = h.path.xpt) : madeOut k t = madeOut h t := by
  unfold madeOut xst
  rw [w]

theorem blocked_congr {s : FaultSource} (w : k.faults = h.faults) : blocked k s = blocked h s := by
  unfold blocked
  rw [w]

section
variable (ok : h.faults.ok) (room : h.faults.recs.length < 47)
include ok room

/-- R172 step 2: the transmitter is blocked, and room is left for step 3. -/
theorem lockoutTold_blocked : (lockoutTold e t h).faults.ok ∧ (lockoutTold e t h).faults.recs.length < 48 ∧
    blocked (lockoutTold e t h) (.tx t) = true := by
  obtain ⟨faults, -⟩ := lockoutCut_same (t := t) (h := h)
  obtain ⟨r, told, kind, src⟩ := lockoutTold_report (e := e) (t := t) (h := h)
  have cut : (lockoutCut t h).faults.ok := by
    rw [faults]
    exact ok
  have few : (lockoutCut t h).faults.recs.length < 47 := by
    rw [faults]
    exact room
  rw [told, ← src]
  exact ⟨report_ok cut, report_length.trans_lt (Nat.succ_lt_succ few),
    report_blocks cut (few.trans (by decide)) (by rw [kind]; rfl)⟩

theorem lockoutReady_tx_blocked : blocked (lockoutReady e t h) (.tx t) = true := by
  obtain ⟨told, -, first⟩ := lockoutTold_blocked (e := e) (t := t) ok room
  unfold lockoutReady
  rw [blocked_congr (Hall.setTx_faults _ _ _)]
  rcases suspectAntenna_cases (e := e) (t := t) (h := lockoutTold e t h) (w := (h.tx[t]).window) with same | ⟨r, eq⟩
  · rw [same]
    exact first
  · rw [eq]
    exact report_blocked told first

/-- R172 step 3: the made output is blocked when every trip was by reflection. -/
theorem lockoutReady_out_blocked (made : madeOut h t = some o) (refl : ∀ x ∈ (h.tx[t]).window, x.refl = true) :
    blocked (lockoutReady e t h) (.out o) = true := by
  obtain ⟨told, few, -⟩ := lockoutTold_blocked (e := e) (t := t) ok room
  have made : madeOut (lockoutTold e t h) t = some o := by
    rw [madeOut_congr (h := h) (by rw [lockoutTold_same.2]; exact lockoutCut_same.2)]
    exact made
  unfold lockoutReady
  rw [blocked_congr (Hall.setTx_faults _ _ _), suspectAntenna_made made refl]
  exact report_blocks (r := ⟨.antennaSuspect, .out o, none, none, none⟩) told few rfl

end

theorem lockoutReady_ends {d : Tx → Prop} : Ends d h (lockoutReady e t h) :=
  (suspectAntenna_ends (reportAsg_ends (overtakePend_ends setTxState_ends).setTx)).setTx

theorem engineLockout_quiet : Quiet (· = t) h (engineLockout e t h) := (Quiet.refl _ h).endAsg rfl

/-- R172: the orders that a lockout leaves. -/
theorem lockoutTrips_pend : ((lockoutTrips e t h).tx[t]).pend = none := by
  obtain ⟨st, -, pend, -⟩ := lockoutReady_tx (e := e) (t := t) (h := h)
  rw [lockoutTrips_eq]
  rcases endAsg_ended (e := e) (oc := .lockedOut) (lockout_quiet st) with same | ended
  · exact (congrArg (·.pend) same).trans pend
  · refine (congrArg (·.pend) ended).trans ?_
    unfold TxRec.ended
    dsimp only
    rw [pend]
    rfl

/-! ### The walk of a hot switch -/

/-- R112, R127: a slot after a hot switch. -/
def Slot.heated (x : Slot) : Slot := { x with hot := true, motion := { x.motion with waiters := [] } }

/-- From `g` to `h` by what a hot switch of T does with motions of the kinds `p`: their slots become hot, crosspoints UNKNOWN and
positioners STALLED, no block goes, and T's orders and the core of its assignment stay. -/
structure Heats (p : MotionKind → Prop) (t : Tx) (g h : Hall) : Prop where
  tx : h.tx[t] = g.tx[t]
  asg : (h.asg[t]).map Asg.core = (g.asg[t]).map Asg.core
  faults : g.faults.ok → h.faults.ok
  blocked : g.faults.ok → ∀ s, blocked g s = true → blocked h s = true
  slots : ∀ (i : Fin 4) (x : Slot), g.path.slots[i] = some x →
    h.path.slots[i] = some x ∨ (p x.motion.kind ∧ h.path.slots[i] = some x.heated)
  xpt : ∀ (u : Tx) (o : Out), xst g u o = .unknown → xst h u o = .unknown
  pos : ∀ (o : Out) (q : Pos), g.path.pos[o] = some q → ∃ r, h.path.pos[o] = some r ∧ (r.st = q.st ∨ r.st = .stalled)

namespace Heats

variable {p : MotionKind → Prop}

theorem refl (p : MotionKind → Prop) (t : Tx) (h : Hall) : Heats p t h h :=
  ⟨rfl, rfl, id, fun _ _ => id, fun _ _ hx => .inl hx, fun _ _ => id, fun _ q hq => ⟨q, hq, .inl rfl⟩⟩

theorem trans (x : Heats p t g h) (y : Heats p t h k) : Heats p t g k where
  tx := y.tx.trans x.tx
  asg := y.asg.trans x.asg
  faults ok := y.faults (x.faults ok)
  blocked ok s w := y.blocked (x.faults ok) s (x.blocked ok s w)
  slots i s hs := by
    rcases x.slots i s hs with same | ⟨hot, heated⟩
    · exact y.slots i s same
    · exact .inr ⟨hot, (y.slots i _ heated).elim id fun w => w.2⟩
  xpt u o w := y.xpt u o (x.xpt u o w)
  pos o q hq := by
    obtain ⟨r, hr, st⟩ := x.pos o q hq
    obtain ⟨s, hs, st'⟩ := y.pos o r hr
    refine ⟨s, hs, ?_⟩
    rcases st' with same | stalled
    · exact st.imp same.trans same.trans
    · exact .inr stalled

theorem mono {p' : MotionKind → Prop} (x : Heats p t g h) (w : ∀ m, p m → p' m) : Heats p' t g h :=
  { x with slots := fun i s hs => (x.slots i s hs).imp_right fun v => ⟨w _ v.1, v.2⟩ }

/-- A slot that is hot already, and what a walk leaves of it. -/
theorem heated (y : Heats p t g h) (w : g.path.slots[i] = some x.heated) : h.path.slots[i] = some x.heated :=
  (y.slots i _ w).elim id fun v => v.2

theorem each {α : Type} {l : List α} {f : α → Hall → Hall} (y : ∀ a k, Heats p t k (f a k)) : Heats p t h (h.each l f) := by
  induction l generalizing h with
  | nil => exact refl p t h
  | cons a l ih => exact (y a h).trans ih

/-- A walk passes through the step of each member of its list. -/
theorem each_mem {α : Type} {l : List α} {f : α → Hall → Hall} (y : ∀ a k, Heats p t k (f a k)) {a : α} (mem : a ∈ l) :
    ∃ k, Heats p t h k ∧ Heats p t (f a k) (h.each l f) := by
  induction l generalizing h with
  | nil => cases mem
  | cons b l ih =>
    rcases List.mem_cons.1 mem with rfl | mem
    · exact ⟨h, refl p t h, each y⟩
    · obtain ⟨k, before, after⟩ := ih (h := f b h) mem
      exact ⟨k, (y b h).trans before, after⟩

/-- Ends of the assignments of others. -/
theorem ofQuiet (x : Quiet (· ≠ t) g h) (y : Ends (· ≠ t) g h) : Heats p t g h where
  tx := x.tx t (not_not.2 rfl)
  asg := y.asg t (not_not.2 rfl)
  faults ok := by rw [x.faults]; exact ok
  blocked _ s w := by rw [blocked_congr x.faults]; exact w
  slots i s hs := .inl (by rw [x.slots]; exact hs)
  xpt u o w := by
    unfold xst at w ⊢
    rw [x.xpt]
    exact w
  pos o q hq := ⟨q, by rw [x.pos]; exact hq, .inl rfl⟩

protected theorem report {r : Report} : Heats p t h (report e r h) := by
  obtain ⟨f, em, eq⟩ := report_hall (e := e) (r := r) (h := h)
  have same : Heats p t h { h with emit := em } := { refl p t h with }
  refine { same with tx := ?_, asg := ?_, faults := report_ok, blocked := fun ok _ w => report_blocked ok w
                     slots := ?_, xpt := ?_, pos := ?_ } <;> rw [eq]
  · exact same.slots
  · exact same.xpt
  · exact same.pos

end Heats

/-- R112: the slots of a kind become hot. -/
def heatSlots (m : MotionKind) (h : Hall) : Hall := h.mapSlots fun x => some (if x.motion.kind = m then x.heated else x)

theorem heatSlots_slot {m : MotionKind} (hx : h.path.slots[i] = some x) (kind : x.motion.kind = m) :
    (heatSlots m h).path.slots[i] = some x.heated := by
  unfold heatSlots
  rw [mapSlots_slot, hx, Option.bind_some, if_pos kind]

theorem heatSlots_heats {p : MotionKind → Prop} {m : MotionKind} (w : p m) : Heats p t h (heatSlots m h) :=
  { Heats.refl p t h with
    slots := fun i x hx => by
      by_cases kind : x.motion.kind = m
      · exact .inr ⟨kind ▸ w, heatSlots_slot hx kind⟩
      · left
        unfold heatSlots
        rw [mapSlots_slot, hx, Option.bind_some, if_neg kind] }

end
end Sys2Proof.Machine

namespace Sys2Proof.Machine

set_option Elab.async false
section
variable {g h k : Hall} {e : Env} {t u : Tx} {o v : Out} {a : Asg} {x : Slot} {i : Fin 4} {p : MotionKind → Prop} {q : Pos}

/-! ### The motions of a hot switch -/

theorem outBecomes_cases {old now : OutState} : outBecomes old now h = h ∨ outBecomes old now h = h.wantAlloc := by
  unfold outBecomes
  exact (ite_eq_or_eq _ _ _).symm

namespace Heats

/-- Matters that a hot switch does not speak of. -/
theorem wantAlloc : Heats p t h h.wantAlloc := { Heats.refl p t h with }

theorem note {b : NoticeBody} : Heats p t h (h.note b) := { Heats.refl p t h with }

theorem setXpt {f : Xpt → Xpt} (w : ∀ x, (f x).st = .unknown) : Heats p t h (h.setXpt u o f) :=
  { Heats.refl p t h with
    xpt := fun a b was => by
      unfold xst at was ⊢
      rw [Hall.setXpt_path, get_upd]
      split
      · next eq =>
        subst eq
        rw [get_upd]
        split
        · exact w _
        · exact was
      · exact was }

theorem mapPos {f : Pos → Pos} (w : ∀ x, (f x).st = .stalled) : Heats p t h (h.mapPos o f) :=
  { Heats.refl p t h with
    pos := fun b y was => by
      rw [Hall.mapPos_path, get_upd]
      split
      · next eq =>
        subst eq
        exact ⟨f y, by rw [was]; rfl, .inr (w y)⟩
      · exact ⟨y, was, .inl rfl⟩ }

protected theorem outBecomes {old now : OutState} : Heats p t h (outBecomes old now h) := by
  rcases outBecomes_cases (old := old) (now := now) (h := h) with same | wanted
  · rw [same]
    exact refl p t h
  · rw [wanted]
    exact wantAlloc

protected theorem xptChange : Heats p t h (xptChange u o .unknown .hot true h) := by
  unfold xptChange xptChangeTo
  split
  · exact refl p t h
  · have moved : Heats p t h (h.setXpt u o fun x => { x with st := .unknown }) := setXpt fun _ => rfl
    exact (moved.trans note).trans .outBecomes

protected theorem posChange : Heats p t h (posChange o .stalled .hot true h) := (mapPos fun _ => rfl).trans note

protected theorem waiterFails (ne : u ≠ t) : Heats p t h (waiterFails e u h) := by
  have fails : Heats p t h (failSeq e u h) :=
    ofQuiet ((Quiet.refl (· ≠ t) h).endAsg ne).cancelSeq (cancelSeq_ends (endAsg_ends (Ends.refl (· ≠ t) h) ne))
  unfold waiterFails
  split
  · exact fails
  · exact fails
  · exact refl p t h

protected theorem hotWaiters {l : List Tx} : Heats p t h (hotWaiters e t l h) := by
  refine each fun u k => ?_
  by_cases eq : u = t
  · rw [if_pos eq]
    exact ofQuiet (Quiet.refl (· ≠ t) k).cancelSeq (cancelSeq_ends (Ends.refl (· ≠ t) k))
  · rw [if_neg eq]
    exact .waiterFails eq

end Heats

theorem xptChange_unknown : xst (xptChange t o .unknown .hot true h) t o = .unknown := by
  unfold xptChange xptChangeTo
  split
  · assumption
  · dsimp only
    rw [if_neg (by decide), xst, outBecomes_path]
    exact xst_setXpt (h := h) (f := fun x => { x with st := .unknown })

theorem posChange_stalled (hq : h.path.pos[o] = some q) :
    ∃ r, (posChange o .stalled .hot true h).path.pos[o] = some r ∧ r.st = .stalled := by
  refine ⟨{ q with st := .stalled }, ?_, rfl⟩
  have moved : (posChange o .stalled .hot true h).path.pos[o] = (upd h.path.pos o (Option.map fun p => { p with st := .stalled }))[o] :=
    rfl
  rw [moved, get_upd, if_pos rfl, hq]
  rfl

/-- R112: a throw becomes hot. -/
def hotThrow (e : Env) (t : Tx) (x : Slot) (o : Out) (h : Hall) : Hall :=
  hotWaiters e t x.motion.waiters
    (reportOut e .matrixUnknown o (.matrix .hot (some (t, o))) (xptChange t o .unknown .hot true (heatSlots x.motion.kind h)))

/-- R112: the visit of one slot. -/
def hotThrowStep (e : Env) (t : Tx) (x : Slot) (h : Hall) : Hall :=
  match x.motion.kind with
  | .make u o | .brk u o => if u ≠ t || x.hot then h else hotThrow e t x o h
  | .slew _ _ => h

theorem hotThrows_eq : hotThrows e t h = h.each (slotList h) (hotThrowStep e t) := rfl

/-- R127: a slew becomes hot. -/
def hotSlew (e : Env) (t : Tx) (x : Slot) (o : Out) (h : Hall) : Hall :=
  hotWaiters e t x.motion.waiters
    (reportOut e .positionerStall o (.stall .hot) (posChange o .stalled .hot true (heatSlots x.motion.kind h)))

/-- R127: the visit of one slot. -/
def hotSlewStep (e : Env) (t : Tx) (fed : List Out) (x : Slot) (h : Hall) : Hall :=
  match x.motion.kind with
  | .slew o _ => if !fed.contains o || x.hot then h else hotSlew e t x o h
  | _ => h

theorem hotSlews_eq {fed : List Out} : hotSlews e t fed h = h.each (slotList h) (hotSlewStep e t fed) := rfl

theorem hotThrow_heats (w : p x.motion.kind) : Heats p t h (hotThrow e t x o h) :=
  (heatSlots_heats w).trans (.trans .xptChange (.trans .report .hotWaiters))

theorem hotSlew_heats (w : p x.motion.kind) : Heats p t h (hotSlew e t x o h) :=
  (heatSlots_heats w).trans (.trans .posChange (.trans .report .hotWaiters))

theorem hotThrowStep_heats : Heats (fun m => m.isSlew = false) t h (hotThrowStep e t x h) := by
  unfold hotThrowStep
  split
  case h_3 => exact .refl _ t h
  all_goals
    next kind =>
    split
    · exact .refl _ t h
    · exact hotThrow_heats (by rw [kind]; rfl)

theorem hotSlewStep_heats {fed : List Out} : Heats (fun m => m.isSlew = true) t h (hotSlewStep e t fed x h) := by
  unfold hotSlewStep
  split
  · next kind =>
    split
    · exact .refl _ t h
    · exact hotSlew_heats (by rw [kind]; rfl)
  · exact .refl _ t h

/-- A slot found with the record `x`, as it was or hot since. -/
theorem heatSlots_done (hx : h.path.slots[i] = some x ∨ h.path.slots[i] = some x.heated) :
    (heatSlots x.motion.kind h).path.slots[i] = some x.heated := by
  rcases hx with cold | hot
  · exact heatSlots_slot cold rfl
  · exact heatSlots_slot (x := x.heated) hot rfl

theorem hotThrow_done (hx : h.path.slots[i] = some x ∨ h.path.slots[i] = some x.heated) :
    (hotThrow e t x o h).path.slots[i] = some x.heated ∧ xst (hotThrow e t x o h) t o = .unknown := by
  have told {k : Hall} : Heats (fun _ => True) t k
      (hotWaiters e t x.motion.waiters (reportOut e .matrixUnknown o (.matrix .hot (some (t, o))) k)) := .trans .report .hotWaiters
  exact ⟨(Heats.xptChange.trans told).heated (heatSlots_done hx), told.xpt t o xptChange_unknown⟩

theorem hotSlew_done (hx : h.path.slots[i] = some x ∨ h.path.slots[i] = some x.heated) (hq : h.path.pos[o] = some q) :
    (hotSlew e t x o h).path.slots[i] = some x.heated ∧
      ∃ r, (hotSlew e t x o h).path.pos[o] = some r ∧ r.st = .stalled := by
  have told {k : Hall} : Heats (fun _ => True) t k
      (hotWaiters e t x.motion.waiters (reportOut e .positionerStall o (.stall .hot) k)) := .trans .report .hotWaiters
  obtain ⟨r, hr, st⟩ := posChange_stalled (h := heatSlots x.motion.kind h) (o := o) hq
  obtain ⟨s, hs, same⟩ := told.pos o r hr
  exact ⟨(Heats.posChange.trans told).heated (heatSlots_done hx), s, hs, same.elim (fun w => w.trans st) id⟩

theorem hotThrows_heats : Heats (fun m => m.isSlew = false) t h (hotThrows e t h) := by
  rw [hotThrows_eq]
  exact .each fun _ _ => hotThrowStep_heats

theorem hotSlews_heats {fed : List Out} : Heats (fun m => m.isSlew = true) t h (hotSlews e t fed h) := by
  rw [hotSlews_eq]
  exact .each fun _ _ => hotSlewStep_heats

/-- R112: a throw of the row ends hot and its crosspoint UNKNOWN. -/
theorem hotThrows_done (hx : h.path.slots[i] = some x) (cold : x.hot = false)
    (kind : x.motion.kind = .make t o ∨ x.motion.kind = .brk t o) :
    (hotThrows e t h).path.slots[i] = some x.heated ∧ xst (hotThrows e t h) t o = .unknown := by
  obtain ⟨k, before, after⟩ := Heats.each_mem (p := fun m => m.isSlew = false) (t := t) (h := h) (f := hotThrowStep e t)
    (fun _ _ => hotThrowStep_heats) (mem_slotList.2 ⟨i, hx⟩)
  have visit : hotThrowStep e t x k = hotThrow e t x o k := by
    unfold hotThrowStep
    rcases kind with kind | kind <;> rw [kind, cold] <;> exact if_neg (by simp)
  obtain ⟨slot, xpt⟩ := hotThrow_done (e := e) (t := t) (o := o) ((before.slots i x hx).imp_right fun w => w.2)
  rw [visit] at after
  rw [hotThrows_eq]
  exact ⟨after.heated slot, after.xpt t o xpt⟩

/-- R127: a slew fed through the row ends hot and its positioner STALLED. -/
theorem hotSlews_done {fed : List Out} {n : Nat} (hx : h.path.slots[i] = some x) (cold : x.hot = false)
    (kind : x.motion.kind = .slew o n) (mem : o ∈ fed) (hq : h.path.pos[o] = some q) :
    (hotSlews e t fed h).path.slots[i] = some x.heated ∧
      ∃ r, (hotSlews e t fed h).path.pos[o] = some r ∧ r.st = .stalled := by
  obtain ⟨k, before, after⟩ := Heats.each_mem (p := fun m => m.isSlew = true) (t := t) (h := h) (f := hotSlewStep e t fed)
    (fun _ _ => hotSlewStep_heats) (mem_slotList.2 ⟨i, hx⟩)
  have visit : hotSlewStep e t fed x k = hotSlew e t x o k := by
    unfold hotSlewStep
    rw [kind, cold]
    exact if_neg (by simp [mem])
  obtain ⟨y, hy, -⟩ := before.pos o q hq
  obtain ⟨slot, r, hr, st⟩ := hotSlew_done (e := e) (t := t) ((before.slots i x hx).imp_right fun w => w.2) hy
  rw [visit] at after
  rw [hotSlews_eq]
  obtain ⟨s, hs, same⟩ := after.pos o r hr
  exact ⟨after.heated slot, s, hs, same.elim (fun w => w.trans st) id⟩

end
end Sys2Proof.Machine

namespace Sys2Proof.Machine

set_option Elab.async false
section
variable {h : Hall} {e : Env} {t : Tx} {o : Out} {a : Asg} {x : Slot} {i : Fin 4} {q : Pos} {contact : Bool}

/-! ### A hot switch -/

/-- R173 step 1. -/
def hotCut (t : Tx) (h : Hall) : Hall :=
  overtakePend t (fun _ => true) (overtakeOut t (fun o => decide (o.kind ≠ .lower)) (setTxState t .lockout .trip h))

/-- R173 step 2. -/
def hotTold (e : Env) (t : Tx) (contact : Bool) (h : Hall) : Hall :=
  reportTx e .hotSwitch t (some (if contact then .contact else .rfp)) (hotCut t h)

/-- R173 step 3. -/
def hotLowered (e : Env) (t : Tx) (contact : Bool) (h : Hall) : Hall := handLower e t true (hotTold e t contact h)

/-- R127: the outputs fed through row T. -/
def fedOuts (h : Hall) (t : Tx) : List Out := allOut.filter fun o => decide (feeder h o = some t)

/-- R173 step 4. -/
def hotMoved (e : Env) (t : Tx) (contact : Bool) (h : Hall) : Hall :=
  hotSlews e t (fedOuts h t) (hotThrows e t (hotLowered e t contact h))

/-- R173 step 6. -/
def TxRec.hotEnded (moving : Bool) (r : TxRec) : TxRec :=
  { r with rcv := Recovery.idle, permitHot := decide (r.permit = .granted) && moving }

theorem hotSwitch_eq : hotSwitch e t contact h =
    (engineLockout e t (hotMoved e t contact h)).setTx t (TxRec.hotEnded (rowMotion h t)) := rfl

section
variable {r : TxRec} {moving : Bool}

theorem hotEnded_st : (r.hotEnded moving).st = r.st := rfl

theorem hotEnded_rcv : (r.hotEnded moving).rcv = Recovery.idle := rfl

theorem hotEnded_window : (r.hotEnded moving).window = r.window := rfl

theorem hotEnded_lowerInHand : (r.hotEnded moving).lowerInHand = r.lowerInHand := rfl

end

theorem mem_fedOuts (w : feeder h o = some t) : o ∈ fedOuts h t :=
  List.mem_filter.2 ⟨mem_allOut o, decide_eq_true w⟩

theorem hotCut_quiet : Quiet (· = t) (setTxState t .lockout .trip h) (hotCut t h) :=
  ((Quiet.refl (· = t) _).overtakeOut rfl).overtakePend rfl

theorem hotTold_hall : ∃ f em, hotTold e t contact h = { hotCut t h with faults := f, emit := em } := report_hall

theorem hotTold_tx : ((hotTold e t contact h).tx[t]).st = .lockout ∧ ((hotTold e t contact h).tx[t]).undef = (h.tx[t]).undef ∧
    ((hotTold e t contact h).tx[t]).window = (h.tx[t]).window := by
  obtain ⟨f, em, eq⟩ := hotTold_hall (e := e) (t := t) (contact := contact) (h := h)
  have state := setTxState_tx (t := t) (h := h) (new := .lockout) (c := .trip)
  have body := (hotCut_quiet (t := t) (h := h)).body t
  rw [eq]
  exact ⟨(body_st body).trans state.st, (body_undef body).trans state.undef,
    (body_window body).trans state.window⟩

theorem hotTold_path : (hotTold e t contact h).path.slots = h.path.slots ∧ (hotTold e t contact h).path.xpt = h.path.xpt ∧
    (hotTold e t contact h).path.pos = h.path.pos := by
  obtain ⟨f, em, eq⟩ := hotTold_hall (e := e) (t := t) (contact := contact) (h := h)
  obtain ⟨-, -, path, -⟩ := setTxState_same (t := t) (h := h) (new := .lockout) (c := .trip)
  have quiet := hotCut_quiet (t := t) (h := h)
  rw [eq, ← path]
  exact ⟨quiet.slots, quiet.xpt, quiet.pos⟩

theorem hotTold_blocked (ok : h.faults.ok) (room : h.faults.recs.length < 48) :
    (hotTold e t contact h).faults.ok ∧ blocked (hotTold e t contact h) (.tx t) = true := by
  obtain ⟨-, faults, -⟩ := setTxState_same (t := t) (h := h) (new := .lockout) (c := .trip)
  have cut : (hotCut t h).faults = h.faults := hotCut_quiet.faults.trans faults
  rw [← cut] at ok room
  exact ⟨report_ok ok, report_blocks (r := ⟨.hotSwitch, .tx t, none, none, _⟩) ok room rfl⟩

theorem hotLowered_quiet : Quiet (· = t) (hotTold e t contact h) (hotLowered e t contact h) := (Quiet.refl (· = t) _).handLower rfl

theorem hotMoved_heats : Heats (fun _ => True) t (hotLowered e t contact h) (hotMoved e t contact h) :=
  (hotThrows_heats.mono fun _ _ => trivial).trans (hotSlews_heats.mono fun _ _ => trivial)

theorem hotMoved_tx : ((hotMoved e t contact h).tx[t]).st = .lockout ∧ ((hotMoved e t contact h).tx[t]).window = (h.tx[t]).window := by
  obtain ⟨st, -, window⟩ := hotTold_tx (e := e) (t := t) (contact := contact) (h := h)
  have body := (hotLowered_quiet (e := e) (t := t) (contact := contact) (h := h)).body t
  rw [hotMoved_heats.tx]
  exact ⟨(body_st body).trans st, (body_window body).trans window⟩

theorem hotMoved_inHand (known : txDefined e.k h t = true) : ((hotMoved e t contact h).tx[t]).lowerInHand = true := by
  obtain ⟨st, undef, -⟩ := hotTold_tx (e := e) (t := t) (contact := contact) (h := h)
  rw [hotMoved_heats.tx]
  refine handLower_inHand ?_ (.inr st)
  rw [txDefined_congr undef]
  exact known

theorem hotMoved_ends : ((hotMoved e t contact h).asg[t]).map Asg.core = (h.asg[t]).map Asg.core := by
  have low : Ends (fun _ => False) h (hotLowered e t contact h) :=
    handLower_ends (report_ends (overtakePend_ends (overtakeOut_ends setTxState_ends)))
  exact hotMoved_heats.asg.trans (low.asg t id)

/-- R173, R127: a throw of row T. -/
theorem hotMoved_throw (hx : h.path.slots[i] = some x) (cold : x.hot = false)
    (kind : x.motion.kind = .make t o ∨ x.motion.kind = .brk t o) :
    (hotMoved e t contact h).path.slots[i] = some x.heated ∧ xst (hotMoved e t contact h) t o = .unknown := by
  rw [← hotTold_path.1, ← hotLowered_quiet.slots] at hx
  obtain ⟨slot, xpt⟩ := hotThrows_done hx cold kind
  exact ⟨hotSlews_heats.heated slot, hotSlews_heats.xpt t o xpt⟩

/-- R173, R127: a slew fed through row T. -/
theorem hotMoved_slew {n : Nat} (hx : h.path.slots[i] = some x) (cold : x.hot = false) (kind : x.motion.kind = .slew o n)
    (fed : feeder h o = some t) (hq : h.path.pos[o] = some q) :
    (hotMoved e t contact h).path.slots[i] = some x.heated ∧
      ∃ r, (hotMoved e t contact h).path.pos[o] = some r ∧ r.st = .stalled := by
  rw [← hotTold_path.1, ← hotLowered_quiet.slots] at hx
  rw [← hotTold_path.2.2, ← hotLowered_quiet.pos] at hq
  have throws := hotThrows_heats (e := e) (t := t) (h := hotLowered e t contact h)
  obtain ⟨y, hy, -⟩ := throws.pos o q hq
  have slot := (throws.slots i x hx).resolve_right fun w => by
    rw [kind] at w
    cases w.1
  exact hotSlews_done slot cold kind (mem_fedOuts fed) hy

theorem hotSwitch_tx : (hotSwitch e t contact h).tx[t] =
    ((engineLockout e t (hotMoved e t contact h)).tx[t]).hotEnded (rowMotion h t) := by
  rw [hotSwitch_eq, setTx_same]

theorem hotSwitch_st : ((hotSwitch e t contact h).tx[t]).st = .lockout ∧
    ((hotSwitch e t contact h).tx[t]).rcv = Recovery.idle ∧
    ((hotSwitch e t contact h).tx[t]).window = (h.tx[t]).window := by
  obtain ⟨st, window⟩ := hotMoved_tx (e := e) (t := t) (contact := contact) (h := h)
  have body := (engineLockout_quiet (e := e) (t := t) (h := hotMoved e t contact h)).body t
  rw [hotSwitch_tx, hotEnded_st, hotEnded_rcv, hotEnded_window, body_st body, body_window body]
  exact ⟨st, rfl, window⟩

theorem hotSwitch_inHand (known : txDefined e.k h t = true) : ((hotSwitch e t contact h).tx[t]).lowerInHand = true := by
  have moved := hotMoved_inHand (contact := contact) known
  have kept : ((engineLockout e t (hotMoved e t contact h)).tx[t]).lowerInHand = true := by
    rcases endAsg_ended (e := e) (oc := .lockedOut) (lockout_quiet (hotMoved_tx (contact := contact)).1) with same | ended
    · exact (congrArg TxRec.lowerInHand same).trans moved
    · exact (congrArg TxRec.lowerInHand ended).trans (ended_lowerInHand moved)
  rw [hotSwitch_tx, hotEnded_lowerInHand, kept]

theorem hotSwitch_blocked (ok : h.faults.ok) (room : h.faults.recs.length < 48) :
    blocked (hotSwitch e t contact h) (.tx t) = true := by
  obtain ⟨told, blocks⟩ := hotTold_blocked (e := e) (t := t) (contact := contact) ok room
  have low := (hotLowered_quiet (e := e) (t := t) (contact := contact) (h := h)).faults
  rw [← low] at told
  rw [← blocked_congr low] at blocks
  rw [hotSwitch_eq, blocked_congr (Hall.setTx_faults _ _ _), blocked_congr engineLockout_quiet.faults]
  exact hotMoved_heats.blocked told _ blocks

/-- R173 step 4, R112, R127. -/
theorem hotSwitch_motions (hx : h.path.slots[i] = some x) (cold : x.hot = false) :
    (∀ o, x.motion.kind = .make t o ∨ x.motion.kind = .brk t o →
      xst (hotSwitch e t contact h) t o = .unknown ∧ (hotSwitch e t contact h).path.slots[i] = some x.heated) ∧
    ∀ o n p, x.motion.kind = .slew o n → feeder h o = some t → h.path.pos[o] = some p →
      (hotSwitch e t contact h).path.slots[i] = some x.heated ∧
        ∃ q, (hotSwitch e t contact h).path.pos[o] = some q ∧ q.st = .stalled := by
  have path : (hotSwitch e t contact h).path = (engineLockout e t (hotMoved e t contact h)).path := by
    rw [hotSwitch_eq, Hall.setTx_path]
  have quiet := engineLockout_quiet (e := e) (t := t) (h := hotMoved e t contact h)
  unfold xst
  rw [path, quiet.slots, quiet.xpt, quiet.pos]
  exact ⟨fun o kind => (hotMoved_throw hx cold kind).symm, fun o n p kind fed hp => hotMoved_slew hx cold kind fed hp⟩

/-- R173 step 5. -/
theorem hotSwitch_asg (ha : h.asg[t] = some a) (run : a.phase.isEnding = false) : (hotSwitch e t contact h).asg[t] = none ∨
    ∃ b, (hotSwitch e t contact h).asg[t] = some b ∧ b.phase = .ending .lockedOut .nothing := by
  rw [hotSwitch_eq, Hall.setTx_asg]
  exact engineLockout_asg hotMoved_ends ha run

end
end Sys2Proof.Machine

namespace Sys2Proof.Machine

set_option Elab.async false

/-- The change queue and the sense lines are as they were, and T is not RAISING where it was not. -/
structure Stays (t : Tx) (g h : Hall) : Prop where
  changes : h.changes = g.changes
  sense : h.sense = g.sense
  raising : (h.tx[t]).st = .raising → (g.tx[t]).st = .raising

/-- R141: nothing holds a RAISE that is to be sent. -/
def RaiseFree (e : Env) (t : Tx) (h : Hall) : Prop :=
  ∀ o, (h.tx[t]).out = some o → o.kind.isRaise = true → raiseHeld e h t = false

section
variable {g h k : Hall} {e : Env} {t : Tx} {o : Order} {m : CabMsg} {last kw no : Nat} {at_ : Ms}

theorem Stays.refl (t : Tx) (h : Hall) : Stays t h h := ⟨rfl, rfl, id⟩

theorem Stays.trans (x : Stays t g h) (y : Stays t h k) : Stays t g k :=
  ⟨y.changes.trans x.changes, y.sense.trans x.sense, fun w => x.raising (y.raising w)⟩

theorem Hands.stays (x : Hands g h) : Stays t g h := ⟨x.changes, x.sense, (x.tx t).raising⟩

theorem setTx_stays {f : TxRec → TxRec} (st : (f h.tx[t]).st = (h.tx[t]).st) : Stays t h (h.setTx t f) :=
  ⟨rfl, rfl, fun w => by rwa [setTx_same, st] at w⟩

/-! ### What holds a RAISE -/

theorem doorActive_congr (w : k.sense = h.sense) : doorActive e k t = doorActive e h t := by
  unfold doorActive Hall.line
  rw [w]

theorem estopActive_congr (w : k.sense = h.sense) : estopActive e k = estopActive e h := by
  unfold estopActive Hall.line
  rw [w]

theorem frozen_congr (w : k.changes = h.changes) : frozen k t = frozen h t := by
  unfold frozen
  rw [w]

theorem raiseHeld_congr (changes : k.changes = h.changes) (sense : k.sense = h.sense)
    (permit : (k.tx[t]).permit = (h.tx[t]).permit) (st : (k.tx[t]).st = (h.tx[t]).st) : raiseHeld e k t = raiseHeld e h t := by
  unfold raiseHeld raiseFrozen
  rw [doorActive_congr sense, estopActive_congr sense, frozen_congr changes, permit, st]

theorem raiseHeld_setTx {f : TxRec → TxRec} (permit : (f h.tx[t]).permit = (h.tx[t]).permit)
    (st : (f h.tx[t]).st = (h.tx[t]).st) : raiseHeld e (h.setTx t f) t = raiseHeld e h t :=
  raiseHeld_congr rfl rfl (by rw [setTx_same, permit]) (by rw [setTx_same, st])

theorem raiseHeld_eq_false : raiseHeld e h t = false ↔ (h.tx[t]).permit ≠ .granted ∧ doorActive e h t = false ∧
    estopActive e h = false ∧ (frozen h t = true → (h.tx[t]).st = .raising) := by
  unfold raiseHeld raiseFrozen
  simp only [Bool.or_eq_false_iff, Bool.and_eq_false_iff, decide_eq_false_iff_not, not_not, and_assoc, ne_eq,
    ← Bool.not_eq_true (frozen h t), imp_iff_not_or]

theorem raiseFree_none (w : (h.tx[t]).out = none) : RaiseFree e t h := fun o ho => by
  rw [w] at ho
  cases ho

theorem raiseFree_out (w : (h.tx[t]).out = some o) (free : o.kind.isRaise = true → raiseHeld e h t = false) :
    RaiseFree e t h := fun _ hx raise => free (Option.some.inj (w.symm.trans hx) ▸ raise)

/-- Where no order is outstanding, LOWER alone can be put to be sent. -/
theorem Hands.raiseFree (x : Hands g h) (none : (g.tx[t]).out = none) : RaiseFree e t h := fun o ho raise => by
  rcases (x.tx t).out o ho with low | ⟨y, hy, -⟩
  · rw [low] at raise
    cases raise
  · rw [none] at hy
    cases hy

theorem lower_not_raise {q : Prop} (kind : o.kind = .lower) (raise : o.kind.isRaise = true) : q := by
  rw [kind] at raise
  cases raise

/-! ### The orders tested again at a slot -/

theorem declineUnsent_hands : Hands h (declineUnsent e t o h) := by
  have told : Hands h (declined e t o .state (some (h.tx[t]).st) h) := by
    unfold declined reportTx
    refine .ite ?_ (Hands.refl h).report
    split
    · exact (Hands.refl h).report.endAsg
    · exact (Hands.refl h).report.endAsg
    · exact (Hands.refl h).report.endAsg
    · exact (Hands.refl h).report
  unfold declineUnsent clearDeclined clearFailed
  exact .ite (.ite (told.trans trip_hands) told) told

theorem overtaken_stays : Stays t h (overtaken t o h) := (Hands.refl h).overtaken.stays

theorem makePending_stays : Stays t h (makePending t o h) :=
  (Hands.refl h).overtakePend.stays.trans (setTx_stays rfl)

theorem makePending_out : ((makePending t o h).tx[t]).out = (h.tx[t]).out := by
  rw [makePending_eq, setTx_same, handedBack_tx]

theorem backToPend_cases : backToPend t o h = overtaken t o (h.setTx t fun r => { r with out := none }) ∨
    backToPend t o h = makePending t o (h.setTx t fun r => { r with out := none }) := ite_eq_or_eq _ _ _

theorem backToPend_stays : Stays t h (backToPend t o h) := by
  have dropped : Stays t h (h.setTx t fun r => { r with out := none }) := setTx_stays rfl
  rcases backToPend_cases (t := t) (o := o) (h := h) with eq | eq <;> rw [eq]
  · exact dropped.trans overtaken_stays
  · exact dropped.trans makePending_stays

theorem backToPend_out : ((backToPend t o h).tx[t]).out = none := by
  rcases backToPend_cases (t := t) (o := o) (h := h) with eq | eq <;> rw [eq]
  · rw [overtaken_tx, setTx_same]
  · rw [makePending_out, setTx_same]

/-- R140, R141: the order to be sent, tested again. -/
theorem retest_free (out : (h.tx[t]).out = some o) : Stays t h (retest e t o h) ∧ RaiseFree e t (retest e t o h) := by
  have dropped : Stays t h (h.setTx t fun r => { r with out := none }) := setTx_stays rfl
  have empty : ((h.setTx t fun r => { r with out := none }).tx[t]).out = none := by rw [setTx_same]
  have left : Stays t h (overtaken t o (h.setTx t fun r => { r with out := none })) ∧
      RaiseFree e t (overtaken t o (h.setTx t fun r => { r with out := none })) :=
    ⟨dropped.trans overtaken_stays, raiseFree_none (by rw [overtaken_tx, empty])⟩
  have waits : Stays t h (backToPend t o h) ∧ RaiseFree e t (backToPend t o h) :=
    ⟨backToPend_stays, raiseFree_none backToPend_out⟩
  have stands (free : o.kind.isRaise = true → raiseHeld e h t = false) : Stays t h h ∧ RaiseFree e t h :=
    ⟨.refl t h, raiseFree_out out free⟩
  unfold retest
  dsimp only
  split
  · exact left
  · exact left
  · split
    · next kind => exact stands (lower_not_raise kind)
    · exact waits
  · split
    · next kind =>
      split
      · exact stands (lower_not_raise kind)
      · exact ⟨dropped, raiseFree_none empty⟩
    · split
      · exact ⟨dropped.trans declineUnsent_hands.stays, declineUnsent_hands.raiseFree empty⟩
      · split
        · exact waits
        · next free =>
          refine stands fun raise => Bool.eq_false_iff.2 fun held => free ?_
          rw [raise, held]
          rfl

/-- R141, R149: the pending order, tested again. -/
theorem pendStep_free (w : pendStep e t h = some g) : Stays t h g ∧ RaiseFree e t g := by
  have dropped : Stays t h (h.setTx t fun r => { r with pend := none }) := setTx_stays rfl
  unfold pendStep at w
  dsimp only at w
  split at w
  · next o out pend =>
    have empty : ((h.setTx t fun r => { r with pend := none }).tx[t]).out = none := by rw [setTx_same, out]
    have left : Stays t h (overtaken t o (h.setTx t fun r => { r with pend := none })) ∧
        RaiseFree e t (overtaken t o (h.setTx t fun r => { r with pend := none })) :=
      ⟨dropped.trans overtaken_stays, raiseFree_none (by rw [overtaken_tx, empty])⟩
    have sent (free : o.kind.isRaise = true → raiseHeld e h t = false) :
        Stays t h (h.setTx t fun r => { r with out := some o, pend := none }) ∧
        RaiseFree e t (h.setTx t fun r => { r with out := some o, pend := none }) := by
      refine ⟨setTx_stays rfl, raiseFree_out (o := o) (by rw [setTx_same]) fun raise => ?_⟩
      rw [raiseHeld_setTx rfl rfl]
      exact free raise
    split at w
    · exact Option.some.inj w ▸ left
    · exact Option.some.inj w ▸ left
    · split at w
      · next kind => exact Option.some.inj w ▸ sent (lower_not_raise kind)
      · cases w
    · split at w
      · next kind =>
        split at w
        · exact Option.some.inj w ▸ sent (lower_not_raise kind)
        · exact Option.some.inj w ▸ ⟨dropped, raiseFree_none empty⟩
      · split at w
        · exact Option.some.inj w ▸ ⟨dropped.trans declineUnsent_hands.stays, declineUnsent_hands.raiseFree empty⟩
        · split at w
          · cases w
          · next free =>
            refine Option.some.inj w ▸ sent fun raise => Bool.eq_false_iff.2 fun held => free ?_
            rw [raise, held]
            rfl
  · cases w

/-- R140, R141: the order to be sent, where it is not sent yet. -/
def retestOut (e : Env) (t : Tx) (h : Hall) : Hall :=
  match (h.tx[t]).out with
  | some o => if o.sentAt.isNone then retest e t o h else h
  | none => h

theorem retestAll_eq : retestAll e t h = (pendStep e t (retestOut e t h)).getD (retestOut e t h) := rfl

theorem retestOut_free (unsent : ∀ o, (h.tx[t]).out = some o → o.sentAt = none) :
    Stays t h (retestOut e t h) ∧ RaiseFree e t (retestOut e t h) := by
  unfold retestOut
  split
  · next o out =>
    rw [unsent o out]
    exact retest_free out
  · next none => exact ⟨.refl t h, raiseFree_none none⟩

theorem retestAll_free (unsent : ∀ o, (h.tx[t]).out = some o → o.sentAt = none) :
    Stays t h (retestAll e t h) ∧ RaiseFree e t (retestAll e t h) := by
  obtain ⟨stays, free⟩ := retestOut_free (e := e) unsent
  rw [retestAll_eq]
  cases w : pendStep e t (retestOut e t h) with
  | none => exact ⟨stays, free⟩
  | some g =>
    obtain ⟨next, done⟩ := pendStep_free w
    exact ⟨stays.trans next, done⟩

/-! ### The exchange of a slot -/

theorem startExchange_tx : (startExchange e t m h).tx[t] = { h.tx[t] with exch := some ⟨m, e.now⟩ } := setTx_same

theorem startExchange_msg {x : Exchange} (w : ((startExchange e t m h).tx[t]).exch = some x) : x.msg = m := by
  rw [startExchange_tx] at w
  rw [← Option.some.inj w]

theorem raiseSent_tx : (raiseSent t o h).tx = h.tx := by
  unfold raiseSent
  split <;> rfl

theorem raiseSent_sense : (raiseSent t o h).sense = h.sense := by
  unfold raiseSent
  split <;> rfl

theorem lastRaise_permit {k : OrderKind} {r : TxRec} : (lastRaise k r).permit = r.permit := by
  cases k <;> rfl

theorem sendFirst_kept : ((sendFirst e t o last h).tx[t]).permit = (h.tx[t]).permit ∧
    (sendFirst e t o last h).sense = h.sense := by
  unfold sendFirst
  dsimp only
  rw [startExchange_tx, raiseSent_tx]
  refine ⟨setTxState_tx.permit.trans ?_, raiseSent_sense.trans setTxState_same.2.2.2.1⟩
  rw [setTx_same]
  exact lastRaise_permit

theorem sendFirst_msg {x : Exchange} (w : ((sendFirst e t o last h).tx[t]).exch = some x) :
    x.msg = .order o.kind (nextNo last) := by
  unfold sendFirst at w
  exact startExchange_msg w

theorem slotBare_msg {x : Exchange} (w : ((slotBare e t last h).tx[t]).exch = some x) :
    x.msg = .poll ∨ x.msg = .order .lower (nextNo last) := by
  unfold slotBare sendLowerAgain at w
  split at w
  · exact .inr (startExchange_msg w)
  · exact .inl (startExchange_msg w)

theorem slotBare_noRaise : ((slotBare e t last h).tx[t]).exch ≠ some ⟨.order (.raise kw) no, at_⟩ := fun w => by
  rcases slotBare_msg w with poll | lower
  · cases poll
  · cases lower

/-- R134: a slot that carries a RAISE carries the order to be sent, and leaves what the permit and the sense lines say. -/
theorem slotMessage_raise (w : ((slotMessage e t last h).tx[t]).exch = some ⟨.order (.raise kw) no, at_⟩) :
    (∃ o, (h.tx[t]).out = some o ∧ o.kind.isRaise = true) ∧
      ((slotMessage e t last h).tx[t]).permit = (h.tx[t]).permit ∧ (slotMessage e t last h).sense = h.sense := by
  unfold slotMessage at w ⊢
  split at w
  · next o out =>
    have carries {x n} (same : (⟨.order (.raise kw) no, at_⟩ : Exchange).msg = .order x n) (kind : x = o.kind) :
        ∃ o, (h.tx[t]).out = some o ∧ o.kind.isRaise = true := by
      refine ⟨o, out, ?_⟩
      rw [← kind, ← (CabMsg.order.inj same).1]
      rfl
    split at w
    · cases startExchange_msg w
    · next reached =>
      rw [if_neg reached]
      split at w
      · next fresh =>
        rw [if_pos fresh]
        exact ⟨carries (sendFirst_msg w) rfl, sendFirst_kept⟩
      · next old =>
        rw [if_neg old]
        split at w
        · exact absurd w slotBare_noRaise
        · next waits =>
          rw [if_neg waits]
          exact ⟨carries (startExchange_msg w) rfl, by rw [startExchange_tx], rfl⟩
  · exact absurd w slotBare_noRaise

theorem cabinetSlot_starts {x : Exchange} (idle : (h.tx[t]).exch = none) (w : ((cabinetSlot t e h).tx[t]).exch = some x) :
    x.msg = .poll ∨ ∃ last, cabinetSlot t e h = slotMessage e t last (retestAll e t h) := by
  unfold cabinetSlot at w ⊢
  split at w
  · rw [idle] at w
    cases w
  · next starts =>
    rw [if_neg starts]
    split at w
    · exact .inl (startExchange_msg w)
    · exact .inr ⟨_, rfl⟩

/-- R141: no slot carries a RAISE that is held. -/
theorem cabinetSlot_raise (idle : (h.tx[t]).exch = none) (unsent : ∀ o, (h.tx[t]).out = some o → o.sentAt = none)
    (w : ((cabinetSlot t e h).tx[t]).exch = some ⟨.order (.raise kw) no, at_⟩) :
    ((cabinetSlot t e h).tx[t]).permit ≠ .granted ∧ doorActive e (cabinetSlot t e h) t = false ∧
      estopActive e (cabinetSlot t e h) = false ∧ (frozen h t = true → (h.tx[t]).st = .raising) := by
  rcases cabinetSlot_starts idle w with poll | ⟨last, eq⟩
  · cases poll
  · obtain ⟨stays, free⟩ := retestAll_free (e := e) unsent
    rw [eq] at w ⊢
    obtain ⟨⟨o, out, raise⟩, permit, sense⟩ := slotMessage_raise w
    obtain ⟨granted, door, estop, raising⟩ := raiseHeld_eq_false.1 (free o out raise)
    rw [permit, doorActive_congr sense, estopActive_congr sense]
    rw [frozen_congr stays.changes] at raising
    exact ⟨granted, door, estop, fun w => stays.raising (raising w)⟩

end
end Sys2Proof.Machine

namespace Sys2Proof.Machine

set_option Elab.async false
section
variable {h : Hall} {e : Env} {t : Tx} {o : Order} {a : Asg} {k : OrderKind} {c : TripCause} {byTrip : Bool}

/-! ### The pending order of a transmitter that is reached -/

section
variable (out : (h.tx[t]).out = none) (pend : (h.tx[t]).pend = some o) (kind : o.kind ≠ .lower)
  (absent : (h.tx[t]).st ≠ .absent) (left : (h.tx[t]).st ≠ .isLocal) (lost : (h.tx[t]).st ≠ .unreachable)
include out pend kind absent left lost

theorem pendStep_unlisted (w : ¬ (orderListed o.kind (h.tx[t]).st = true ∨ (o.again = true ∧ (h.tx[t]).st = .raising))) :
    pendStep e t h = some (declineUnsent e t o (h.setTx t fun r => { r with pend := none })) := by
  rw [pendStep_reached out pend absent left lost, if_neg kind, if_pos]
  rw [Bool.eq_false_iff.2 (mt listed_iff.1 w)]
  rfl

theorem pendStep_listed (w : orderListed o.kind (h.tx[t]).st = true ∨ (o.again = true ∧ (h.tx[t]).st = .raising)) :
    pendStep e t h = if o.kind.isRaise && raiseHeld e h t then none
      else some (h.setTx t fun r => { r with out := some o, pend := none }) := by
  rw [pendStep_reached out pend absent left lost, if_neg kind, listed_iff.2 w]
  exact if_neg nofun

end

/-! ### An order declined as it is handed -/

theorem handOrder_ends (w : (h.tx[t]).st = .lockout ∨
    (¬ ((h.tx[t]).st = .absent ∨ (h.tx[t]).st = .isLocal ∨ (h.tx[t]).st = .unreachable) ∧
      orderListed k (h.tx[t]).st = false)) (kind : k = .warm ∨ k.isTune = true ∨ k.isRaise = true) :
    handOrder e t k h =
      endAsg e t .failed .nothing (reportTx e .orderDeclined t (some (.declined k .state (some (h.tx[t]).st))) h) := by
  rw [handOrder_declined w, declineUnsent_plain, declined_ends rfl rfl kind]
  · rfl
  · rintro rfl
    rcases kind with q | q | q <;> cases q

theorem handOrder_cool (w : (h.tx[t]).st = .lockout ∨
    (¬ ((h.tx[t]).st = .absent ∨ (h.tx[t]).st = .isLocal ∨ (h.tx[t]).st = .unreachable) ∧
      orderListed k (h.tx[t]).st = false)) (kind : k = .cool) :
    handOrder e t k h = reportTx e .orderDeclined t (some (.declined k .state (some (h.tx[t]).st))) h := by
  subst kind
  rw [handOrder_declined w, declineUnsent_plain (by decide)]
  exact declined_cool rfl

/-- R141: what keeps an order handed waiting. -/
theorem raiseWaits_iff : ((h.tx[t]).out.isSome || (k.isRaise && raiseHeld e h t)) = true ↔
    (h.tx[t]).out ≠ none ∨ (k.isRaise = true ∧ raiseHeld e h t = true) := by
  rw [Bool.or_eq_true, Bool.and_eq_true, Option.isSome_iff_ne_none]

/-! ### The moves of a permit -/

theorem takeBackPermit_eq : takeBackPermit e t h =
    if rowMotion h t = true then hotSwitch e t false h
    else if unjudged h t = true then h.setTx t fun r => { r with permit := .requested, permitHot := false }
    else report e ⟨.rfUnexpected, .tx t, none, none, some .permit⟩
      (h.setTx t fun r => { r with permit := .requested, permitHot := false }) := rfl

section
variable (granted : (h.tx[t]).permit = .granted) (still : rowMotion h t = false)
include granted still

theorem permitStep_still : permitStep e t h =
    if (holders h t).isEmpty then some (h.setTx t fun r => { r with permit := .none, permitHot := false })
    else if (h.tx[t]).permitHot then some (h.setTx t fun r => { r with permit := .requested, permitHot := false })
    else if doorActive e h t then some (h.setTx t fun r => { r with permit := .requested, permitHot := false })
    else none := by
  rw [permitStep_granted granted, still]
  exact if_neg nofun

theorem permitStep_wanted (w : PermitWanted h t) : permitStep e t h =
    if (h.tx[t]).permitHot then some (h.setTx t fun r => { r with permit := .requested, permitHot := false })
    else if doorActive e h t then some (h.setTx t fun r => { r with permit := .requested, permitHot := false })
    else none := by
  rw [permitStep_still granted still]
  exact if_neg fun none => holders_isEmpty.1 none w

end

/-! ### A lockout by trips -/

theorem lockoutTrips_tx : ((lockoutTrips e t h).tx[t]).st = .lockout ∧ ((lockoutTrips e t h).tx[t]).rcv = Recovery.idle ∧
    ((lockoutTrips e t h).tx[t]).window = (h.tx[t]).window := by
  obtain ⟨st, rcv, -, window⟩ := lockoutReady_tx (e := e) (t := t) (h := h)
  have body := (engineLockout_quiet (e := e) (t := t) (h := lockoutReady e t h)).body t
  rw [lockoutTrips_eq]
  exact ⟨(body_st body).trans st, (body_rcv body).trans rcv, (body_window body).trans window⟩

theorem lockoutTrips_blocked {s : FaultSource} : blocked (lockoutTrips e t h) s = blocked (lockoutReady e t h) s := by
  rw [lockoutTrips_eq]
  exact blocked_congr engineLockout_quiet.faults

theorem lockoutTrips_asg (ha : h.asg[t] = some a) (run : a.phase.isEnding = false) : (lockoutTrips e t h).asg[t] = none ∨
    ∃ b, (lockoutTrips e t h).asg[t] = some b ∧ b.phase = .ending .lockedOut .nothing := by
  rw [lockoutTrips_eq]
  exact engineLockout_asg ((lockoutReady_ends (d := fun _ => False)).asg t id) ha run

/-! ### A trip -/

theorem trip_rcv : ((trip e t c h).tx[t]).rcv = ⟨.stopping, some c, c.isRefl, none, false, false, false⟩ := by
  rw [trip_tx]

theorem trip_window : ((trip e t c h).tx[t]).window = tripWindow e c (h.tx[t]).window := by
  rw [trip_tx]

theorem trip_noRaise : ((trip e t c h).tx[t]).inHand OrderKind.isRaise = false := by
  rw [trip_tx]
  exact tripLowered_noRaise (e := e) (t := t) (c := c) (h := h)

theorem trip_inHand (lowers : c.lowers = true) (known : txDefined e.k h t = true) :
    ((trip e t c h).tx[t]).lowerInHand = true := by
  rw [trip_tx]
  exact tripLowered_inHand lowers known

theorem lowers_iff : c.lowers = true ↔ c = .senseRefl ∨ c = .senseArc ∨ c = .raiseTimeout ∨ c = .door := by
  cases c <;> simp [TripCause.lowers]

end
end Sys2Proof.Machine

namespace Sys2Proof.Proofs

set_option Elab.async false
section
open Machine

/-- Settles O46, clause by clause: the tests of an order, of a LOWER and of a permit by the cases of their definitions, a trip and the
two lockouts by the steps of their rules, and the RAISE of a slot by what the tests at the slot leave to be sent. -/
theorem noRaiseWhileHeld : Obligations.NoRaiseWhileHeld := by
  refine ⟨fun e t h o out pend kind absent left lost => ?_, fun e t h o out pend => ?_, fun t o h => ?_, fun e t h k => ?_,
    fun e t byTrip h => ?_, fun e t h => ?_, fun e t h c => ?_, fun e t h room nodup => ?_, fun e t h contact room nodup => ?_,
    fun t e h kw no at_ => cabinetSlot_raise⟩
  · refine ⟨pendStep_unlisted out pend kind absent left lost, fun listed held => ?_, fun listed free => ?_⟩
    · rw [pendStep_listed out pend kind absent left lost listed, if_pos (Bool.and_eq_true_iff.2 held)]
    · rw [pendStep_listed out pend kind absent left lost listed, if_neg (mt Bool.and_eq_true_iff.1 free)]
  · refine ⟨pendStep_left out pend, fun lost kind => ?_, pendStep_lower out pend⟩
    rw [pendStep_lost out pend lost, if_neg kind]
  · refine ⟨overtaken_idle, fun a eng back ha => ?_, makePending_free, fun w => makePending_busy⟩
    rw [overtaken_handed eng back ha]
    rfl
  · refine ⟨handOrder_left, handOrder_lost, fun w => ⟨handOrder_ends w, handOrder_cool w⟩, fun free cut listed => ?_⟩
    simp only [not_or] at cut
    obtain ⟨absent, left, lost⟩ := cut
    rw [handOrder_taken absent left lost free listed]
    exact ⟨fun w => if_pos (raiseWaits_iff.2 w), fun w => if_neg (mt raiseWaits_iff.1 w)⟩
  · refine ⟨handLower_idle, fun goes hand => ?_, fun o goes hand out raise tune => ?_, fun goes hand out => ?_⟩
    · rw [handLower_goes goes]
      exact queueLower_held hand
    · rw [handLower_goes goes, queueLower_behind hand out raise tune]
    · rw [handLower_goes goes]
      exact queueLower_out hand out
  · refine ⟨fun none => ?_, fun requested => ?_, fun granted rad => ?_, takeBackStep_none, fun granted moving => ?_,
      fun granted still => ?_⟩
    · rw [permitStep_none none]
      exact ⟨fun w => if_neg fun empty => holders_isEmpty.1 empty w, fun w => if_pos (holders_isEmpty.2 w)⟩
    · rw [permitStep_requested requested]
      refine ⟨fun w => if_pos (holders_isEmpty.2 w), fun w test => ?_, fun w test => ?_⟩
      · rw [if_neg fun empty => holders_isEmpty.1 empty w, if_pos (permitTest_iff.2 test)]
      · rw [if_neg fun empty => holders_isEmpty.1 empty w, if_neg (mt permitTest_iff.1 test)]
    · have taken := takeBackStep_some (e := e) granted rad
      refine ⟨?_, takeBackStep_first taken⟩
      rw [taken, takeBackPermit_eq]
    · rw [permitStep_granted granted, if_pos moving]
    · refine ⟨fun w => ?_, fun w hot => ?_, fun w cold door => ?_, fun w cold door => ?_⟩
      · rw [permitStep_still granted still, if_pos (holders_isEmpty.2 w)]
      · rw [permitStep_wanted granted still w, if_pos hot]
      · rw [permitStep_wanted granted still w, cold, if_neg nofun, if_pos door]
      · rw [permitStep_wanted granted still w, cold, if_neg nofun, door, if_neg nofun]
  · refine ⟨trip_st, trip_rcv, trip_noRaise, fun lowers known => trip_inHand (lowers_iff.2 lowers) known, fun door => ?_,
      fun other => ?_, fun retry clear room => ?_, fun a ha => trip_logged ha⟩
    · rw [trip_window]
      exact if_pos door
    · rw [trip_window]
      exact if_neg other
    · rw [trip_faults]
      exact tripTold_recorded retry clear room
  · have ok : h.faults.ok := ⟨(room.trans (by decide)).le, nodup⟩
    obtain ⟨st, rcv, window⟩ := lockoutTrips_tx (e := e) (t := t) (h := h)
    refine ⟨st, rcv, lockoutTrips_pend, window, ?_, fun o made refl => ?_, fun a => lockoutTrips_asg⟩
    · rw [lockoutTrips_blocked]
      exact lockoutReady_tx_blocked ok room
    · rw [lockoutTrips_blocked]
      exact lockoutReady_out_blocked ok room made refl
  · have ok : h.faults.ok := ⟨room.le, nodup⟩
    obtain ⟨st, rcv, window⟩ := hotSwitch_st (e := e) (t := t) (h := h) (contact := contact)
    exact ⟨st, rcv, window, hotSwitch_inHand, hotSwitch_blocked ok room, fun i x => hotSwitch_motions, fun a => hotSwitch_asg⟩

end
end Sys2Proof.Proofs
namespace Sys2Proof.Machine

set_option Elab.async false
section
variable {s : State}

/-! ### A step on an empty queue -/

/-- R214: the request in the waiting buffer is taken when none is in hand. -/
theorem takeWaiting_some {w : Held} (waits : s.link.waiting = some w) (idle : s.hall.clear = none) :
    takeWaiting s = some (heldCommand w, { s with link := { s.link with waiting := none } }) := by
  unfold takeWaiting
  rw [waits, idle]
  rfl

theorem takeWaiting_none (w : s.link.waiting = none ∨ s.hall.clear ≠ none) : takeWaiting s = none := by
  unfold takeWaiting
  split
  · next x waits =>
    rw [if_pos (Option.isSome_iff_ne_none.2 (w.resolve_left (by rw [waits]; exact nofun)))]
  · rfl

theorem step_waiting {w : Instr × State} (empty : s.pending = []) (q : takeWaiting s = some w) : step s = exec w.1 w.2 := by
  unfold step
  rw [empty, q]

theorem step_tick (empty : s.pending = []) (q : takeWaiting s = none) : step s = .next (tick s) := by
  unfold step
  rw [empty, q]

/-- R41: 1.1 ms on the clock in a millisecond with a slew forward, 0.9 ms with one back. -/
theorem advance_forward {d : Int} (w : 0 < d) : advance (some d) = 11 ∧ workOff d = d - 1 := ⟨if_pos w, if_pos w⟩

theorem advance_back {d : Int} (w : d < 0) : advance (some d) = 9 ∧ workOff d = d + 1 := by
  have behind : ¬ 0 < d := by omega
  exact ⟨(if_neg behind).trans (if_pos w), (if_neg behind).trans (if_pos w)⟩

theorem tick_clock {q : Option Int} (w : s.time.slew = q) :
    (tick s).time.clock = s.time.clock + advance q ∧ (tick s).time.slew = q.map workOff := by
  subst w
  exact ⟨rfl, rfl⟩

end
end Sys2Proof.Machine

namespace Sys2Proof.Proofs

set_option Elab.async false
section
open Machine

/-- Settles O2, by the two ways in which the waiting buffer lets a step on an empty queue go. -/
theorem stepOnEmptyQueue : Obligations.StepOnEmptyQueue := by
  intro s empty
  refine ⟨fun w waits free => step_waiting empty (takeWaiting_some waits free), fun idle => ?_⟩
  refine ⟨tick s, step_tick empty (takeWaiting_none idle), rfl, rfl, rfl, ?_, rfl, tick_clock, fun d slew forward => ?_,
    fun d slew back => ?_, rfl, rfl, rfl, rfl⟩
  · show s.pending ++ _ = _
    rw [empty]
    rfl
  · obtain ⟨clock, left⟩ := tick_clock slew
    obtain ⟨ticks, rest⟩ := advance_forward forward
    exact ⟨by rw [clock, ticks], by rw [left, Option.map_some, rest]⟩
  · obtain ⟨clock, left⟩ := tick_clock slew
    obtain ⟨ticks, rest⟩ := advance_back back
    exact ⟨by rw [clock, ticks], by rw [left, Option.map_some, rest]⟩

end
end Sys2Proof.Proofs
namespace Sys2Proof.Machine

set_option Elab.async false

/-- From `s` to `m` no item of the Time Base changes. -/
def SameTime (s m : State) : Prop := m.time = s.time

/-- So it is for whatever a command leads to. -/
def LeavesTime (s : State) (r : Result) : Prop := ∀ t, r = .next t → SameTime s t

section
variable {s m : State}

namespace SameTime

protected theorem refl (s : State) : SameTime s s := rfl

theorem ite {c : Prop} [Decidable c] {a b : State} (x : SameTime s a) (y : SameTime s b) : SameTime s (if c then a else b) := by
  split <;> assumption

theorem ans_ite {c : Prop} [Decidable c] {a b : Ans} (x : SameTime s a.s) (y : SameTime s b.s) :
    SameTime s (if c then a else b).s := by
  split <;> assumption

protected theorem named {α : Type} {x : Option α} {f : α → Ans} (w : ∀ a, SameTime s (f a).s) : SameTime s (named s x f).s := by
  cases x with
  | none => exact .refl s
  | some a => exact w a

protected theorem onHall {f : Env → Hall → Hall} (x : SameTime s m) : SameTime s (m.onHall f) := x

protected theorem hold {l : Held} {tag : Option Nat} (x : SameTime s m) : SameTime s (m.hold l tag) := .ite x x

protected theorem taking {i : Instr} {tag : Nat} {r : Req} {f : State → State} (w : SameTime s (f s)) :
    SameTime s (s.taking i tag r f) := .ite (SameTime.refl s).hold (.ite w (.refl s))

end SameTime

namespace LeavesTime

protected theorem done (x : SameTime s m) : LeavesTime s (.next (finish m)) := fun _ q => Host.Outcome.next.inj q ▸ x

protected theorem request {i : Instr} {tag : Nat} {r : Req} {f : State → Ans} (w : SameTime s (f s).s) :
    LeavesTime s (request i tag r f s) := .done (.taking w)

protected theorem happen {f : Env → Hall → Hall} : LeavesTime s (happen s f) := .done (SameTime.refl s)

end LeavesTime

namespace SameTime

/-! ### Banks and changes -/

section
variable {bank : Nat}

protected theorem withBank {f : BankNo → Bank → Ans} (w : ∀ n, SameTime s (f n s.hall.banks[n]).s) :
    SameTime s (withBank bank s f).s := .named fun n => w n

protected theorem bankOpen {label : Option (List Char)} : SameTime s (bankOpen bank label s).s :=
  .withBank fun _ => .ans_ite (.refl s) (.ans_ite (.refl s) (.refl s))

protected theorem entryPut {f : EntryForm} : SameTime s (entryPut bank f s).s := by
  refine .withBank fun n => .ans_ite (.refl s) (.named fun en => ?_)
  split
  · exact .refl s
  · exact .ans_ite (.refl s) (.refl s)

protected theorem entryDrop {id : Nat} : SameTime s (entryDrop bank id s).s :=
  .withBank fun _ => .ans_ite (.refl s) (.ans_ite (.refl s) (.refl s))

protected theorem bankCommit {d : DateForm} {hhmm : Nat} : SameTime s (bankCommit bank d hhmm s).s := by
  refine .withBank fun n => .named fun start => .ans_ite (.refl s) ?_
  split
  · exact .refl s
  · exact .ans_ite (.refl s) (.refl s)

protected theorem bankUncommit : SameTime s (bankUncommit bank s).s := .withBank fun _ => .ans_ite (.refl s) (.refl s)

protected theorem bankRelease : SameTime s (bankRelease bank s).s := .withBank fun _ => .ans_ite (.refl s) (.refl s)

protected theorem bankRestage {label : Option (List Char)} : SameTime s (bankRestage bank label s).s :=
  .withBank fun _ => .ans_ite (.refl s) (.ans_ite (.refl s) (.refl s))

protected theorem entryGet {id : Nat} : SameTime s (entryGet bank id s).s := by
  refine .withBank fun n => ?_
  split <;> exact .refl s

protected theorem changePost {tag id : Nat} {kind : Option ChangeKind} {f : Option EntryForm} :
    SameTime s (changePost tag bank kind id f s).s :=
  .ans_ite (.refl s) (.named fun _ => .named fun _ => .ans_ite (.refl s) (.named fun _ => .ans_ite (.refl s) (.refl s)))

end

/-! ### The Frequency Check -/

protected theorem exclusionAdd {low high : Nat} {modes : Option (List (Option Mode))} : SameTime s (exclusionAdd low high modes s).s :=
  .named fun _ => .ans_ite (.refl s) (.ans_ite (.refl s) (.refl s))

protected theorem exclusionDrop {index : Nat} : SameTime s (exclusionDrop index s).s :=
  .ans_ite (.refl s) (.ans_ite (.refl s) (.ans_ite (.refl s) (.refl s)))

protected theorem outputDefine {o : Option Out} {low high rating throw : Option Nat} {slew : Option Bool} :
    SameTime s (outputDefine o low high rating throw slew s).s := by
  refine .named fun o => ?_
  extract_lets d r change k₁ k₂
  have kept : SameTime s k₂ := .ite (.refl s) (.refl s)
  exact .ans_ite (.refl s) (.ans_ite (.refl s) (.ans_ite (.refl s) (.ans_ite (.refl s) kept.onHall)))

protected theorem outputUndefine {o : Option Out} : SameTime s (outputUndefine o s).s :=
  .named fun _ => .ans_ite (.refl s) (.ans_ite (.refl s) (.refl s))

protected theorem check {freq power : Option Nat} {mode : Option Mode} {o : Option Out} {t : Option (Option Tx)} :
    SameTime s (checkRequest freq mode o power t s).s :=
  .named fun _ => .named fun _ => .named fun _ => .named fun _ => .ans_ite (.refl s) (.refl s)

/-! ### Faults, the matrix and the positioners -/

protected theorem faultClear {tag seq : Nat} : SameTime s (faultClear tag seq s) := by
  unfold faultClear
  refine .ite (.refl s) ?_
  split <;> exact .refl s

protected theorem faultList {first : Nat} : SameTime s (faultList first s).s := by
  unfold faultList
  dsimp only
  split <;> exact .refl s

protected theorem faultGet {seq : Nat} : SameTime s (faultGet seq s).s := by
  unfold faultGet
  split <;> exact .refl s

protected theorem matrixStatus {x : Option MatrixSubject} : SameTime s (matrixStatus x s).s := by
  refine .named fun x => ?_
  cases x <;> exact .refl s

protected theorem withPos {o : Option Out} {f : Out → Pos → Ans} (w : ∀ o p, SameTime s (f o p).s) :
    SameTime s (withPos o s f).s := by
  refine .named fun o => ?_
  split
  · exact .refl s
  · exact w _ _

protected theorem positionerSet {o : Option Out} {line rate : Option Nat} : SameTime s (positionerSet o line rate s).s := by
  refine .withPos fun o p => .ans_ite (.refl s) ?_
  extract_lets l
  split
  · exact .refl s
  · exact .ans_ite (.refl s) (.refl s)

protected theorem presetSet {o : Option Out} {n : Nat} {az : Option Nat} : SameTime s (presetSet o n az s).s :=
  .withPos fun _ _ => .ans_ite (.refl s) (.ans_ite (.refl s) (.refl s))

/-! ### Transmitters and sense lines -/

protected theorem txDefine {t : Option Tx} {rating warm tune raise lower : Option Nat} :
    SameTime s (txDefine t rating warm tune raise lower s).s := .named fun _ => .ans_ite (.refl s) (.refl s)

protected theorem txUndefine {t : Option Tx} : SameTime s (txUndefine t s).s :=
  .named fun _ => .ans_ite (.refl s) (.ans_ite (.refl s) (.refl s))

/-- R38: a qualification of any line but PULSE is no pulse. -/
protected theorem qualificationExpiry {l : SenseLine} (other : l ≠ .pulse) : SameTime s (qualificationExpiry l s) := by
  unfold qualificationExpiry
  split
  · exact .refl s
  · next new _ =>
    have none : pulseEdge l (s.hall.line l).qual new = false := by rw [pulseEdge, decide_eq_false other, Bool.false_and]
    dsimp only
    rw [none]
    exact .refl s

protected theorem senseSet {l : Option SenseLine} {mode : Option (Option SenseMode)} {mask : Option Bool} {qual : Option Nat} :
    SameTime s (senseSet l mode mask qual s).s := .named fun _ => .ans_ite (.refl s) (.refl s)

/-! ### Holds, plans and directives -/

protected theorem holdSet {t : Option Tx} {v : Option HoldForm} : SameTime s (holdSet t v s).s := by
  refine .named fun t => .named fun v => ?_
  split <;> exact .refl s

protected theorem holdStatus {t : Option (Option Tx)} : SameTime s (holdStatus t s).s := by
  unfold holdStatus
  split <;> exact .refl s

protected theorem planLoad {plan : Nat} {steps : List StepForm} : SameTime s (planLoad plan steps s).s :=
  .named fun _ => .named fun _ => .ans_ite (.refl s) (.refl s)

protected theorem planDrop {plan : Nat} : SameTime s (planDrop plan s).s :=
  .named fun _ => .ans_ite (.refl s) (.ans_ite (.refl s) (.refl s))

protected theorem planGet {plan : Nat} : SameTime s (planGet plan s).s := by
  refine .ans_ite (.refl s) (.named fun n => ?_)
  split <;> exact .refl s

protected theorem directivePost {tag plan : Nat} : SameTime s (directivePost tag plan s).s :=
  .ans_ite (.ans_ite (.refl s) (.refl s)) (.named fun _ => .ans_ite (.refl s) (.ans_ite (.refl s) (.ans_ite (.refl s) (.refl s))))

protected theorem directiveWithdraw : SameTime s (directiveWithdraw s).s := by
  unfold directiveWithdraw
  split
  · exact .refl s
  · exact .ans_ite (.refl s) (.refl s)
  · exact .refl s

/-! ### Resets and the link -/

protected theorem hallReset : SameTime s (hallReset s).s := by
  have cut : SameTime s { s with link := { s.link with notices := [], receiving := none } } := .refl s
  exact cut.onHall

protected theorem sectionReset {t : Option Tx} : SameTime s (sectionReset t s).s := .named fun _ => .ans_ite (.refl s) (.refl s)

protected theorem storeErase : SameTime s (storeErase s).s := .ans_ite (.refl s) (.ans_ite (.refl s) (.refl s))

protected theorem resyncNow {tag : Nat} {d : Option (Option Dir)} : SameTime s (resyncNow tag d s) := by
  refine .ite ?_ (.refl s)
  have answered : SameTime s (resync d s).s := by
    unfold resync
    split <;> exact .refl s
  exact answered

protected theorem resyncLine {l : List Char} : SameTime s (resyncLine l s) := by
  unfold resyncLine
  split
  · exact .resyncNow
  · exact .refl s

protected theorem requestBadForm {head : LineHead} : SameTime s (requestBadForm head s) := .ite (SameTime.refl s).hold (.refl s)

protected theorem lineComplete {l : List Char} : SameTime s (lineComplete l s) :=
  .ite (.ite (.refl s) (.ite (.refl s) (.ite (.refl s) (.ite .resyncLine (SameTime.refl s).hold)))) (.refl s)

end SameTime

/-- R36: what changes the Time Base, besides the millisecond itself. -/
def SetsTime : Instr → Prop
  | .powerOn | .timeSet _ _ _ _ _ | .slewWorkedOff | .pulseAbsenceTimeout | .qualificationTimerExpiry .pulse => True
  | _ => False

/-- Every other command leaves the Time Base. -/
theorem exec_leavesTime {c : Instr} (other : ¬ SetsTime c) : LeavesTime s (exec c s) := by
  cases c with
  | powerOn => exact absurd trivial other
  | lineComplete => exact .done .lineComplete
  | requestBadForm => exact .done .requestBadForm
  | outboundLineSent => exact .done (.refl s)
  | bankOpen => exact .request .bankOpen
  | entryPut => exact .request .entryPut
  | entryDrop => exact .request .entryDrop
  | bankCommit => exact .request .bankCommit
  | bankUncommit => exact .request .bankUncommit
  | bankRelease => exact .request .bankRelease
  | bankRestage => exact .request .bankRestage
  | bankStatus => exact .request (.withBank fun _ => .refl s)
  | entryGet => exact .request .entryGet
  | entryList => exact .request (.withBank fun _ => .refl s)
  | changePost => exact .request .changePost
  | changeList => exact .request (.refl s)
  | timeSet => exact absurd trivial other
  | timeStatus => exact .request (.refl s)
  | minuteEvent => exact .done (.refl s)
  | slewWorkedOff => exact absurd trivial other
  | pulseAbsenceTimeout => exact absurd trivial other
  | engineSet => exact .request (.ans_ite (.refl s) (.refl s))
  | quiesce => exact .request (.ans_ite (SameTime.refl s).onHall (.refl s))
  | resume => exact .request (.ans_ite (SameTime.refl s).onHall (.refl s))
  | assignmentStatus => exact .request (.named fun _ => .refl s)
  | deferralList => exact .request (.refl s)
  | idleTimerExpiry => exact .happen
  | exclusionAdd => exact .request .exclusionAdd
  | exclusionDrop => exact .request .exclusionDrop
  | outputDefine => exact .request .outputDefine
  | outputUndefine => exact .request .outputUndefine
  | exclusionList => exact .request (.refl s)
  | outputGet => exact .request (.named fun _ => .refl s)
  | check => exact .request .check
  | licenceLock => exact .request (.refl s)
  | columnReport => exact .happen
  | readTimeout => exact .happen
  | throwTimeout => exact .happen
  | matrixStatus => exact .request .matrixStatus
  | motionList => exact .request (.refl s)
  | positionerSet => exact .request .positionerSet
  | presetSet => exact .request .presetSet
  | positionerStatus => exact .request (.withPos fun _ _ => .refl s)
  | positionerReport => exact .happen
  | queryTimeout => exact .happen
  | queryRepeat => exact .happen
  | readFullTravelTimeout => exact .happen
  | slewTimeout => exact .happen
  | txDefine => exact .request .txDefine
  | txUndefine => exact .request .txUndefine
  | txStatus => exact .request (.named fun _ => .refl s)
  | cabinetSlot => exact .happen
  | cabinetReply => exact .happen
  | missedReply => exact .happen
  | warmTimeout => exact .happen
  | tuneTimeout => exact .happen
  | raiseTimeout => exact .happen
  | lowerTimeout => exact .happen
  | coolTimeout => exact .happen
  | clearTripTimeout => exact .happen
  | senseRawChange => exact .happen
  | qualificationTimerExpiry l => exact .done (.qualificationExpiry fun pulse => other (by rw [pulse]; trivial))
  | senseSet => exact .request .senseSet
  | senseStatus => exact .request (.named fun _ => .refl s)
  | recoverySet => exact .request (.ans_ite (.refl s) (.refl s))
  | tripWindowEntryExpiry => exact .happen
  | recoveryDelayExpiry => exact .happen
  | holdSet => exact .request .holdSet
  | holdClear => exact .request (.named fun _ => .named fun _ => .refl s)
  | holdStatus => exact .request .holdStatus
  | planLoad => exact .request .planLoad
  | planDrop => exact .request .planDrop
  | planGet => exact .request .planGet
  | planSet => exact .request (.ans_ite (.refl s) (.refl s))
  | directiveStatus => exact .request (.refl s)
  | directivePost => exact .request .directivePost
  | directiveWithdraw => exact .request .directiveWithdraw
  | planStepTimeout => exact .happen
  | faultClear => exact .done (.taking .faultClear)
  | faultList => exact .request .faultList
  | faultGet => exact .request .faultGet
  | faultClearOverflow => exact .request (.refl s)
  | adoptionConditionLapse => exact .happen
  | hallStatus => exact .request (.refl s)
  | identify => exact .request (.refl s)
  | resync => exact .done .resyncNow
  | hallReset => exact .request .hallReset
  | sectionReset => exact .request .sectionReset
  | storeErase => exact .request .storeErase

end
end Sys2Proof.Machine

namespace Sys2Proof.Proofs

set_option Elab.async false
section
open Machine

/-- Settles O22, by the Time Base's frame of each other command. -/
theorem otherCommandsLeaveTimeBase : Obligations.OtherCommandsLeaveTimeBase := by
  intro c s t q notPowerOn notTimeSet notSlew notAbsence notPulse
  refine exec_leavesTime (fun sets => ?_) t q
  unfold SetsTime at sets
  split at sets
  · exact notPowerOn rfl
  · exact notTimeSet _ _ _ _ _ rfl
  · exact notSlew rfl
  · exact notAbsence rfl
  · exact notPulse rfl
  · exact sets

end
end Sys2Proof.Proofs
namespace Sys2Proof.Machine

set_option Elab.async false
section
variable {s : State} {v : ClockTick} {d : DateForm} {h m sec : Nat}

/-! ### The clock that moves at once -/

/-- A request on a free link that answers with fields and changes the state. -/
theorem completes_answer {c i : Instr} {s m : State} {tag : Nat} {r : Req} {f : State → Ans} {st : Status} {b : ReplyBody}
    (w : s.takes tag) (h : exec c s = request i tag r f s) (a : f s = m.ans st b) : Completes c s (m.say tag (some r) st b) :=
  completes_request w h (by rw [a, reply_ans])

/-- R42, R43: the reading, the state and the last step recorded, with the CLOCK notice. -/
def clockMoved (new : ClockTick) (st : ClockState) (s : State) : State :=
  State.note { s with time := { s.time with clock := new, slew := none, lastStep := some (s.time.clock, new), cstate := st } }
    (.clock st (new / ticksPerSec) (some (s.time.clock / ticksPerSec, new / ticksPerSec)))

/-- R39: a first set without pulse reports CLOCK-FREE. -/
def freeReported (new : ClockTick) (st : ClockState) (s : State) : State :=
  if s.time.cstate = .unset ∧ st = .free then (clockMoved new st s).onHall reportFree else clockMoved new st s

/-- R42, R43: the whole of a step or first set, in the order of log 41. -/
def movedTo (new : ClockTick) (st : ClockState) (s : State) : State :=
  let stepped := (freeReported new st s).onHall engineStep
  if new % ticksPerMin = 0 then stepped.onHall engineMinute else stepped

/-- R43: the state of the clock after a step or first set. -/
def stateSet (t : TimeBase) : ClockState :=
  if t.cstate = .unset then if t.absence.isSome then .locked else .free else t.cstate

theorem onMinute_iff {t : ClockTick} : onMinute t = true ↔ t % ticksPerMin = 0 := decide_eq_true_iff

theorem freeReported_time {new : ClockTick} {st : ClockState} : (freeReported new st s).time.clock = new := by
  unfold freeReported
  split <;> rfl

theorem stepClock_eq : stepClock v s = movedTo (timeNew s.time v) (stateSet s.time) s := by
  have reported : (if decide (s.time.cstate = .unset) && decide (stateSet s.time = .free)
      then (clockMoved (timeNew s.time v) (stateSet s.time) s).onHall reportFree
      else clockMoved (timeNew s.time v) (stateSet s.time) s) = freeReported (timeNew s.time v) (stateSet s.time) s :=
    if_congr (by rw [Bool.and_eq_true, decide_eq_true_eq, decide_eq_true_eq]) rfl rfl
  have whole : stepClock v s = (fun k : State => if onMinute (k.onHall engineStep).time.clock then (k.onHall engineStep).minute
      else k.onHall engineStep) (if decide (s.time.cstate = .unset) && decide (stateSet s.time = .free)
      then (clockMoved (timeNew s.time v) (stateSet s.time) s).onHall reportFree
      else clockMoved (timeNew s.time v) (stateSet s.time) s) := rfl
  rw [whole, reported]
  refine if_congr ?_ rfl rfl
  rw [State.onHall_time, freeReported_time, onMinute_iff]

/-! ### The difference of a TIME-SET -/

/-- R40: the whole second of the reading that the difference is measured on. -/
def wholeSecond (t : TimeBase) : Int := countedReading t - countedReading t % ticksPerSec

theorem timeDiff_kept {t : TimeBase} (keeps : keepsFraction t = true) : timeDiff t v = v - wholeSecond t := by
  have floor : countedReading t / ticksPerSec * ticksPerSec = wholeSecond t := by
    rw [wholeSecond, Int.emod_def, sub_sub_cancel, mul_comm]
  rw [timeDiff, if_pos keeps, floor]

theorem timeDiff_full {t : TimeBase} (drops : keepsFraction t = false) : timeDiff t v = v - countedReading t := by
  rw [timeDiff, if_neg (by rw [drops]; decide)]

theorem timeNew_kept {t : TimeBase} (keeps : keepsFraction t = true) : timeNew t v = v + t.clock % ticksPerSec := if_pos keeps

theorem timeNew_full {t : TimeBase} (drops : keepsFraction t = false) : timeNew t v = v := if_neg (by rw [drops]; decide)

theorem keepsFraction_locked {t : TimeBase} (w : t.cstate = .locked) : keepsFraction t = true := by rw [keepsFraction, w]

theorem keepsFraction_free {t : TimeBase} (w : t.cstate = .free) : keepsFraction t = false := by rw [keepsFraction, w]

theorem keepsFraction_unset {t : TimeBase} (w : t.cstate = .unset) : keepsFraction t = t.absence.isSome := by rw [keepsFraction, w]

theorem stateSet_set {t : TimeBase} (w : t.cstate ≠ .unset) : stateSet t = t.cstate := if_neg w

theorem stateSet_pulsed {t : TimeBase} (w : t.cstate = .unset) (pulses : t.absence.isSome = true) : stateSet t = .locked :=
  (if_pos w).trans (if_pos pulses)

theorem stateSet_unpulsed {t : TimeBase} (w : t.cstate = .unset) (none : t.absence.isSome = false) : stateSet t = .free :=
  (if_pos w).trans (if_neg (by rw [none]; decide))

/-! ### TIME-SET, its answers -/

section
variable (q : timeValue d h m sec = some v)
include q

theorem timeSet_first (w : s.time.cstate = .unset) :
    timeSet d h m sec s = (stepClock v s).ans .ok (.timeSet .set (timeDiff s.time v)) := by
  rw [timeSet, q, named_some]
  exact if_pos w

theorem timeSet_unchanged (w : s.time.cstate = .locked) (same : timeDiff s.time v = 0) :
    timeSet d h m sec s = s.ans .ok (.timeSet .unchanged 0) := by
  rw [timeSet, q, named_some]
  exact (if_neg (by rw [w]; exact nofun)).trans (if_pos ⟨same, w⟩)

theorem timeSet_slewed (set : s.time.cstate ≠ .unset) (differs : ¬ (timeDiff s.time v = 0 ∧ s.time.cstate = .locked))
    (small : (timeDiff s.time v).natAbs < 2 * ticksPerSec) : timeSet d h m sec s =
    (s.setTime fun t => { t with slew := if timeDiff s.time v = 0 then none else some (timeDiff s.time v) }).ans .ok
      (.timeSet .slewed (timeDiff s.time v)) := by
  rw [timeSet, q, named_some]
  exact (if_neg set).trans ((if_neg differs).trans (if_pos (decide_eq_true small)))

theorem timeSet_stepped (set : s.time.cstate ≠ .unset) (large : 2 * ticksPerSec ≤ (timeDiff s.time v).natAbs) :
    timeSet d h m sec s = (stepClock v s).ans .ok (.timeSet .stepped (timeDiff s.time v)) := by
  have differs : ¬ (timeDiff s.time v = 0 ∧ s.time.cstate = .locked) := fun ⟨zero, _⟩ => by
    rw [zero] at large
    exact absurd large (by decide)
  rw [timeSet, q, named_some]
  refine (if_neg set).trans ((if_neg differs).trans (if_neg ?_))
  rw [slewable, decide_eq_true_eq]
  exact Nat.not_lt.2 large

end

end
end Sys2Proof.Machine

namespace Sys2Proof.Proofs

set_option Elab.async false
section
open Machine

/-- Settles O19, by the difference in each state of the clock and the test of R40 and R41 that it meets. -/
theorem timeSet : Obligations.TimeSet := by
  intro tag h m sec d s w
  refine ⟨fun q => refused_request w rfl (by rw [Machine.timeSet, q, named_none]), fun v q => ?_⟩
  have locked (st : s.time.cstate = .locked) : timeDiff s.time v = v - wholeSecond s.time := timeDiff_kept (keepsFraction_locked st)
  have free (st : s.time.cstate = .free) : timeDiff s.time v = v - countedReading s.time := timeDiff_full (keepsFraction_free st)
  refine ⟨fun st same => ?_, fun st differs small => ?_, fun st large => ?_, fun st same => ?_, fun st differs small => ?_,
    fun st large => ?_, fun st pulses => ?_, fun st silent => ?_⟩
  · have zero : timeDiff s.time v = 0 := (locked st).trans (sub_eq_zero.2 same)
    exact answers_request w rfl (timeSet_unchanged q st zero)
  · have ne : (v : Int) - wholeSecond s.time ≠ 0 := sub_ne_zero.2 differs
    refine completes_answer w rfl ?_
    rw [timeSet_slewed q (by rw [st]; exact nofun) (by rw [locked st]; exact fun zero => ne zero.1) (by rw [locked st]; exact small),
      locked st, if_neg ne]
    rfl
  · refine ⟨movedTo (v + s.time.clock % ticksPerSec) .locked s, completes_answer w rfl ?_, rfl⟩
    rw [timeSet_stepped q (by rw [st]; exact nofun) (by rw [locked st]; exact large), stepClock_eq, locked st,
      timeNew_kept (keepsFraction_locked st), stateSet_set (by rw [st]; exact nofun), st]
    rfl
  · have zero : timeDiff s.time v = 0 := (free st).trans (sub_eq_zero.2 same)
    refine completes_answer w rfl ?_
    rw [timeSet_slewed q (by rw [st]; exact nofun) (by rw [st]; exact nofun) (by rw [zero]; decide), zero, if_pos rfl]
    rfl
  · have ne : (v : Int) - countedReading s.time ≠ 0 := sub_ne_zero.2 differs
    refine completes_answer w rfl ?_
    rw [timeSet_slewed q (by rw [st]; exact nofun) (by rw [st]; exact nofun) (by rw [free st]; exact small), free st, if_neg ne]
    rfl
  · refine ⟨movedTo v .free s, completes_answer w rfl ?_, rfl⟩
    rw [timeSet_stepped q (by rw [st]; exact nofun) (by rw [free st]; exact large), stepClock_eq, free st,
      timeNew_full (keepsFraction_free st), stateSet_set (by rw [st]; exact nofun), st]
    rfl
  · have runs : s.time.absence.isSome = true := Option.isSome_iff_ne_none.2 pulses
    have keeps : keepsFraction s.time = true := (keepsFraction_unset st).trans runs
    refine ⟨movedTo (v + s.time.clock % ticksPerSec) .locked s, completes_answer w rfl ?_, rfl⟩
    rw [timeSet_first q st, stepClock_eq, timeDiff_kept keeps, timeNew_kept keeps, stateSet_pulsed st runs]
    rfl
  · have runs : s.time.absence.isSome = false := by rw [silent]; rfl
    have drops : keepsFraction s.time = false := (keepsFraction_unset st).trans runs
    refine ⟨movedTo v .free s, completes_answer w rfl ?_, rfl⟩
    rw [timeSet_first q st, stepClock_eq, timeDiff_full drops, timeNew_full drops, stateSet_unpulsed st runs]
    rfl

end
end Sys2Proof.Proofs
namespace Sys2Proof.Machine

set_option Elab.async false
section
variable {s : State} {t : TimeBase} {x : Ms}

/-! ### A pulse -/

/-- R38: the reading after an accepted pulse. -/
def readingAfter (t : TimeBase) : ClockTick :=
  if t.slew ≠ none then t.clock
  else if t.clock % ticksPerSec < 5000 then t.clock - t.clock % ticksPerSec
  else t.clock + (ticksPerSec - t.clock % ticksPerSec)

/-- R38, R39: the Time Base after an accepted pulse, field by field. -/
def pulsed (t : TimeBase) : TimeBase :=
  { t with lastPulse := some t.now, absence := some (t.now + 3000), clock := readingAfter t,
           cstate := if t.cstate = .free then .locked else t.cstate }

theorem pulse_time : t.pulse = pulsed t := by
  have clock : t.pulse.clock = readingAfter t := if_congr (by rw [Option.isSome_iff_ne_none]) rfl rfl
  exact congrArg (fun c => { pulsed t with clock := c }) clock

theorem pulseIgnored_iff : pulseIgnored t = true ↔ ∃ p, t.lastPulse = some p ∧ t.now < p + 500 := by
  simp only [pulseIgnored, Option.any_eq_true, decide_eq_true_eq]

theorem pulse_ignored {p : Ms} (last : s.time.lastPulse = some p) (soon : s.time.now < p + 500) : pulse s = s :=
  if_pos (pulseIgnored_iff.2 ⟨p, last, soon⟩)

/-- R38, R39: the Time Base of an accepted pulse, with the CLOCK notice of a return to LOCKED. -/
def pulseTaken (s : State) : State :=
  if s.time.cstate = .free then (s.setTime pulsed).note (.clock .locked (readingAfter s.time / ticksPerSec) none)
  else s.setTime pulsed

/-- R38: what makes an accepted pulse hand a minute event. -/
def ReachesMinute (t : TimeBase) : Prop := t.clock < readingAfter t ∧ readingAfter t % ticksPerMin = 0

section
variable (late : ∀ p, s.time.lastPulse = some p → p + 500 ≤ s.time.now)
include late

theorem pulse_accepted [Decidable (ReachesMinute s.time)] : pulse s =
    if ReachesMinute s.time then (pulseTaken s).onHall engineMinute else pulseTaken s := by
  have heard : pulseIgnored s.time ≠ true := fun w => by
    obtain ⟨p, last, soon⟩ := pulseIgnored_iff.1 w
    exact absurd (late p last) (Nat.not_le.2 soon)
  have aligns : s.setTime TimeBase.pulse = s.setTime pulsed := congrArg (fun c => { s with time := c }) pulse_time
  have taken : (if s.time.cstate = .free then (s.setTime pulsed).clockNotice none else s.setTime pulsed) = pulseTaken s := by
    unfold pulseTaken
    split
    · next free =>
      have locked : (s.setTime pulsed).time.cstate = .locked := if_pos free
      rw [State.clockNotice, locked]
      rfl
    · rfl
  have clock : (pulseTaken s).time.clock = readingAfter s.time := by
    unfold pulseTaken
    split <;> rfl
  unfold pulse
  rw [if_neg heard]
  dsimp only
  rw [aligns, taken, clock]
  exact if_congr (by rw [Bool.and_eq_true, decide_eq_true_eq, onMinute_iff]; rfl) rfl rfl

theorem pulse_still (w : ¬ ReachesMinute s.time) : pulse s = pulseTaken s := by
  classical exact (pulse_accepted late).trans (if_neg w)

theorem pulse_minute (w : ReachesMinute s.time) : pulse s = (pulseTaken s).onHall engineMinute := by
  classical exact (pulse_accepted late).trans (if_pos w)

end

/-! ### PULSE qualifies high -/

/-- R158: the PULSE line once its rising edge has qualified. -/
def pulseSeen (s : State) : State :=
  { s with hall := s.hall.setSense .pulse fun v => { v with qual := some true, timer := none } }

section
variable (low : (s.hall.line .pulse).qual = some false) (timer : (s.hall.line .pulse).timer = some (true, x)) (due : x ≤ s.time.now)
  (rise : (s.tables.sense[senseIx .pulse]).mode = .edgeRise)
include low rise

/-- R158, R38: PULSE's own line has no other effect. -/
theorem qualify_pulse : qualify .pulse true s.env s.hall = (pulseSeen s).hall := by
  have mode : (s.env.cfg .pulse).mode = .edgeRise := rise
  unfold qualify
  dsimp only
  rw [low, mode]
  refine (if_pos (by rfl)).trans ?_
  unfold lineEdge
  split <;> rfl

include timer due

theorem qualificationExpiry_pulse : qualificationExpiry .pulse s = pulse (pulseSeen s) := by
  have level : dueLevel s.env s.hall .pulse = some true := by
    rw [dueLevel, timer, Option.filter_some_pos (by exact decide_eq_true due), Option.map_some]
  have edge : pulseEdge .pulse (s.hall.line .pulse).qual true = true := by rw [low]; rfl
  have seen : s.onHall (qualify .pulse true) = pulseSeen s := by rw [State.onHall, qualify_pulse low rise]; rfl
  unfold qualificationExpiry
  rw [level]
  dsimp only
  rw [edge, if_pos rfl, seen]

end

end
end Sys2Proof.Machine

namespace Sys2Proof.Proofs

set_option Elab.async false
section
open Machine

/-- Settles O21: the edge is PULSE's alone, and the pulse is ignored or accepted by R38. -/
theorem pulseAligns : Obligations.PulseAligns := by
  intro s x low timer due rise
  have ends {m : State} (w : pulse (pulseSeen s) = m) : Completes (.qualificationTimerExpiry .pulse) s m :=
    congrArg (fun m => Host.Outcome.next (finish m)) ((qualificationExpiry_pulse low timer due rise).trans w)
  exact ⟨fun p last soon => ends (pulse_ignored (s := pulseSeen s) last soon),
    fun late same => ends (pulse_still (s := pulseSeen s) late same),
    fun late forward => ends (pulse_minute (s := pulseSeen s) late forward)⟩

end
end Sys2Proof.Proofs
namespace Sys2Proof.Machine

set_option Elab.async false
section
variable {h k : Hall} {e : Env} {t : Tx} {n : BankNo} {a : Asg} {o p : Out} {oc : EndOutcome} {after : After} {it : Option Item}

/-! ### What waiting items write -/

/-- R15: a retirement writes a bank and makes a notice. -/
theorem retireCheck_hall : ∃ b em, retireCheck n h = { h with banks := b, emit := em } := by
  unfold retireCheck retireNow spendBank bankNotice
  split
  · exact ⟨_, _, rfl⟩
  · split <;> exact ⟨_, _, rfl⟩

theorem retireChecks_hall {l : List StackItem} {f : StackItem → NoticeBody} {b : StackItem → BankNo} :
    ∃ bs em, (h.each l fun i k => retireCheck (b i) (k.note (f i))) = { h with banks := bs, emit := em } := by
  induction l generalizing h with
  | nil => exact ⟨_, _, rfl⟩
  | cons i l ih =>
    obtain ⟨bs, em, first⟩ := retireCheck_hall (n := b i) (h := h.note (f i))
    rw [Hall.each_cons, first]
    exact ih

/-- R69: at most three items stay under the one pushed. -/
theorem pushStack_hall {it : Item} {r : StackReason} : ∃ al bs em, pushStack e t it r h =
    { h with stack := upd h.stack t fun l => ⟨it, e.sec, r⟩ :: l.take 3, alloc := al, banks := bs, emit := em } := by
  have keeps (l : List StackItem) (w : l = ⟨it, e.sec, r⟩ :: (h.stack[t]).take 3) :
      (upd h.stack t fun _ => l) = upd h.stack t fun l => ⟨it, e.sec, r⟩ :: l.take 3 := upd_congr _ _ w
  unfold pushStack
  dsimp only
  split
  · next room =>
    have short : (h.stack[t]).length ≤ 3 := Nat.le_of_lt_succ room
    rw [← keeps _ (by rw [List.take_of_length_le short])]
    exact ⟨_, _, _, rfl⟩
  · rw [← keeps _ rfl]
    exact ⟨true, retireChecks_hall (f := fun i => .dropped i.item.occ) (b := fun i => i.item.occ.bank)⟩

theorem pushStack_stack {it : Item} {r : StackReason} :
    (pushStack e t it r h).stack[t] = ⟨it, e.sec, r⟩ :: (h.stack[t]).take 3 := by
  obtain ⟨al, bs, em, eq⟩ := pushStack_hall (h := h) (e := e) (t := t) (it := it) (r := r)
  rw [eq]
  dsimp only
  rw [get_upd, if_pos rfl]

theorem deferItem_hall {it : Item} {r : DeferReason} : ∃ d f em, deferItem e it r h =
    { h with deferral := d, faults := f, emit := em } := by
  unfold deferItem
  split
  · exact ⟨_, _, _, rfl⟩
  · obtain ⟨f, em, told⟩ := report_hall (e := e) (r := ⟨.scheduleSkip, .schedule, some it.occ, none, none⟩) (h := h)
    rw [told]
    exact ⟨_, _, _, rfl⟩

/-! ### The claims that an end gives up -/

/-- T's assignment is ENDING, or it has none. -/
theorem passClaim_owner (ending : Settled h t) : (passClaim t o h).asg[t] = h.asg[t] ∧
    ∀ p : Out, (passClaim t o h).path.owner[p] = some t → h.path.owner[p] = some t ∧ p ≠ o := by
  have given (w : Option Tx) (other : w ≠ some t) (p : Out) (own : (h.setOwner o w).path.owner[p] = some t) :
      h.path.owner[p] = some t ∧ p ≠ o := by
    simp only [Hall.setOwner_path, get_upd] at own
    split at own
    · exact absurd own other
    · next ne => exact ⟨own, Ne.symm ne⟩
  unfold passClaim
  split
  · next u found =>
    have waits := List.find?_some found
    obtain ⟨b, hb, holds⟩ := (Option.any_eq_true _ _).1 waits
    have runs : b.phase.isEnding = false := by simpa using (Bool.and_eq_true_iff.1 holds).2
    have other : u ≠ t := by
      rintro rfl
      rw [ending b hb] at runs
      cases runs
    refine ⟨?_, given (some u) (by simpa using other)⟩
    rw [Hall.mapAsg_asg, get_upd, if_neg other]
    rfl
  · unfold release outAvailable
    split <;> exact ⟨rfl, given none nofun⟩

theorem passClaims_owner {l : List Out} (ending : Settled h t) :
    ∀ p : Out, (h.each l (passClaim t)).path.owner[p] = some t → h.path.owner[p] = some t ∧ p ∉ l := by
  induction l generalizing h with
  | nil => exact fun p own => ⟨own, List.not_mem_nil⟩
  | cons o l ih =>
    obtain ⟨asg, owner⟩ := passClaim_owner (o := o) ending
    intro p own
    obtain ⟨before, out⟩ := ih (h := passClaim t o h) (fun b hb => ending b (asg ▸ hb)) p own
    obtain ⟨held, ne⟩ := owner p before
    exact ⟨held, fun m => (List.mem_cons.1 m).elim ne out⟩

/-- R66 steps 2 and 3: the claims pass on or are released, and the record is empty. -/
def endGiven (t : Tx) (h : Hall) : Hall := clearAwaits t ((h.each (claims h t) (passClaim t)).setAsg t none)

theorem endGiven_asg : (endGiven t h).asg[t] = none := by
  simp [endGiven, clearAwaits]

theorem endGiven_owner (ending : Settled h t) (p : Out) : (endGiven t h).path.owner[p] ≠ some t := fun own => by
  obtain ⟨held, none⟩ := passClaims_owner (l := claims h t) ending p own
  exact none (List.mem_filter.2 ⟨mem_allOut p, decide_eq_true held⟩)

theorem endGiven_ends : Ends (· = t) h (endGiven t h) :=
  clearAwaits_ends (Ends.setAsg (Ends.each (Ends.refl _ h) fun _ _ _ x => passClaim_ends x) rfl)

/-! ### The completion of an end -/

/-- R66: the item's stop instant has passed. -/
def passed (e : Env) (it : Option Item) : Bool := it.any fun i => decide (i.stop ≤ e.min)

/-- R66 step 1. -/
def endPushed (e : Env) (t : Tx) (it : Option Item) (after : After) (h : Hall) : Hall :=
  match after, it with
  | .push r, some i => if passed e it then h else pushStack e t i r h
  | _, _ => h

/-- R66 step 4, after the ASSIGNMENT notice. -/
def endListed (e : Env) (it : Option Item) (after : After) (h : Hall) : Hall :=
  match after, it with
  | .push _, some i => if passed e it then h.note (.expired i.occ) else h
  | .defer r, some i => if passed e it then h else deferItem e i r h
  | _, _ => h

/-- R15: the occurrence's reference leaves. -/
def endUnreferred (it : Option Item) (h : Hall) : Hall :=
  match it with
  | some i => retireCheck i.occ.bank h
  | none => h

/-- R66: the ASSIGNMENT notice of an end. -/
def endNotice (t : Tx) (a : Asg) (oc : EndOutcome) (after : After) : NoticeBody :=
  .assignment t (a.sched.map Sched.occ) oc a.late a.trips a.fold after

theorem completeEnd_eq (ha : h.asg[t] = some a) (hp : a.phase = .ending oc after) : completeEnd e t h =
    (endUnreferred (a.item t) (endListed e (a.item t) after
      ((endGiven t (endPushed e t (a.item t) after h)).note (endNotice t a oc after)))).wantAlloc := by
  unfold completeEnd
  rw [ha]
  dsimp only
  rw [hp]
  rfl

/-- R66 step 1 writes the stack alone, of what the later steps look at. -/
theorem endPushed_hall : ∃ st al bs em, endPushed e t it after h = { h with stack := st, alloc := al, banks := bs, emit := em } := by
  unfold endPushed
  split
  · split
    · exact ⟨_, _, _, _, rfl⟩
    · obtain ⟨al, bs, em, eq⟩ := pushStack_hall (h := h) (e := e) (t := t)
      exact ⟨_, _, _, _, eq⟩
  · exact ⟨_, _, _, _, rfl⟩

/-- The last steps write no more than the deferral list, of what an end looks at. -/
theorem endListed_hall : ∃ f b em, endUnreferred it (endListed e it after h) =
    { h with deferral := (endListed e it after h).deferral, faults := f, banks := b, emit := em } := by
  have listed : ∃ d f em, endListed e it after h = { h with deferral := d, faults := f, emit := em } := by
    unfold endListed
    split
    · split <;> exact ⟨_, _, _, rfl⟩
    · split
      · exact ⟨_, _, _, rfl⟩
      · exact deferItem_hall
    · exact ⟨_, _, _, rfl⟩
  obtain ⟨d, f, em, eq⟩ := listed
  rw [eq]
  unfold endUnreferred
  split
  · obtain ⟨b, em', left⟩ := retireCheck_hall (h := { h with deferral := d, faults := f, emit := em })
    exact ⟨f, b, em', left⟩
  · exact ⟨f, h.banks, em, rfl⟩

/-- The notice of an end stands. -/
theorem endListed_emit : h.emit <+: (endUnreferred it (endListed e it after h)).emit := by
  have listed : h.emit <+: (endListed e it after h).emit := by
    unfold endListed
    split
    · split
      · exact List.prefix_append _ _
      · exact List.prefix_rfl
    · split
      · exact List.prefix_rfl
      · exact (deferItem_moves (Moves.refl h)).emit
    · exact List.prefix_rfl
  refine listed.trans ?_
  unfold endUnreferred
  split
  · exact (retireCheck_moves (Moves.refl _)).emit
  · exact List.prefix_rfl

section
variable (ha : h.asg[t] = some a) (hp : a.phase = .ending oc after)
include ha hp

theorem completeEnd_free : (completeEnd e t h).asg[t] = none ∧ (completeEnd e t h).alloc = true ∧
    (∀ p : Out, (completeEnd e t h).path.owner[p] ≠ some t) ∧ endNotice t a oc after ∈ (completeEnd e t h).emit := by
  have noted : endNotice t a oc after ∈ ((endGiven t (endPushed e t (a.item t) after h)).note (endNotice t a oc after)).emit :=
    List.mem_append_right _ List.mem_cons_self
  have ending : Settled (endPushed e t (a.item t) after h) t := fun b hb => by
    obtain ⟨st, al, bs, em, eq⟩ := endPushed_hall (e := e) (t := t) (it := a.item t) (after := after) (h := h)
    rw [eq] at hb
    obtain rfl := Option.some.inj (ha.symm.trans hb)
    rw [hp]
    rfl
  have empty := endGiven_asg (t := t) (h := endPushed e t (a.item t) after h)
  have given := endGiven_owner ending
  rw [completeEnd_eq ha hp]
  generalize endGiven t (endPushed e t (a.item t) after h) = g at noted empty given
  have stands := (endListed_emit (e := e) (it := a.item t) (after := after)).subset noted
  obtain ⟨f, b, em, left⟩ := endListed_hall (e := e) (it := a.item t) (after := after) (h := g.note (endNotice t a oc after))
  rw [left] at stands ⊢
  exact ⟨empty, rfl, given, stands⟩

/-- The stacks and the deferral list of an end that is complete. -/
theorem completeEnd_waiting : ∃ g : Hall, g.deferral = h.deferral ∧
    (completeEnd e t h).stack = (endPushed e t (a.item t) after h).stack ∧
    (completeEnd e t h).deferral = (endListed e (a.item t) after g).deferral := by
  have stack : (endGiven t (endPushed e t (a.item t) after h)).stack = (endPushed e t (a.item t) after h).stack := endGiven_ends.stack
  have deferral : (endGiven t (endPushed e t (a.item t) after h)).deferral = h.deferral := by
    obtain ⟨st, al, bs, em, eq⟩ := endPushed_hall (e := e) (t := t) (it := a.item t) (after := after) (h := h)
    rw [endGiven_ends.deferral, eq]
  rw [completeEnd_eq ha hp]
  generalize endGiven t (endPushed e t (a.item t) after h) = g at stack deferral
  obtain ⟨f, b, em, left⟩ := endListed_hall (e := e) (it := a.item t) (after := after) (h := g.note (endNotice t a oc after))
  rw [left]
  exact ⟨g.note (endNotice t a oc after), deferral, stack, rfl⟩

end

/-! ### The occurrence that an end leaves -/

theorem endPushed_none (w : ∀ r, after ≠ .push r) : endPushed e t it after h = h := by
  unfold endPushed
  split
  · exact absurd rfl (w _)
  · rfl

theorem endListed_none (w : ∀ r, after ≠ .defer r) : (endListed e it after h).deferral = h.deferral := by
  unfold endListed
  split
  · split <;> rfl
  · exact absurd rfl (w _)
  · rfl

section
variable {i : Item} (later : e.min < i.stop)
include later

theorem not_passed : passed e (some i) = false := decide_eq_false (Nat.not_le.2 later)

theorem endPushed_push {r : StackReason} : endPushed e t (some i) (.push r) h = pushStack e t i r h := by
  unfold endPushed
  rw [not_passed later]
  rfl

theorem endListed_defer {r : DeferReason} (room : h.deferral.length < 24) :
    (endListed e (some i) (.defer r) h).deferral = insertItem ⟨i, r⟩ h.deferral := by
  unfold endListed
  rw [not_passed later]
  exact deferItem_room room

end

end
end Sys2Proof.Machine
namespace Sys2Proof.Machine

set_option Elab.async false
section
variable {h k : Hall} {e : Env} {t : Tx} {a b : Asg} {oc : EndOutcome} {after : After}

/-! ### An end that waits for a LOWER -/

/-- R59, R65: the transmitter radiates, or was lost radiating. -/
def Radiates (r : TxRec) : Prop := isRad r.st = true ∨ (r.st = .unreachable ∧ ∃ x, r.before = some x ∧ isRad x = true)

theorem needsLower_iff {r : TxRec} : r.needsLower = true ↔ Radiates r := by
  simp only [TxRec.needsLower, Radiates, Bool.or_eq_true, Bool.and_eq_true, decide_eq_true_eq, Option.any_eq_true]

theorem handedBack_idle {y : Option Order} (w : ∀ o, y = some o → o.handBack = false) : handedBack t y h = h := by
  cases y with
  | none => rfl
  | some o => exact overtaken_idle (.inr (.inl (w o rfl)))

/-- What is in hand is not handed back to the engine. -/
def NoHandBack (r : TxRec) : Prop := ∀ o, r.out = some o ∨ r.pend = some o → o.handBack = false

/-- R66: a LOWER that overtakes an order the engine has given up leaves the assignment. -/
theorem queueLower_asg {byTrip : Bool} (hand : (h.tx[t]).lowerInHand = false) (w : NoHandBack h.tx[t]) :
    (queueLower t byTrip h).asg = h.asg := by
  have out : handedBack t (h.tx[t]).out h = h := handedBack_idle fun o ho => w o (.inl ho)
  rcases queueLower_cases (byTrip := byTrip) hand with behind | goes
  · rw [behind, makePending_eq, handedBack_idle fun o ho => w o (.inr ho)]
    rfl
  · rw [goes, out, handedBack_idle fun o ho => w o (.inr (Option.filter_eq_some_iff.1 ho).1)]
    rfl

/-- R66: an end that has begun hands back no order but a LOWER. -/
theorem endBegun_orders (o : Order) (w : ((endBegun t b h).tx[t]).out = some o ∨ ((endBegun t b h).tx[t]).pend = some o) :
    o.handBack = false ∨ o.kind = .lower := by
  have kept : (endBegun t b h).tx[t] = (dropHandBack t (withdrawRaise t (h.setAsg t (some b)))).tx[t] :=
    ((Quiet.refl (fun _ => False) _).cancelSeq (t := t)).tx t id
  have cut (y : Option Order) (z : y.map Order.cut = some o) : o.handBack = false ∨ o.kind = .lower := by
    obtain ⟨y, -, rfl⟩ := Option.map_eq_some_iff.1 z
    unfold Order.cut
    split
    · exact .inl rfl
    · next low => exact .inr (by simpa using low)
  rw [kept] at w
  unfold dropHandBack noHandBack at w
  rw [setTx_same] at w
  exact w.elim (cut _) (cut _)

theorem noHandBack_endBegun (hand : ((endBegun t b h).tx[t]).lowerInHand = false) : NoHandBack (endBegun t b h).tx[t] := by
  obtain ⟨out, pend⟩ := inHand_eq_false.1 hand
  intro o w
  refine (endBegun_orders o w).resolve_right fun low => ?_
  rcases w with w | w
  · exact absurd low (by simpa using out o w)
  · exact absurd low (by simpa using pend o w)

theorem tryEnd_down (hb : k.asg[t] = some b) (ending : b.phase.isEnding = true) (down : (k.tx[t]).needsLower = false) :
    tryEnd e t k = completeEnd e t k := by
  unfold tryEnd
  rw [hb]
  dsimp only
  rw [ending, down]
  exact if_pos (Bool.or_true _)

theorem tryEnd_radiating (hb : k.asg[t] = some b) (ending : b.phase.isEnding = true) (waits : b.lowerOver = false)
    (rad : (k.tx[t]).needsLower = true) :
    tryEnd e t k = k ∨ ((k.tx[t]).lowerInHand = false ∧ tryEnd e t k = handLower e t false k) := by
  unfold tryEnd
  rw [hb]
  dsimp only
  rw [ending, waits, rad]
  cases hand : (k.tx[t]).lowerInHand with
  | true => exact .inl rfl
  | false =>
    by_cases low : (k.tx[t]).st = .lowering
    · exact .inl (if_pos (decide_eq_true low))
    · exact .inr ⟨rfl, if_neg (c := decide ((k.tx[t]).st = .lowering) = true) (by simpa using low)⟩

section
variable (ha : h.asg[t] = some a) (hp : a.phase.isEnding = false)
include ha hp

/-- R66: lowering first. -/
theorem endAsg_radiating (rad : Radiates h.tx[t]) : (endAsg e t oc after h).asg[t] = some (a.ended oc after) := by
  have needs : ((endBegun t (a.ended oc after) h).tx[t]).needsLower = true :=
    (needsLower_body (endBegun_quiet.body t)).trans (needsLower_iff.2 rad)
  have begun := endBegun_asg t (a.ended oc after) h
  rw [endAsg_begun ha hp]
  rcases tryEnd_radiating (e := e) begun rfl rfl needs with waits | ⟨hand, lowers⟩
  · rw [waits]
    exact begun
  · rw [lowers]
    rcases handLower_cases (e := e) (t := t) (byTrip := false) (h := endBegun t (a.ended oc after) h) with same | queued
    · rw [same]
      exact begun
    · rw [queued, queueLower_asg hand (noHandBack_endBegun hand)]
      exact begun

variable (down : ¬ Radiates h.tx[t])
include down

theorem endAsg_down : endAsg e t oc after h = completeEnd e t (endBegun t (a.ended oc after) h) := by
  have quiet : ((endBegun t (a.ended oc after) h).tx[t]).needsLower = false :=
    (needsLower_body (endBegun_quiet.body t)).trans (Bool.eq_false_iff.2 (mt needsLower_iff.1 down))
  rw [endAsg_begun ha hp]
  exact tryEnd_down (endBegun_asg t _ h) rfl quiet

theorem endAsg_free : (endAsg e t oc after h).asg[t] = none ∧ (endAsg e t oc after h).alloc = true ∧
    (∀ p : Out, (endAsg e t oc after h).path.owner[p] ≠ some t) ∧ endNotice t a oc after ∈ (endAsg e t oc after h).emit := by
  rw [endAsg_down ha hp down]
  exact completeEnd_free (a := a.ended oc after) (endBegun_asg t _ h) rfl

/-- The stacks and the deferral list after an end that completes at once. -/
theorem endAsg_waiting : ∃ g k : Hall, g.stack = h.stack ∧ k.deferral = h.deferral ∧
    (endAsg e t oc after h).stack = (endPushed e t (a.item t) after g).stack ∧
    (endAsg e t oc after h).deferral = (endListed e (a.item t) after k).deferral := by
  have begun : Ends (· = t) h (endBegun t (a.ended oc after) h) := endBegun_ends (Ends.refl _ h) rfl
  obtain ⟨k, deferral, pushed, listed⟩ := completeEnd_waiting (e := e) (a := a.ended oc after) (endBegun_asg t _ h) rfl
  rw [endAsg_down ha hp down]
  exact ⟨_, k, begun.stack, deferral.trans begun.deferral, pushed, listed⟩

theorem endAsg_nothing : (endAsg e t oc .nothing h).stack = h.stack ∧ (endAsg e t oc .nothing h).deferral = h.deferral := by
  obtain ⟨g, k, stack, deferral, pushed, listed⟩ := endAsg_waiting ha hp down (e := e) (oc := oc) (after := .nothing)
  rw [pushed, listed, endPushed_none (after := .nothing) nofun, endListed_none (after := .nothing) nofun]
  exact ⟨stack, deferral⟩

variable {i : Item} (hi : a.item t = some i) (later : e.min < i.stop)
include hi later

/-- R69: the occurrence on top of the stack. -/
theorem endAsg_pushed {r : StackReason} : ((endAsg e t oc (.push r) h).stack[t]).head? = some ⟨i, e.sec, r⟩ ∧
    (endAsg e t oc (.push r) h).deferral = h.deferral := by
  obtain ⟨g, k, -, deferral, pushed, listed⟩ := endAsg_waiting ha hp down (e := e) (oc := oc) (after := .push r)
  rw [pushed, listed, hi, endPushed_push later, pushStack_stack, endListed_none (after := .push r) nofun]
  exact ⟨rfl, deferral⟩

/-- R67: the occurrence in the deferral list. -/
theorem endAsg_deferred {r : DeferReason} (room : h.deferral.length < 24) :
    (endAsg e t oc (.defer r) h).deferral = insertItem ⟨i, r⟩ h.deferral ∧ (endAsg e t oc (.defer r) h).stack = h.stack := by
  obtain ⟨g, k, stack, deferral, pushed, listed⟩ := endAsg_waiting ha hp down (e := e) (oc := oc) (after := .defer r)
  rw [pushed, listed, hi, endPushed_none (after := .defer r) nofun, endListed_defer later (by rw [deferral]; exact room), deferral]
  exact ⟨rfl, stack⟩

end

end
end Sys2Proof.Machine
namespace Sys2Proof.Machine

set_option Elab.async false
section
variable {h : Hall} {e : Env} {t : Tx} {a : Asg} {s : State}

/-! ### What stops at a minute -/

/-- R50 step 1: the outcome of an assignment whose stop instant has come. -/
def stopOutcome (a : Asg) : EndOutcome := if a.phase = .preparing then .missed else .completed

theorem endStopped_walk :
    Ends (fun u => ∃ a, h.asg[u] = some a ∧ pastStop e a.sched = true ∧ a.phase.isEnding = false) h (endStopped e h) ∧
    ∀ (t : Tx) (a : Asg), h.asg[t] = some a → pastStop e a.sched = true → a.phase.isEnding = false →
      EndedTo (stopOutcome a) a (endStopped e h).asg[t] := by
  obtain ⟨ends, ended⟩ := endEach_each (e := e) (c := fun _ a => pastStop e a.sched) (o := fun _ a => stopOutcome a)
    (fun _ a b w => ⟨congrArg (pastStop e) (core_sched w),
      congrArg (fun p => if p = Phase.preparing then EndOutcome.missed else .completed) (congrArg Prod.fst w)⟩) allTx nodup_allTx h
  have walk : endStopped e h = h.each allTx (endEach e (fun _ a => pastStop e a.sched) fun _ a => stopOutcome a) := rfl
  rw [walk]
  exact ⟨ends.mono fun u v => v.2, fun t => ended t (mem_allTx t)⟩

theorem pastStop_some {x : Option Sched} : pastStop e x = true ↔ ∃ y, x = some y ∧ y.stop ≤ e.min := by
  simp only [pastStop, Option.any_eq_true, decide_eq_true_eq]

/-- R50 step 1: it ends. -/
theorem endStopped_ended {x : Sched} (ha : h.asg[t] = some a) (hx : a.sched = some x) (run : a.phase.isEnding = false)
    (stops : x.stop ≤ e.min) : (endStopped e h).asg[t] = none ∨
      ∃ b, (endStopped e h).asg[t] = some b ∧ b.phase = .ending (stopOutcome a) .nothing ∧ b.sched = some x := by
  refine (endStopped_walk.2 t a ha (pastStop_some.2 ⟨x, hx, stops⟩) run).cases.imp_right fun ⟨b, hb, core⟩ => ?_
  exact ⟨b, hb, congrArg Prod.fst core, (congrArg (fun c => c.2.1) core).trans hx⟩

/-- R50 step 1: an assignment whose stop instant has not come stays. -/
theorem endStopped_kept (ha : h.asg[t] = some a) (later : ∀ x, a.sched = some x → e.min < x.stop) :
    ∃ b, (endStopped e h).asg[t] = some b ∧ b.phase = a.phase ∧ b.sched = a.sched ∧ b.eff = a.eff := by
  have core := (endStopped_walk (e := e) (h := h)).1.asg t fun ⟨b, hb, stops, _⟩ => by
    obtain rfl := Option.some.inj (ha.symm.trans hb)
    obtain ⟨x, hx, past⟩ := pastStop_some.1 stops
    exact absurd past (Nat.not_le.2 (later x hx))
  rw [ha, Option.map_some] at core
  obtain ⟨b, hb, same⟩ := Option.map_eq_some_iff.1 core
  exact ⟨b, hb, congrArg Prod.fst same, congrArg (fun c => c.2.1) same, congrArg (fun c => c.2.2.1) same⟩

/-! ### What expires at a minute -/

/-- R50 step 2: an item whose stop instant has come. -/
def gone (e : Env) (i : Item) : Bool := decide (i.stop ≤ e.min)

theorem not_gone {i : Item} : (!gone e i) = decide (e.min < i.stop) := by
  rw [gone, ← decide_not]
  exact decide_eq_decide.2 Nat.not_le

theorem expireItems_eq : expireItems e h = dropDeferral (gone e) .expired (h.each allTx fun t => dropStack t (gone e) .expired) := rfl

theorem expireItems_kept : (expireItems e h).stack[t] = (h.stack[t]).filter (fun i => decide (e.min < i.item.stop)) ∧
    (expireItems e h).deferral = h.deferral.filter (fun i => decide (e.min < i.item.stop)) ∧ (expireItems e h).asg = h.asg := by
  obtain ⟨asg, stack, deferral⟩ := dropDeferral_same (p := gone e) (nt := .expired)
    (h := h.each allTx fun t => dropStack t (gone e) .expired)
  rw [expireItems_eq, asg, stack, deferral, dropStacks_stack, dropStacks_deferral, dropStacks_asg]
  simp only [not_gone, and_self]

/-- Every item that leaves a stack has its notice. -/
theorem dropStacks_told {p : Item → Bool} {nt : Occ → NoticeBody} {l : List Tx} {i : StackItem} (mem : t ∈ l) (m : i ∈ h.stack[t])
    (w : p i.item = true) : nt i.item.occ ∈ (h.each l fun t => dropStack t p nt).emit := by
  have grows {l : List Tx} {h : Hall} : h.emit <+: (h.each l fun t => dropStack t p nt).emit :=
    ((Quiet.refl (fun _ => False) h).each fun y => y.dropStack).emit
  induction l generalizing h with
  | nil => cases mem
  | cons u l ih =>
    by_cases eq : t = u
    · subst eq
      exact (grows (h := dropStack t p nt h)).subset (dropStack_emit m w)
    · refine ih ((List.mem_cons.1 mem).resolve_left eq) (h := dropStack u p nt h) ?_
      rw [dropStack_stack, if_neg (Ne.symm eq)]
      exact m

theorem expireItems_stack {i : StackItem} (m : i ∈ h.stack[t]) (stops : i.item.stop ≤ e.min) :
    .expired i.item.occ ∈ (expireItems e h).emit := by
  have told := dropStacks_told (p := gone e) (nt := .expired) (mem_allTx t) m (decide_eq_true stops)
  rw [expireItems_eq]
  exact (Quiet.refl (fun _ => False) _).dropDeferral.emit.subset told

theorem expireItems_deferral {i : DeferItem} (m : i ∈ h.deferral) (stops : i.item.stop ≤ e.min) :
    .expired i.item.occ ∈ (expireItems e h).emit := by
  rw [expireItems_eq]
  exact dropDeferral_emit (p := gone e) (by rw [dropStacks_deferral]; exact m) (decide_eq_true stops)

/-! ### What starts at a minute -/

/-- R50 step 3, R73: an assignment whose start instant may have come. -/
def started (e : Env) (late : Bool) (a : Asg) : Asg :=
  if (a.sched.map Sched.start).any fun x => decide (x ≤ e.min) then
    match a.phase with
    | .waiting => { a with phase := .raising, raise := .wanted }
    | .preparing => { a with late := a.late || late }
    | _ => a
  else a

theorem startWaiting_eq {late : Bool} : startWaiting e late h = h.each allTx fun t k => k.mapAsg t (started e late) := by
  have one : (fun a : Asg => if a.sched.any fun s => decide (s.start ≤ e.min) then
      match a.phase with
      | .waiting => { a with phase := .raising, raise := .wanted }
      | .preparing => if late then { a with late := true } else a
      | _ => a
    else a) = started e late := by
    funext a
    have mark : (if late then { a with late := true } else a) = { a with late := a.late || late } := by cases late <;> simp
    unfold started
    rw [mark, Option.any_map]
  exact congrArg (fun f => h.each allTx fun t k => k.mapAsg t f) one

theorem mapAsgs_asg {f : Asg → Asg} {l : List Tx} (nd : l.Nodup) :
    (h.each l fun t k => k.mapAsg t f).asg[t] = if t ∈ l then (h.asg[t]).map f else h.asg[t] := by
  induction l generalizing h with
  | nil => rfl
  | cons u l ih =>
    obtain ⟨out, nd⟩ := List.nodup_cons.1 nd
    rw [Hall.each_cons, ih nd, Hall.mapAsg_asg, get_upd]
    by_cases eq : u = t
    · subst eq
      simp [out]
    · simp [eq, Ne.symm eq]

theorem startWaiting_asg {late : Bool} : (startWaiting e late h).asg[t] = (h.asg[t]).map (started e late) := by
  rw [startWaiting_eq, mapAsgs_asg nodup_allTx, if_pos (mem_allTx t)]

/-! ### The Time Base's events -/

theorem minute_idle (w : s.time.cstate = .unset ∨ s.hall.mode = .adopting) : s.minute = s := by
  have idle : engineMinute s.env s.hall = s.hall := by
    refine if_pos ?_
    rcases w with unset | adopting
    · rw [Env.isSet, State.env_tm, unset]
      rfl
    · rw [adopting]
      exact Bool.or_true _
  rw [State.minute, State.onHall, idle]

theorem minute_running (set : s.time.cstate ≠ .unset) (running : s.hall.mode = .running) : s.minute =
    s.onHall fun e h => changeoverScan e (startWaiting e false (expireItems e (endStopped e h))) := by
  have taken : engineMinute s.env s.hall =
      changeoverScan s.env (startWaiting s.env false (expireItems s.env (endStopped s.env s.hall))) := by
    unfold engineMinute
    rw [if_neg (by rw [running, Env.isSet, State.env_tm]; simpa using set), if_pos running]
  rw [State.minute, State.onHall, taken]
  rfl

theorem minute_quiescent (set : s.time.cstate ≠ .unset) (quiescent : s.hall.mode = .quiescent) :
    s.minute = s.onHall changeoverIfDue := by
  have taken : engineMinute s.env s.hall = changeoverIfDue s.env s.hall := by
    unfold engineMinute
    rw [if_neg (by rw [quiescent, Env.isSet, State.env_tm]; simpa using set), if_neg (by rw [quiescent]; exact nofun)]
  rw [State.minute, State.onHall, taken]
  rfl

/-- R39: the pulse-absence timer has come to its end. -/
def AbsenceDue (t : TimeBase) : Prop := ∃ x, t.absence = some x ∧ x ≤ t.now

theorem absenceDue_iff : (s.time.absence.any fun x => decide (x ≤ s.time.now)) = true ↔ AbsenceDue s.time := by
  simp only [AbsenceDue, Option.any_eq_true, decide_eq_true_eq]

theorem pulseAbsence_locked (due : AbsenceDue s.time) (locked : s.time.cstate = .locked) : pulseAbsence s =
    ({ s with time := { s.time with absence := none, cstate := .free }
              hall := s.hall.note (.clock .free (s.time.clock / ticksPerSec) none) }.onHall reportFree) := by
  unfold pulseAbsence
  have freed : (if s.time.cstate = .locked then ClockState.free else s.time.cstate) = .free := if_pos locked
  rw [if_pos (absenceDue_iff.2 due)]
  dsimp only
  rw [if_pos locked, State.setTime, freed]
  rfl

theorem pulseAbsence_stops (due : AbsenceDue s.time) (other : s.time.cstate ≠ .locked) :
    pulseAbsence s = { s with time := { s.time with absence := none } } := by
  unfold pulseAbsence
  rw [if_pos (absenceDue_iff.2 due)]
  dsimp only
  rw [if_neg other, State.setTime, if_neg other]

theorem pulseAbsence_early (w : ¬ AbsenceDue s.time) : pulseAbsence s = s := if_neg (mt absenceDue_iff.1 w)

end
end Sys2Proof.Machine

namespace Sys2Proof.Proofs

set_option Elab.async false
section
open Machine

/-- Settles O20: the walks of a minute event, the completion of an end by what it leaves, and the Time Base's events. -/
theorem clockEvents : Obligations.ClockEvents := by
  refine ⟨fun e t h => ?_, fun e t h a o ha => ?_, fun s => ?_⟩
  · obtain ⟨stack, deferral, asg⟩ := expireItems_kept (e := e) (t := t) (h := h)
    exact ⟨fun a x ha hx run stops => endStopped_ended ha hx run stops, fun a ha later => endStopped_kept ha later, stack, deferral, asg,
      fun i m stops => expireItems_stack m stops, fun i m stops => expireItems_deferral m stops, fun late => startWaiting_asg⟩
  · refine ⟨fun ending after => endAsg_ending ha ending, fun run rad after => endAsg_radiating ha run rad, fun run down => ?_⟩
    obtain ⟨stack, deferral⟩ := endAsg_nothing ha run down (e := e) (oc := o)
    refine ⟨fun after => endAsg_free ha run down, stack, deferral, fun x hx later => ?_⟩
    have item : a.item t = some ⟨x.occ, t, x.prio, x.start, x.stop, a.trips, a.fold⟩ := by rw [Asg.item, hx]; rfl
    exact ⟨fun r => endAsg_pushed ha run down item later, fun r room => endAsg_deferred ha run down item later room⟩
  · have ends {c : Instr} {k m : State} (w : exec c s = .next (finish k)) (eq : k = m) : Completes c s m := eq ▸ w
    refine ⟨fun w => ends rfl (minute_idle w), fun set running => ends rfl (minute_running set running),
      fun set quiescent => ends rfl (minute_quiescent set quiescent), fun worked => ends rfl (if_pos worked),
      fun left => ends rfl (if_neg left), fun x runs due locked => ends rfl (pulseAbsence_locked ⟨x, runs, due⟩ locked),
      fun x runs due other => ends rfl (pulseAbsence_stops ⟨x, runs, due⟩ other),
      fun early => ends rfl (pulseAbsence_early fun ⟨x, runs, due⟩ => absurd due (Nat.not_le.2 (early x runs)))⟩

end
end Sys2Proof.Proofs
namespace Sys2Proof.Machine

set_option Elab.async false
section
variable {h k : Hall} {e : Env} {t : Tx} {it : Item}

/-! ### Stacks, the deferral list and owed runs -/

/-- R69: a push with room is the push alone. -/
theorem pushStack_room {r : StackReason} (room : (h.stack[t]).length < 4) :
    pushStack e t it r h = h.setStack t (⟨it, e.sec, r⟩ :: h.stack[t]) := if_pos room

theorem pushStack_top {r : StackReason} (room : (h.stack[t]).length < 4) :
    (pushStack e t it r h).stack[t] = ⟨it, e.sec, r⟩ :: h.stack[t] ∧ (pushStack e t it r h).alloc = h.alloc := by
  rw [pushStack_room room]
  exact ⟨by rw [Hall.setStack_stack, get_upd, if_pos rfl], rfl⟩

/-- R69: the bottom of a full stack leaves. -/
theorem pushStack_full {r : StackReason} {i1 i2 i3 i4 : StackItem} (full : h.stack[t] = [i1, i2, i3, i4]) :
    (pushStack e t it r h).stack[t] = [⟨it, e.sec, r⟩, i1, i2, i3] ∧ .dropped i4.item.occ ∈ (pushStack e t it r h).emit := by
  refine ⟨by rw [pushStack_stack, full]; rfl, ?_⟩
  have drops : pushStack e t it r h =
      retireCheck i4.item.occ.bank ((h.setStack t [⟨it, e.sec, r⟩, i1, i2, i3]).wantAlloc.note (.dropped i4.item.occ)) := by
    unfold pushStack
    rw [full]
    rfl
  rw [drops]
  exact (retireCheck_moves (Moves.refl _)).emit.subset (List.mem_append_right _ List.mem_cons_self)

/-- R71: only what makes a transmitter available owes a run. -/
theorem setTxState_alloc {x : TxState} {c : TxCause} : (setTxState t x c h).alloc =
    (h.alloc || (isAvail x && !isAvail (h.tx[t]).st && decide (h.asg[t] = none))) := by
  have idle : decide (h.asg[t] = none) = (h.asg[t]).isNone := by cases h.asg[t] <;> rfl
  rw [setTxState_eq, idle]
  split
  · next same => rw [same, Bool.and_not_self, Bool.false_and, Bool.or_false]
  · split
    · next owes => rw [owes, Bool.or_true]; rfl
    · next none => rw [Bool.eq_false_iff.2 none, Bool.or_false]; rfl

/-- R67: an item goes behind those that it does not precede. -/
theorem insertItem_split (d : DeferItem) (l : List DeferItem) : ∃ before after, l = before ++ after ∧
    insertItem d l = before ++ d :: after ∧ (∀ x ∈ before, itemBefore d.item x.item ≠ true) ∧
    ∀ x, after.head? = some x → itemBefore d.item x.item = true := by
  induction l with
  | nil => exact ⟨[], [], rfl, rfl, nofun, nofun⟩
  | cons x l ih =>
    unfold insertItem
    split
    · next front => exact ⟨[], x :: l, rfl, rfl, nofun, fun y hy => Option.some.inj hy ▸ front⟩
    · next behind =>
      obtain ⟨before, after, whole, put, not, first⟩ := ih
      refine ⟨x :: before, after, by rw [whole]; rfl, by rw [put]; rfl, fun y m => ?_, first⟩
      rcases List.mem_cons.1 m with rfl | m
      · exact behind
      · exact not y m

/-! ### The order of a run's candidates -/

section
variable {α : Type} {lt : α → α → Bool}

/-- A list in which nothing goes before what stands in front of it. -/
def Sorted (lt : α → α → Bool) (l : List α) : Prop := l.Pairwise fun a b => lt b a = false

variable (irrefl : ∀ a, lt a a = false) (trans : ∀ a b c, lt a b = true → lt b c = true → lt a c = true)
include irrefl trans

theorem insertBy_sorted {a : α} {l : List α} (w : Sorted lt l) : Sorted lt (insertBy lt a l) := by
  induction l with
  | nil => exact List.pairwise_singleton _ _
  | cons x l ih =>
    obtain ⟨first, rest⟩ := List.pairwise_cons.1 w
    unfold insertBy
    split
    · next front =>
      refine List.pairwise_cons.2 ⟨fun y m => Bool.eq_false_iff.2 fun back => ?_, w⟩
      have cycle := trans y a x back front
      rcases List.mem_cons.1 m with rfl | m
      · rw [irrefl] at cycle
        cases cycle
      · rw [first y m] at cycle
        cases cycle
    · next behind =>
      refine List.pairwise_cons.2 ⟨fun y m => ?_, ih rest⟩
      rcases mem_insertBy.1 m with rfl | m
      · exact Bool.eq_false_iff.2 behind
      · exact first y m

theorem sortBy_sorted (l : List α) : Sorted lt (sortBy lt l) := by
  have from_ (l acc : List α) (w : Sorted lt acc) : Sorted lt (l.foldl (fun acc a => insertBy lt a acc) acc) := by
    induction l generalizing acc with
    | nil => exact w
    | cons a l ih => exact ih _ (insertBy_sorted irrefl trans w)
  exact from_ l [] .nil

end

/-- R71: a stack's top before a deferral item. -/
def waitRank (c : RunCand) : Nat := (!c.stacked).toNat

theorem runBefore_iff {a b : RunCand} : runBefore a b = true ↔
    NumBefore a.item.prio (waitRank a) a.item.start a.item.tx.val b.item.prio (waitRank b) b.item.start b.item.tx.val := by
  have less : (a.stacked && !b.stacked) = true ↔ waitRank a < waitRank b := by
    unfold waitRank
    cases a.stacked <;> cases b.stacked <;> decide
  have same : a.stacked = b.stacked ↔ waitRank a = waitRank b := by
    unfold waitRank
    cases a.stacked <;> cases b.stacked <;> decide
  simp only [runBefore, NumBefore, Bool.or_eq_true, less, Bool.and_eq_true, decide_eq_true_eq, same]

theorem runBefore_irrefl (a : RunCand) : runBefore a a = false := Bool.eq_false_iff.2 fun w => NumBefore.irrefl (runBefore_iff.1 w)

theorem runBefore_trans (a b c : RunCand) (v : runBefore a b = true) (w : runBefore b c = true) : runBefore a c = true :=
  runBefore_iff.2 ((runBefore_iff.1 v).trans (runBefore_iff.1 w))

theorem runCands_sorted : Sorted runBefore (runCands h) := sortBy_sorted runBefore_irrefl runBefore_trans _

theorem mem_runCands {c : RunCand} : c ∈ runCands h ↔
    (c.stacked = true ∧ ∃ (t : Tx) (i : StackItem), (h.stack[t]).head? = some i ∧ c.item = i.item) ∨
      (c.stacked = false ∧ ∃ i ∈ h.deferral, c.item = i.item) := by
  have sorted := (sortBy_firstLeast runBefore_irrefl runBefore_trans
    (l := allTx.filterMap (fun t => (h.stack[t]).head?.map fun i => (⟨i.item, true⟩ : RunCand)) ++
      h.deferral.map fun i => ⟨i.item, false⟩)).2 c
  obtain ⟨item, stacked⟩ := c
  refine sorted.trans ?_
  rw [List.mem_append, List.mem_filterMap, List.mem_map]
  refine or_congr ⟨?_, ?_⟩ ⟨?_, ?_⟩
  · rintro ⟨t, -, made⟩
    obtain ⟨i, top, eq⟩ := Option.map_eq_some_iff.1 made
    cases eq
    exact ⟨rfl, t, i, top, rfl⟩
  · rintro ⟨flag, t, i, top, eq⟩
    cases flag
    cases eq
    exact ⟨t, mem_allTx t, by rw [top]; rfl⟩
  · rintro ⟨i, m, eq⟩
    cases eq
    exact ⟨rfl, i, m, rfl⟩
  · rintro ⟨flag, i, m, eq⟩
    cases flag
    cases eq
    exact ⟨i, m, rfl⟩

/-! ### A walk of a run -/

/-- R57: the effective parameters of a candidate. -/
def candEff (k : Tables) (h : Hall) (i : Item) (r : EntryRec) : Params :=
  effective k (h.holds[i.tx]) (entryParams r.entry) i.fold

/-- R71: the candidate's transmitter and output are available to it. -/
def Fits (k : Tables) (h : Hall) (i : Item) (r : EntryRec) : Prop :=
  h.asg[i.tx] = none ∧ isAvail (h.tx[i.tx]).st = true ∧
    (outState h (candEff k h i r).out = .free ∨ outState h (candEff k h i r).out = .parked) ∧
    ∀ u, reserver h (candEff k h i r).out = some u → u = i.tx

/-- The entry of a candidate. -/
def candEntry (h : Hall) (i : Item) : Option EntryRec := (h.banks[i.occ.bank]).find i.occ.id

/-- R67: every reason worked again. -/
def reworked (k : Tables) (h : Hall) : Hall :=
  { h with deferral := h.deferral.map fun i => match candEntry h i.item with
    | some r => { i with reason := deferReason h i.item.tx (candEff k h i.item r).out i.reason }
    | none => i }

section
variable {kt : Tables} {c : RunCand} {r : EntryRec}

theorem candParams_some (entry : candEntry h it = some r) : candParams kt h it = some (entryParams r.entry, candEff kt h it r) :=
  congrArg (Option.map _) entry

theorem reworkReasons_eq : reworkReasons kt h = reworked kt h := by
  have one : (fun i : DeferItem => match candParams kt h i.item with
      | some p => { i with reason := deferReason h i.item.tx p.2.out i.reason }
      | none => i) = fun i => match candEntry h i.item with
      | some r => { i with reason := deferReason h i.item.tx (candEff kt h i.item r).out i.reason }
      | none => i := by
    funext i
    rw [show candParams kt h i.item = (candEntry h i.item).map _ from rfl]
    cases candEntry h i.item <;> rfl
  exact congrArg (fun f => { h with deferral := h.deferral.map f }) one

theorem fits_iff : fits kt h c = true ↔ ∃ r, candEntry h c.item = some r ∧ Fits kt h c.item r := by
  have one (p : Params × Params) : (txAvail h c.item.tx && outAvail h c.item.tx p.2.out) = true ↔
      h.asg[c.item.tx] = none ∧ isAvail (h.tx[c.item.tx]).st = true ∧
        (outState h p.2.out = .free ∨ outState h p.2.out = .parked) ∧ ∀ u, reserver h p.2.out = some u → u = c.item.tx := by
    simp only [txAvail, outAvail, Bool.and_eq_true, Option.isNone_iff_eq_none, Bool.or_eq_true, decide_eq_true_eq,
      Bool.not_eq_true', not_reservedByOther_iff, and_assoc]
  unfold fits
  rw [show candParams kt h c.item = (candEntry h c.item).map _ from rfl, Option.any_map, Option.any_eq_true]
  exact exists_congr fun r => and_congr_right fun _ => one _

theorem runCands_reworked : runCands (reworked kt h) = runCands h := by
  have items : (reworked kt h).deferral.map (fun i => (⟨i.item, false⟩ : RunCand)) = h.deferral.map fun i => ⟨i.item, false⟩ := by
    refine (List.map_map).trans (List.map_congr_left fun i _ => ?_)
    rw [Function.comp_apply]
    cases candEntry h i.item <;> rfl
  exact congrArg (fun l => sortBy runBefore (allTx.filterMap (fun t => (h.stack[t]).head?.map fun i => ⟨i.item, true⟩) ++ l)) items

theorem fits_reworked : fits kt (reworked kt h) = fits kt h := rfl

theorem checkParams_congr {p : Params} (same : k.tx = h.tx) : checkParams kt k t p = checkParams kt h t p := by
  unfold checkParams check txDefined
  rw [same]

theorem leaveWait_tx : (leaveWait c h).tx = h.tx := by
  unfold leaveWait
  split <;> rfl

theorem runStep_walks (owed : h.alloc = true) (running : h.mode = .running) :
    runStep e h = some ((runWalk e (reworked e.k h)).getD { reworked e.k h with alloc := false }) := by
  unfold runStep
  rw [owed, reworkReasons_eq]
  refine (if_neg (by decide)).trans ((if_neg (not_not.2 running)).trans ?_)
  dsimp only
  cases runWalk e (reworked e.k h) <;> rfl

theorem runWalk_over (none : ∀ c ∈ runCands (reworked e.k h), ∀ r, candEntry h c.item = some r → ¬ Fits e.k h c.item r) :
    runWalk e (reworked e.k h) = .none := by
  have empty : (runCands (reworked e.k h)).find? (fits e.k (reworked e.k h)) = .none := List.find?_eq_none.2 fun c m w => by
    obtain ⟨r, entry, fit⟩ := fits_iff.1 (fits_reworked ▸ w)
    exact none c m r entry fit
  unfold runWalk
  rw [empty]

section
variable {before after : List RunCand} (whole : runCands (reworked e.k h) = before ++ c :: after)
  (first : ∀ x ∈ before, ∀ y, candEntry h x.item = some y → ¬ Fits e.k h x.item y) (entry : candEntry h c.item = some r)
  (fit : Fits e.k h c.item r)
include whole first entry fit

/-- R71: the first candidate that fits leaves its place. -/
theorem runWalk_first : runWalk e (reworked e.k h) =
    match checkParams e.k h c.item.tx (candEff e.k h c.item r) with
    | .permitted => some (createAsg c.item.tx c.item (entryParams r.entry) (candEff e.k h c.item r)
        (if c.stacked then .stack else .deferral) (leaveWait c (reworked e.k h)))
    | ans => some (retireCheck c.item.occ.bank ((reportExcluded e c.item.occ (candEff e.k h c.item r).freq .admission ans
        (leaveWait c (reworked e.k h))).note (.rejected c.item.occ ans))) := by
  have found : (runCands (reworked e.k h)).find? (fits e.k (reworked e.k h)) = some c := by
    refine List.find?_eq_some_iff_append.2 ⟨fits_iff.2 ⟨r, entry, fit⟩, before, after, whole, fun x m => ?_⟩
    rw [Bool.not_eq_true', Bool.eq_false_iff]
    intro w
    obtain ⟨y, hy, fits⟩ := fits_iff.1 (fits_reworked ▸ w)
    exact first x m y hy fits
  have params : candParams e.k (reworked e.k h) c.item = some (entryParams r.entry, candEff e.k h c.item r) := candParams_some entry
  unfold runWalk
  rw [found]
  dsimp only
  rw [params]
  dsimp only
  rw [checkParams_congr (leaveWait_tx (c := c) (h := reworked e.k h))]
  rfl

theorem runWalk_admits (ok : checkParams e.k h c.item.tx (candEff e.k h c.item r) = .permitted) : runWalk e (reworked e.k h) =
    some (createAsg c.item.tx c.item (entryParams r.entry) (candEff e.k h c.item r) (if c.stacked then .stack else .deferral)
      (leaveWait c (reworked e.k h))) := by
  rw [runWalk_first whole first entry fit, ok]

theorem runWalk_rejects {ans : CheckAnswer} (is : checkParams e.k h c.item.tx (candEff e.k h c.item r) = ans) (no : ans ≠ .permitted) :
    runWalk e (reworked e.k h) = some (retireCheck c.item.occ.bank ((reportExcluded e c.item.occ (candEff e.k h c.item r).freq
      .admission ans (leaveWait c (reworked e.k h))).note (.rejected c.item.occ ans))) := by
  rw [runWalk_first whole first entry fit, is]
  cases ans with
  | permitted => exact absurd rfl no
  | range | notFound | excluded => rfl

end

end

end
end Sys2Proof.Machine

namespace Sys2Proof.Proofs

set_option Elab.async false
section
open Machine

/-- Settles O25: stacks and list by what each operation writes, the run by its first candidate that fits, the reads as they stand. -/
theorem timeAndEngineReads : Obligations.TimeAndEngineReads := by
  refine ⟨fun e t it h => ⟨fun r room => pushStack_top room, fun x c => setTxState_alloc, fun r i1 i2 i3 i4 => pushStack_full,
    fun r room => if_pos room, fun r full => if_neg (Nat.not_lt.2 full)⟩, fun d l => ?_, fun e h => ?_, fun tag t s w =>
    ⟨answers_request w rfl rfl, answers_request w rfl rfl, answers_request w rfl rfl⟩⟩
  · obtain ⟨before, after, whole, put, not, first⟩ := insertItem_split d l
    exact ⟨before, after, whole, put, fun x m v => not x m (itemBefore_iff.2 v), fun x hx => itemBefore_iff.1 (first x hx)⟩
  · have cands : runCands (reworked e.k h) = runCands h := runCands_reworked
    refine ⟨fun idle => if_pos (by rw [idle]; rfl), fun owed other => ?_, fun c => ?_, ?_, fun owed running => ⟨fun none => ?_, ?_⟩⟩
    · unfold runStep
      rw [owed]
      exact if_pos other
    · have same : c ∈ runCands (reworked e.k h) ↔ c ∈ runCands h := by rw [cands]
      exact same.trans mem_runCands
    · exact runCands_sorted (h := reworked e.k h)
    · rw [runStep_walks owed running, runWalk_over none]
      rfl
    · intro before c after r whole first entry fit
      refine ⟨fun ok => ?_, fun no => ?_⟩
      · rw [runStep_walks owed running, runWalk_admits whole first entry fit ok]
        rfl
      · rw [runStep_walks owed running, runWalk_rejects whole first entry fit rfl no]
        rfl

end
end Sys2Proof.Proofs

namespace Sys2Proof.Machine

set_option Elab.async false

/-- What command `c` can make of the retained tables that stand in `s`: it leaves them, or it makes its own edit under the checks
that its request has passed. -/
inductive Edit (s : State) : Instr → Tables → Prop
  | kept {c : Instr} : Edit s c s.tables
  | powerOn : Edit s .powerOn s.tables.powerOn
  | engineSet {tag : Nat} {lead cool : Option Nat} (leads : ∀ x, lead = some x → 60 ≤ x ∧ x ≤ 1800)
      (cools : ∀ x, cool = some x → 0 ≤ x ∧ x ≤ 240) :
      Edit s (.engineSet tag lead cool) { s.tables with lead := lead.getD s.tables.lead, cool := cool.getD s.tables.cool }
  | exclusionAdd {tag low high : Nat} {modes : Option (List (Option Mode))} {x : Exclusion}
      (form : exclusionOf low high modes = some x) (unlocked : s.tables.lock = false)
      (room : s.tables.excl.length < Config.maxExclusions) :
      Edit s (.exclusionAdd tag low high modes) { s.tables with excl := s.tables.excl ++ [x] }
  | exclusionDrop {tag index : Nat} (unlocked : s.tables.lock = false) :
      Edit s (.exclusionDrop tag index) { s.tables with excl := s.tables.excl.eraseIdx index }
  | outputDefine {tag : Nat} {o : Out} {low high rating throw : Option Nat} {slew : Option Bool} {r : OutDef}
      (result : r = outResult s.tables.outs[o] low high rating throw slew)
      (form : outDefineOk o s.tables.outs[o] low high rating throw slew = true)
      (frozen : s.tables.lock = true → r.low = (s.tables.outs[o]).low ∧ r.high = (s.tables.outs[o]).high)
      (room : r.slewable ≠ (s.tables.outs[o]).slewable → r.slewable = true → slewableCount s.tables < Config.maxSlewable) :
      Edit s (.outputDefine tag (some o) low high rating throw slew)
        { s.tables with outs := upd s.tables.outs o fun _ => r }
  | outputUndefine {tag : Nat} {o : Out} :
      Edit s (.outputUndefine tag (some o))
        { s.tables with outs := upd s.tables.outs o fun d => { d with defined := false } }
  | licenceLock {tag : Nat} : Edit s (.licenceLock tag) { s.tables with lock := true }
  | txDefine {tag : Nat} {t : Tx} {rating warm tune raise lower : Option Nat} {defined : Bool}
      (form : txDefineOk defined rating warm tune raise lower = true) :
      Edit s (.txDefine tag (some t) rating warm tune raise lower)
        { s.tables with txs := upd s.tables.txs t fun d => d.edit rating warm tune raise lower }
  | txUndefine {tag : Nat} {t : Tx} :
      Edit s (.txUndefine tag (some t)) { s.tables with txs := upd s.tables.txs t fun d => { d with defined := false } }
  | senseSet {tag : Nat} {l : SenseLine} {mode : Option (Option SenseMode)} {mask : Option Bool} {qual : Option Nat}
      (form : senseSetOk l (mode.bind id) mask qual = true) :
      Edit s (.senseSet tag (some l) mode mask qual)
        { s.tables with sense := upd s.tables.sense (senseIx l) fun _ =>
            (s.tables.sense[senseIx l]).edit (mode.bind id) mask qual }
  | recoverySet {tag : Nat} {delay retries window foldback : Option Nat}
      (form : recoveryOk delay retries window foldback = true) :
      Edit s (.recoverySet tag delay retries window foldback)
        { s.tables with rcv := s.tables.rcv.edit delay retries window foldback }
  | planLoad {tag plan : Nat} {steps : List StepForm} {n : Fin 32} {l : List PlanStep} (form : planForm steps = some l) :
      Edit s (.planLoad tag plan steps) { s.tables with plans := upd s.tables.plans n fun _ => some l }
  | planDrop {tag plan : Nat} {n : Fin 32} :
      Edit s (.planDrop tag plan) { s.tables with plans := upd s.tables.plans n fun _ => none }
  | planSet {tag : Nat} {step : Option Nat} (form : withinOpt 10 600 step = true) :
      Edit s (.planSet tag step) { s.tables with stepTo := step.getD s.tables.stepTo }
  | storeErase {tag : Nat} (unlocked : s.tables.lock = false) : Edit s (.storeErase tag) Tables.default

/-- From `s` to `m` the tables have seen no more than an edit of command `c`. -/
def Edits (s : State) (c : Instr) (m : State) : Prop := Edit s c m.tables

/-- So it is for whatever a command leads to. -/
def LeadsEdit (s : State) (c : Instr) (r : Result) : Prop := ∀ t, r = .next t → Edits s c t

section
variable {s m : State} {c : Instr}

namespace Edits

/-- A state with the tables of `s`. -/
theorem kept (w : m.tables = s.tables := by rfl) : Edits s c m := by
  unfold Edits
  rw [w]
  exact .kept

protected theorem ite {p : Prop} [Decidable p] {a b : State} (x : p → Edits s c a) (y : ¬ p → Edits s c b) :
    Edits s c (if p then a else b) := by
  split
  · exact x ‹_›
  · exact y ‹_›

/-- A request refused with the tables as they are, or answered. -/
theorem unlessRefused {p : Prop} [Decidable p] {st : Status} {a : Ans} (x : ¬ p → Edits s c a.s) :
    Edits s c (if p then s.refuse st else a).s := by
  split
  · exact kept
  · exact x ‹_›

theorem ans_ite {p : Prop} [Decidable p] {a b : Ans} (x : p → Edits s c a.s) (y : ¬ p → Edits s c b.s) :
    Edits s c (if p then a else b).s := by
  split
  · exact x ‹_›
  · exact y ‹_›

protected theorem named {α : Type} {x : Option α} {f : α → Ans} (w : ∀ a, x = some a → Edits s c (f a).s) :
    Edits s c (named s x f).s := by
  cases x with
  | none => exact kept
  | some a => exact w a rfl

protected theorem hold {l : Held} {tag : Option Nat} : Edits s c (s.hold l tag) := .ite (fun _ => kept) fun _ => kept

protected theorem taking {i : Instr} {tag : Nat} {r : Req} {f : State → State} (w : Edits s c (f s)) :
    Edits s c (s.taking i tag r f) := .ite (fun _ => .hold) fun _ => .ite (fun _ => w) fun _ => kept

end Edits

namespace LeadsEdit

protected theorem done (x : Edits s c m) : LeadsEdit s c (.next (finish m)) := fun _ q => Host.Outcome.next.inj q ▸ x

protected theorem request {i : Instr} {tag : Nat} {r : Req} {f : State → Ans} (w : Edits s c (f s).s) :
    LeadsEdit s c (request i tag r f s) := .done (.taking w)

protected theorem happen {f : Env → Hall → Hall} : LeadsEdit s c (happen s f) := .done .kept

end LeadsEdit

namespace Edits

/-! ### Banks and changes -/

section
variable {bank : Nat}

protected theorem withBank {f : BankNo → Bank → Ans} (w : ∀ n, Edits s c (f n s.hall.banks[n]).s) :
    Edits s c (withBank bank s f).s := .named fun n _ => w n

protected theorem bankOpen {label : Option (List Char)} : Edits s c (bankOpen bank label s).s :=
  .withBank fun _ => unlessRefused fun _ => unlessRefused fun _ => kept

protected theorem entryPut {f : EntryForm} : Edits s c (entryPut bank f s).s := by
  refine .withBank fun n => unlessRefused fun _ => .named fun en _ => ?_
  split
  · exact kept
  · exact unlessRefused fun _ => kept

protected theorem entryDrop {id : Nat} : Edits s c (entryDrop bank id s).s :=
  .withBank fun _ => unlessRefused fun _ => unlessRefused fun _ => kept

protected theorem bankCommit {d : DateForm} {hhmm : Nat} : Edits s c (bankCommit bank d hhmm s).s := by
  refine .withBank fun n => .named fun start _ => unlessRefused fun _ => ?_
  split
  · exact kept
  · exact ans_ite (fun _ => kept) fun _ => kept

protected theorem bankUncommit : Edits s c (bankUncommit bank s).s := .withBank fun _ => unlessRefused fun _ => kept

protected theorem bankRelease : Edits s c (bankRelease bank s).s :=
  .withBank fun _ => ans_ite (fun _ => kept) fun _ => kept

protected theorem bankRestage {label : Option (List Char)} : Edits s c (bankRestage bank label s).s :=
  .withBank fun _ => unlessRefused fun _ => unlessRefused fun _ => kept

protected theorem entryGet {id : Nat} : Edits s c (entryGet bank id s).s := by
  refine .withBank fun n => ?_
  split <;> exact kept

protected theorem changePost {tag id : Nat} {kind : Option ChangeKind} {f : Option EntryForm} :
    Edits s c (changePost tag bank kind id f s).s :=
  unlessRefused fun _ => .named fun _ _ => .named fun _ _ => unlessRefused fun _ => .named fun _ _ => unlessRefused fun _ => kept

end

/-! ### The Time Base -/

protected theorem stepClock {v : ClockTick} : Edits s c (stepClock v s) := by
  unfold stepClock
  extract_lets k₁ k₂ k₃ k₄
  have kept₃ : k₃.tables = s.tables := by unfold k₃; split <;> rfl
  exact .ite (fun _ => kept kept₃) fun _ => kept kept₃

protected theorem timeSet {d : DateForm} {h k sec : Nat} : Edits s c (timeSet d h k sec s).s :=
  .named fun _ _ => ans_ite (fun _ => .stepClock) fun _ => ans_ite (fun _ => kept) fun _ => ans_ite (fun _ => kept) fun _ => .stepClock

protected theorem slewWorkedOff : Edits s c (slewWorkedOff s) := .ite (fun _ => kept) fun _ => kept

protected theorem pulseAbsence : Edits s c (pulseAbsence s) := .ite (fun _ => .ite (fun _ => kept) fun _ => kept) fun _ => kept

protected theorem pulse (same : m.tables = s.tables) : Edits s c (pulse m) := by
  unfold pulse
  extract_lets k₁ k₂
  have kept₂ : k₂.tables = s.tables := by unfold k₂; split <;> exact same
  exact .ite (fun _ => kept same) fun _ => .ite (fun _ => kept kept₂) fun _ => kept kept₂

protected theorem qualificationExpiry {l : SenseLine} : Edits s c (qualificationExpiry l s) := by
  unfold qualificationExpiry
  split
  · exact kept
  · exact .ite (fun _ => .pulse rfl) fun _ => kept

/-! ### The engine -/

protected theorem engineSet {tag : Nat} {lead cool : Option Nat} : Edits s (.engineSet tag lead cool) (engineSet lead cool s).s := by
  refine ans_ite (fun w => ?_) fun _ => kept rfl
  obtain ⟨leads, cools⟩ := Bool.and_eq_true_iff.1 w
  exact Edit.engineSet (withinOpt_iff.1 leads) (withinOpt_iff.1 cools)

protected theorem quiesce : Edits s c (quiesce s).s := ans_ite (fun _ => kept (State.onHall_tables _ _)) fun _ => kept

protected theorem resume : Edits s c (resume s).s := ans_ite (fun _ => kept) fun _ => kept

/-! ### The Frequency Check -/

protected theorem exclusionAdd {tag low high : Nat} {modes : Option (List (Option Mode))} :
    Edits s (.exclusionAdd tag low high modes) (exclusionAdd low high modes s).s :=
  .named fun _ form => unlessRefused fun unlocked => unlessRefused fun room =>
    Edit.exclusionAdd form (Bool.eq_false_iff.2 unlocked) (Nat.lt_of_not_le room)

protected theorem exclusionDrop {tag index : Nat} : Edits s (.exclusionDrop tag index) (exclusionDrop index s).s :=
  unlessRefused fun _ => unlessRefused fun unlocked => unlessRefused fun _ => Edit.exclusionDrop (Bool.eq_false_iff.2 unlocked)

protected theorem outputDefine {tag : Nat} {o : Option Out} {low high rating throw : Option Nat} {slew : Option Bool} :
    Edits s (.outputDefine tag o low high rating throw slew) (outputDefine o low high rating throw slew s).s := by
  unfold outputDefine
  cases o with
  | none => exact kept
  | some o =>
    rw [named_some]
    extract_lets d r change k₁ k₂
    refine unlessRefused fun form => unlessRefused fun frozen => unlessRefused fun _ => unlessRefused fun room => ?_
    have edited : (k₂.onHall sweep).tables = { s.tables with outs := upd s.tables.outs o fun _ => r } := by
      show k₂.tables = _
      unfold k₂
      split <;> rfl
    show Edit s _ (k₂.onHall sweep).tables
    rw [edited]
    have formed : outDefineOk o d low high rating throw slew = true := by simpa using form
    refine .outputDefine rfl formed (fun locked => ?_) fun differs slewable => ?_
    · have same : r.low = d.low ∧ r.high = d.high := by
        rw [locked] at frozen
        simpa using frozen
      exact same
    · have changed : change = true := decide_eq_true differs
      rw [changed, Bool.true_and, show r.slewable = true from slewable, Bool.true_and, Bool.or_eq_true, decide_eq_true_eq] at room
      exact Nat.lt_of_not_le fun full => room (.inl full)

protected theorem outputUndefine {tag : Nat} {o : Option Out} : Edits s (.outputUndefine tag o) (outputUndefine o s).s := by
  cases o with
  | none => exact kept
  | some o => exact ans_ite (fun _ => kept) fun _ => unlessRefused fun _ => Edit.outputUndefine

protected theorem check {freq power : Option Nat} {mode : Option Mode} {o : Option Out} {t : Option (Option Tx)} :
    Edits s c (checkRequest freq mode o power t s).s :=
  .named fun _ _ => .named fun _ _ => .named fun _ _ => .named fun _ _ => unlessRefused fun _ => kept

/-! ### Faults, the matrix and the positioners -/

protected theorem faultClear {tag seq : Nat} : Edits s c (faultClear tag seq s) := by
  unfold faultClear
  refine .ite (fun _ => kept) fun _ => ?_
  split <;> exact kept

protected theorem faultList {first : Nat} : Edits s c (faultList first s).s := by
  unfold faultList
  dsimp only
  split <;> exact kept

protected theorem faultGet {seq : Nat} : Edits s c (faultGet seq s).s := by
  unfold faultGet
  split <;> exact kept

protected theorem matrixStatus {x : Option MatrixSubject} : Edits s c (matrixStatus x s).s := by
  refine .named fun x _ => ?_
  cases x <;> exact kept

protected theorem withPos {o : Option Out} {f : Out → Pos → Ans} (w : ∀ o p, Edits s c (f o p).s) :
    Edits s c (withPos o s f).s := by
  refine .named fun o _ => ?_
  split
  · exact kept
  · exact w _ _

protected theorem positionerSet {o : Option Out} {line rate : Option Nat} : Edits s c (positionerSet o line rate s).s := by
  refine .withPos fun o p => unlessRefused fun _ => ?_
  extract_lets l
  split
  · exact kept
  · exact unlessRefused fun _ => kept

protected theorem presetSet {o : Option Out} {n : Nat} {az : Option Nat} : Edits s c (presetSet o n az s).s :=
  .withPos fun _ _ => unlessRefused fun _ => unlessRefused fun _ => kept

/-! ### Transmitters, sense lines and recovery -/

protected theorem txDefine {tag : Nat} {t : Option Tx} {rating warm tune raise lower : Option Nat} :
    Edits s (.txDefine tag t rating warm tune raise lower) (txDefine t rating warm tune raise lower s).s := by
  cases t with
  | none => exact kept
  | some t => exact unlessRefused fun form => Edit.txDefine (by simpa using form)

protected theorem txUndefine {tag : Nat} {t : Option Tx} : Edits s (.txUndefine tag t) (txUndefine t s).s := by
  cases t with
  | none => exact kept
  | some t => exact ans_ite (fun _ => kept) fun _ => unlessRefused fun _ => Edit.txUndefine

protected theorem senseSet {tag : Nat} {l : Option SenseLine} {mode : Option (Option SenseMode)} {mask : Option Bool}
    {qual : Option Nat} : Edits s (.senseSet tag l mode mask qual) (senseSet l mode mask qual s).s := by
  cases l with
  | none => exact kept
  | some l =>
    refine unlessRefused fun form => Edit.senseSet ?_
    rw [Bool.or_eq_true, not_or] at form
    simpa using form.2

protected theorem recoverySet {tag : Nat} {delay retries window foldback : Option Nat} :
    Edits s (.recoverySet tag delay retries window foldback) (recoverySet delay retries window foldback s).s :=
  unlessRefused fun form => Edit.recoverySet (by simpa using form)

/-! ### Holds, plans and directives -/

protected theorem holdSet {t : Option Tx} {v : Option HoldForm} : Edits s c (holdSet t v s).s := by
  refine .named fun t _ => .named fun v _ => ?_
  split <;> exact kept

protected theorem holdStatus {t : Option (Option Tx)} : Edits s c (holdStatus t s).s := by
  unfold holdStatus
  split <;> exact kept

protected theorem planLoad {tag plan : Nat} {steps : List StepForm} : Edits s (.planLoad tag plan steps) (planLoad plan steps s).s :=
  .named fun _ _ => .named fun _ form => unlessRefused fun _ => Edit.planLoad form

protected theorem planDrop {tag plan : Nat} : Edits s (.planDrop tag plan) (planDrop plan s).s :=
  .named fun _ _ => unlessRefused fun _ => unlessRefused fun _ => Edit.planDrop

protected theorem planGet {plan : Nat} : Edits s c (planGet plan s).s := by
  refine ans_ite (fun _ => kept) fun _ => .named fun n _ => ?_
  split <;> exact kept

protected theorem planSet {tag : Nat} {step : Option Nat} : Edits s (.planSet tag step) (planSet step s).s :=
  ans_ite (fun form => Edit.planSet form) fun _ => kept

protected theorem directivePost {tag plan : Nat} : Edits s c (directivePost tag plan s).s :=
  ans_ite (fun _ => unlessRefused fun _ => kept) fun _ => .named fun _ _ => unlessRefused fun _ => unlessRefused fun _ =>
    ans_ite (fun _ => kept) fun _ => kept

protected theorem directiveWithdraw : Edits s c (directiveWithdraw s).s := by
  unfold directiveWithdraw
  split
  · exact kept
  · exact ans_ite (fun _ => kept) fun _ => kept
  · exact kept

/-! ### Resets and the link -/

protected theorem hallReset : Edits s c (hallReset s).s := kept (State.onHall_tables _ _)

protected theorem sectionReset {t : Option Tx} : Edits s c (sectionReset t s).s := .named fun _ _ => unlessRefused fun _ => kept

protected theorem storeErase {tag : Nat} : Edits s (.storeErase tag) (storeErase s).s :=
  unlessRefused fun unlocked => unlessRefused fun _ => Edit.storeErase (Bool.eq_false_iff.2 unlocked)

protected theorem resyncNow {tag : Nat} {d : Option (Option Dir)} : Edits s c (resyncNow tag d s) := by
  refine .ite (fun _ => ?_) fun _ => kept
  have answered : Edits s c (resync d s).s := by
    unfold resync
    split <;> exact kept
  exact answered

protected theorem resyncLine {l : List Char} : Edits s c (resyncLine l s) := by
  unfold resyncLine
  split
  · exact .resyncNow
  · exact kept

protected theorem requestBadForm {head : LineHead} : Edits s c (requestBadForm head s) := .ite (fun _ => .hold) fun _ => kept

protected theorem lineComplete {l : List Char} : Edits s c (lineComplete l s) :=
  .ite (fun _ => .ite (fun _ => kept) fun _ => .ite (fun _ => kept) fun _ => .ite (fun _ => kept) fun _ =>
    .ite (fun _ => .resyncLine) fun _ => .hold) fun _ => kept

end Edits

/-- Every command makes its own edit of the tables, or none. -/
theorem exec_edits (c : Instr) (s : State) : LeadsEdit s c (exec c s) := by
  cases c with
  | powerOn => exact fun _ q => Host.Outcome.next.inj q ▸ Edit.powerOn
  | lineComplete => exact .done .lineComplete
  | requestBadForm => exact .done .requestBadForm
  | outboundLineSent => exact .done .kept
  | bankOpen => exact .request .bankOpen
  | entryPut => exact .request .entryPut
  | entryDrop => exact .request .entryDrop
  | bankCommit => exact .request .bankCommit
  | bankUncommit => exact .request .bankUncommit
  | bankRelease => exact .request .bankRelease
  | bankRestage => exact .request .bankRestage
  | bankStatus => exact .request (.withBank fun _ => .kept)
  | entryGet => exact .request .entryGet
  | entryList => exact .request (.withBank fun _ => .kept)
  | changePost => exact .request .changePost
  | changeList => exact .request .kept
  | timeSet => exact .request .timeSet
  | timeStatus => exact .request .kept
  | minuteEvent => exact .done .kept
  | slewWorkedOff => exact .done .slewWorkedOff
  | pulseAbsenceTimeout => exact .done .pulseAbsence
  | engineSet => exact .request .engineSet
  | quiesce => exact .request .quiesce
  | resume => exact .request .resume
  | assignmentStatus => exact .request (.named fun _ _ => .kept)
  | deferralList => exact .request .kept
  | idleTimerExpiry => exact .happen
  | exclusionAdd => exact .request .exclusionAdd
  | exclusionDrop => exact .request .exclusionDrop
  | outputDefine => exact .request .outputDefine
  | outputUndefine => exact .request .outputUndefine
  | exclusionList => exact .request .kept
  | outputGet => exact .request (.named fun _ _ => .kept)
  | check => exact .request .check
  | licenceLock => exact .request Edit.licenceLock
  | columnReport => exact .happen
  | readTimeout => exact .happen
  | throwTimeout => exact .happen
  | matrixStatus => exact .request .matrixStatus
  | motionList => exact .request .kept
  | positionerSet => exact .request .positionerSet
  | presetSet => exact .request .presetSet
  | positionerStatus => exact .request (.withPos fun _ _ => .kept)
  | positionerReport => exact .happen
  | queryTimeout => exact .happen
  | queryRepeat => exact .happen
  | readFullTravelTimeout => exact .happen
  | slewTimeout => exact .happen
  | txDefine => exact .request .txDefine
  | txUndefine => exact .request .txUndefine
  | txStatus => exact .request (.named fun _ _ => .kept)
  | cabinetSlot => exact .happen
  | cabinetReply => exact .happen
  | missedReply => exact .happen
  | warmTimeout => exact .happen
  | tuneTimeout => exact .happen
  | raiseTimeout => exact .happen
  | lowerTimeout => exact .happen
  | coolTimeout => exact .happen
  | clearTripTimeout => exact .happen
  | senseRawChange => exact .happen
  | qualificationTimerExpiry => exact .done .qualificationExpiry
  | senseSet => exact .request .senseSet
  | senseStatus => exact .request (.named fun _ _ => .kept)
  | recoverySet => exact .request .recoverySet
  | tripWindowEntryExpiry => exact .happen
  | recoveryDelayExpiry => exact .happen
  | holdSet => exact .request .holdSet
  | holdClear => exact .request (.named fun _ _ => .named fun _ _ => .kept)
  | holdStatus => exact .request .holdStatus
  | planLoad => exact .request .planLoad
  | planDrop => exact .request .planDrop
  | planGet => exact .request .planGet
  | planSet => exact .request .planSet
  | directiveStatus => exact .request .kept
  | directivePost => exact .request .directivePost
  | directiveWithdraw => exact .request .directiveWithdraw
  | planStepTimeout => exact .happen
  | faultClear => exact .done (.taking .faultClear)
  | faultList => exact .request .faultList
  | faultGet => exact .request .faultGet
  | faultClearOverflow => exact .request .kept
  | adoptionConditionLapse => exact .happen
  | hallStatus => exact .request .kept
  | identify => exact .request .kept
  | resync => exact .done .resyncNow
  | hallReset => exact .request .hallReset
  | sectionReset => exact .request .sectionReset
  | storeErase => exact .request .storeErase

end
end Sys2Proof.Machine
namespace Sys2Proof.Machine

set_option Elab.async false

section
variable {s : State} {c : Instr} {k : Tables}

/-! ### The lock, and the commands without an edit -/

theorem Edit.eq_of_not_edits (x : Edit s c k) (w : editsTables c = false) : k = s.tables := by
  cases x with
  | kept => rfl
  | _ => cases w

/-- R89: what the licence lock freezes. -/
structure Frozen (k l : Tables) : Prop where
  lock : l.lock = true
  excl : l.excl = k.excl
  range : ∀ o : Out, (l.outs[o]).low = (k.outs[o]).low ∧ (l.outs[o]).high = (k.outs[o]).high

theorem Edit.frozen (x : Edit s c k) (locked : s.tables.lock = true) (on : c ≠ .powerOn) : Frozen s.tables k := by
  have open_ : ¬ s.tables.lock = false := by simp [locked]
  cases x with
  | powerOn => exact absurd rfl on
  | exclusionAdd _ unlocked _ => exact absurd unlocked open_
  | exclusionDrop unlocked => exact absurd unlocked open_
  | storeErase unlocked => exact absurd unlocked open_
  | licenceLock => exact ⟨rfl, rfl, fun _ => ⟨rfl, rfl⟩⟩
  | outputDefine _ _ frozen _ =>
    refine ⟨locked, rfl, fun p => ?_⟩
    rw [get_upd]
    split
    · next same => exact same ▸ frozen locked
    · exact ⟨rfl, rfl⟩
  | outputUndefine =>
    refine ⟨locked, rfl, fun p => ?_⟩
    rw [get_upd]
    split
    · next same => subst same; exact ⟨rfl, rfl⟩
    · exact ⟨rfl, rfl⟩
  | _ => exact ⟨locked, rfl, fun _ => ⟨rfl, rfl⟩⟩

/-! ### Values within their ranges -/

/-- A value given within a range, or else the old one. -/
theorem getD_within {lo hi d : Nat} {x : Option Nat} (given : ∀ n, x = some n → lo ≤ n ∧ n ≤ hi) (old : lo ≤ d ∧ d ≤ hi) :
    lo ≤ x.getD d ∧ x.getD d ≤ hi := by
  cases x with
  | none => exact old
  | some n => exact given n rfl

/-- A record that stands alone in a table. -/
theorem upd_forall {α : Type} {n : Nat} {v : Tab α n} {i : Fin n} {f : α → α} {p : Fin n → α → Prop} (old : ∀ j : Fin n, p j v[j])
    (new : p i (f v[i])) (j : Fin n) : p j (upd v i f)[j] := by
  rw [get_upd]
  split
  · next same => exact same ▸ new
  · exact old j

/-! ### The exclusion table -/

theorem exclusionModes_some {modes : Option (List (Option Mode))} {l : List Mode} (w : exclusionModes modes = some l) : l ≠ [] := by
  cases modes with
  | none => cases w; simp
  | some m =>
    rw [exclusionModes] at w
    split at w
    · next form =>
      cases w
      simp only [Bool.and_eq_true, List.all_eq_true, Bool.not_eq_true', decide_eq_true_eq] at form
      obtain ⟨⟨known, some_⟩, _⟩ := form
      cases m with
      | nil => cases some_
      | cons x m =>
        obtain ⟨y, rfl⟩ := Option.isSome_iff_exists.1 (known x List.mem_cons_self)
        simp
    · cases w

theorem exclusionOf_ok {low high : Nat} {modes : Option (List (Option Mode))} {x : Exclusion}
    (w : exclusionOf low high modes = some x) : x.ok := by
  unfold exclusionOf at w
  split at w
  · next l modes =>
    split at w
    · next form =>
      cases w
      simp only [Bool.and_eq_true, freqOk_iff, decide_eq_true_eq] at form
      obtain ⟨⟨lows, highs⟩, order⟩ := form
      refine ⟨lows.1, order, highs.2, ?_⟩
      obtain ⟨m, l, rfl⟩ := List.exists_cons_of_ne_nil (exclusionModes_some modes)
      cases m <;> simp
    · cases w
  · cases w

/-! ### Outputs -/

theorem outResult_ok {o : Out} {d : OutDef} {low high rating throw : Option Nat} {slew : Option Bool} (w : d.ok o)
    (form : outDefineOk o d low high rating throw slew = true) : (outResult d low high rating throw slew).ok o := by
  obtain ⟨lo, order, hi, rate1, rate2, throw1, throw2, load⟩ := w
  simp only [outDefineOk, Bool.and_eq_true, Option.all_eq_true, freqOk_iff, withinOpt_iff, decide_eq_true_eq] at form
  obtain ⟨⟨⟨⟨⟨⟨lows, highs⟩, ratings⟩, throws⟩, ordered⟩, loads⟩, _⟩ := form
  obtain ⟨low1, _⟩ := getD_within lows ⟨lo, order.trans hi⟩
  obtain ⟨_, high2⟩ := getD_within highs ⟨lo.trans order, hi⟩
  obtain ⟨rating1, rating2⟩ := getD_within ratings ⟨rate1, rate2⟩
  obtain ⟨thrown1, thrown2⟩ := getD_within throws ⟨throw1, throw2⟩
  refine ⟨low1, ordered, high2, rating1, rating2, thrown1, thrown2, fun isLoad => ?_⟩
  have given : low = none ∧ high = none ∧ slew = none := by simpa [isLoad, and_assoc] using loads
  obtain ⟨rfl, rfl, rfl⟩ := given
  exact load isLoad

theorem countP_le_succ {α : Type} [DecidableEq α] {p q : α → Bool} {a : α} {l : List α} (nd : l.Nodup)
    (w : ∀ x ∈ l, q x = true → p x = true ∨ x = a) : l.countP q ≤ l.countP p + 1 := by
  have one : l.countP (· == a) ≤ 1 := List.nodup_iff_count_le_one.1 nd a
  have split : l.countP q ≤ l.countP p + l.countP (· == a) := by
    clear nd one
    induction l with
    | nil => simp
    | cons x l ih =>
      have rest := ih fun y m => w y (List.mem_cons_of_mem x m)
      have here := w x List.mem_cons_self
      simp only [List.countP_cons]
      by_cases v : q x = true
      · rcases here v with hp | he
        · simp only [v, hp, if_true]; omega
        · subst he
          simp only [v, beq_self_eq_true, if_true]
          split <;> omega
      · simp only [v]
        simp only [Bool.false_eq_true, if_false]; omega
  omega

/-- R80: the slewable antennas after an edit of one output. -/
theorem slewableCount_upd {o : Out} {f : OutDef → OutDef} (w : slewableCount k ≤ Config.maxSlewable)
    (room : (f k.outs[o]).slewable ≠ (k.outs[o]).slewable → (f k.outs[o]).slewable = true → slewableCount k < Config.maxSlewable) :
    slewableCount { k with outs := upd k.outs o f } ≤ Config.maxSlewable := by
  unfold slewableCount at *
  simp only [← List.countP_eq_length_filter] at *
  by_cases grows : (f k.outs[o]).slewable ≠ (k.outs[o]).slewable ∧ (f k.outs[o]).slewable = true
  · refine (countP_le_succ (l := allOut) (p := fun p : Out => (k.outs[p]).slewable) (a := o) (List.nodup_finRange 28)
      fun p _ slewable => ?_).trans (room grows.1 grows.2)
    by_cases same : p = o
    · exact .inr same
    · rw [get_upd, if_neg (Ne.symm same)] at slewable
      exact .inl slewable
  · refine (List.countP_mono_left fun p _ slewable => ?_).trans w
    rw [get_upd] at slewable
    split at slewable
    · next same =>
      subst same
      by_contra other
      exact grows ⟨fun e => other (e ▸ slewable), slewable⟩
    · exact slewable

/-! ### Transmitters, sense lines, recovery and plans -/

theorem TxDef.edit_ok {d : TxDef} {defined : Bool} {rating warm tune raise lower : Option Nat} (w : d.ok)
    (form : txDefineOk defined rating warm tune raise lower = true) : (d.edit rating warm tune raise lower).ok := by
  obtain ⟨rate1, rate2, warm1, warm2, tune1, tune2, raise1, raise2, lower1, lower2⟩ := w
  simp only [txDefineOk, Bool.and_eq_true, withinOpt_iff] at form
  obtain ⟨⟨⟨⟨⟨ratings, warms⟩, tunes⟩, raises⟩, lowers⟩, _⟩ := form
  exact ⟨(getD_within ratings ⟨rate1, rate2⟩).1, (getD_within ratings ⟨rate1, rate2⟩).2, (getD_within warms ⟨warm1, warm2⟩).1,
    (getD_within warms ⟨warm1, warm2⟩).2, (getD_within tunes ⟨tune1, tune2⟩).1, (getD_within tunes ⟨tune1, tune2⟩).2,
    (getD_within raises ⟨raise1, raise2⟩).1, (getD_within raises ⟨raise1, raise2⟩).2, (getD_within lowers ⟨lower1, lower2⟩).1,
    (getD_within lowers ⟨lower1, lower2⟩).2⟩

theorem RecoverySettings.edit_ok {r : RecoverySettings} {delay retries window foldback : Option Nat} (w : r.ok)
    (form : recoveryOk delay retries window foldback = true) : (r.edit delay retries window foldback).ok := by
  obtain ⟨delay1, delay2, retry, window1, window2, fold1, fold2⟩ := w
  simp only [recoveryOk, Bool.and_eq_true, withinOpt_iff] at form
  obtain ⟨⟨⟨delays, tries⟩, windows⟩, folds⟩ := form
  exact ⟨(getD_within delays ⟨delay1, delay2⟩).1, (getD_within delays ⟨delay1, delay2⟩).2,
    (getD_within tries ⟨Nat.zero_le _, retry⟩).2, (getD_within windows ⟨window1, window2⟩).1,
    (getD_within windows ⟨window1, window2⟩).2, (getD_within folds ⟨fold1, fold2⟩).1, (getD_within folds ⟨fold1, fold2⟩).2⟩

/-- R157, R159: an edit of a line that SENSE-SET takes. -/
theorem SenseCfg.edit_ok {l : SenseLine} {d : SenseCfg} {mode : Option SenseMode} {mask : Option Bool} {qual : Option Nat}
    (w : d.ok l) (form : senseSetOk l mode mask qual = true) : (d.edit mode mask qual).ok l := by
  have mode_ok (old : modeAllowed l d.mode = true) (given : mode.all (modeAllowed l) = true) :
      modeAllowed l (mode.getD d.mode) = true := by
    cases mode with
    | none => exact old
    | some m => exact given
  have qual_ok (old : 1 ≤ d.qual ∧ d.qual ≤ 250) (given : withinOpt 1 250 qual = true) :
      1 ≤ qual.getD d.qual ∧ qual.getD d.qual ≤ 250 := getD_within (withinOpt_iff.1 given) old
  have mask_ok (old : d.mask = false) (given : mask ≠ some true) : mask.getD d.mask = false := by
    cases mask with
    | none => exact old
    | some b => exact Bool.eq_false_iff.2 fun e => given (congrArg some e)
  cases l with
  | pulse =>
    simp only [senseSetOk, Bool.and_eq_true, Option.isNone_iff_eq_none] at form
    obtain ⟨⟨rfl, rfl⟩, rfl⟩ := form
    exact w
  | rfp t =>
    simp only [senseSetOk, Bool.and_eq_true, decide_eq_true_eq] at form
    exact ⟨mode_ok w.1 form.1.1, mask_ok w.2.1 form.2, qual_ok w.2.2 form.1.2⟩
  | estop =>
    simp only [senseSetOk, Bool.and_eq_true, decide_eq_true_eq] at form
    exact ⟨mode_ok w.1 form.1.1, mask_ok w.2.1 form.2, qual_ok w.2.2 form.1.2⟩
  | refl t =>
    simp only [senseSetOk, Bool.and_eq_true] at form
    exact ⟨mode_ok w.1 form.1.1, qual_ok w.2 form.1.2⟩
  | arc t =>
    simp only [senseSetOk, Bool.and_eq_true] at form
    exact ⟨mode_ok w.1 form.1.1, qual_ok w.2 form.1.2⟩
  | door t =>
    simp only [senseSetOk, Bool.and_eq_true] at form
    exact ⟨mode_ok w.1 form.1.1, qual_ok w.2 form.1.2⟩

theorem senseDefault_ok (l : SenseLine) : (senseDefault l).ok l := by
  cases l <;> simp [SenseCfg.ok, senseDefault, modeAllowed]

theorem reloadSense_ok {l : SenseLine} {d : SenseCfg} (w : d.ok l) : (reloadSense l d).ok l := by
  cases l with
  | rfp t => exact ⟨w.1, rfl, w.2.2⟩
  | estop => exact ⟨w.1, rfl, w.2.2⟩
  | _ => exact w

theorem senseIx_inj {l m : SenseLine} (w : senseIx l = senseIx m) : l = m := by
  rw [← senseLine_senseIx l, w, senseLine_senseIx]

theorem planForm_some {steps : List StepForm} {l : List PlanStep} (w : planForm steps = some l) : 1 ≤ l.length ∧ l.length ≤ 8 := by
  unfold planForm at w
  dsimp only at w
  split at w
  · next form =>
    obtain ⟨size, whole⟩ := Bool.and_eq_true_iff.1 form
    have all : ((steps.map stepOf).filterMap id).length = (steps.map stepOf).length := by
      rw [List.filterMap_length_eq_length]
      exact fun x m => List.all_eq_true.1 whole x m
    rw [← Option.some.inj w, all, List.length_map]
    exact within_iff.1 size
  · cases w

/-! ### The tables -/

theorem Tables.powerOn_ok (w : k.ok) : k.powerOn.ok where
  excl := w.excl
  outs := w.outs
  slewable := w.slewable
  txs := w.txs
  rcv := w.rcv
  engine := w.engine
  plans := w.plans
  stepTo := w.stepTo
  sense l := by
    rw [powerOn_sense]
    exact reloadSense_ok (w.sense l)

theorem Tables.default_ok : Tables.default.ok where
  excl := ⟨Nat.zero_le _, fun _ m => nomatch m⟩
  outs o := by
    show (tab 28 OutDef.default)[o].ok o
    rw [get_tab]
    exact ⟨le_rfl, by decide, le_rfl, by decide, by decide, by decide, by decide, fun _ => ⟨rfl, rfl, rfl⟩⟩
  slewable := by
    have none : slewableCount Tables.default = 0 := by
      unfold slewableCount
      rw [List.length_eq_zero_iff, List.filter_eq_nil_iff]
      intro o _
      show ¬ ((tab 28 OutDef.default)[o]).slewable = true
      rw [get_tab]
      decide
    rw [none]
    exact Nat.zero_le _
  txs t := by
    show (tab 12 TxDef.default)[t].ok
    rw [get_tab]
    decide
  rcv := by decide
  engine := by decide
  plans n l held := by
    have none : Tables.default.plans[n] = Option.none := get_tab 32 Option.none n
    rw [none] at held
    cases held
  stepTo := by decide
  sense l := by
    rw [default_sense]
    exact senseDefault_ok l

/-- R47, R77, R80, R131, R157, R164, R184: an edit keeps every table within its ranges. -/
theorem Edit.ok (x : Edit s c k) (w : s.tables.ok) : k.ok := by
  cases x with
  | kept => exact w
  | powerOn => exact Tables.powerOn_ok w
  | storeErase => exact Tables.default_ok
  | licenceLock => exact { w with }
  | engineSet leads cools =>
    have lead := getD_within leads ⟨w.engine.1, w.engine.2.1⟩
    exact { w with engine := ⟨lead.1, lead.2, (getD_within cools ⟨Nat.zero_le _, w.engine.2.2⟩).2⟩ }
  | exclusionAdd form _ room =>
    refine { w with excl := ⟨by simpa using room, fun y m => ?_⟩ }
    rcases List.mem_append.1 m with m | m
    · exact w.excl.2 y m
    · rw [List.mem_singleton.1 m]
      exact exclusionOf_ok form
  | exclusionDrop =>
    exact { w with excl := ⟨(List.length_eraseIdx_le _ _).trans w.excl.1, fun y m => w.excl.2 y (List.mem_of_mem_eraseIdx m)⟩ }
  | outputDefine result form _ room =>
    subst result
    exact { w with outs := upd_forall (p := OutDef.ok) w.outs (outResult_ok (w.outs _) form)
                   slewable := slewableCount_upd w.slewable room }
  | outputUndefine =>
    exact { w with outs := upd_forall (p := OutDef.ok) w.outs (w.outs _)
                   slewable := slewableCount_upd w.slewable fun differs => absurd rfl differs }
  | txDefine form => exact { w with txs := upd_forall (p := fun _ => TxDef.ok) w.txs (TxDef.edit_ok (w.txs _) form) }
  | txUndefine => exact { w with txs := upd_forall (p := fun _ => TxDef.ok) w.txs (w.txs _) }
  | senseSet form =>
    refine { w with sense := fun m => ?_ }
    rw [get_upd]
    split
    · next same => exact senseIx_inj same ▸ SenseCfg.edit_ok (w.sense _) form
    · exact w.sense m
  | recoverySet form => exact { w with rcv := RecoverySettings.edit_ok w.rcv form }
  | planLoad form =>
    refine { w with plans := fun m held q => ?_ }
    rw [get_upd] at q
    split at q
    · exact Option.some.inj q ▸ planForm_some form
    · exact w.plans m held q
  | planDrop =>
    refine { w with plans := fun m held q => ?_ }
    rw [get_upd] at q
    split at q
    · cases q
    · exact w.plans m held q
  | planSet form => exact { w with stepTo := getD_within (withinOpt_iff.1 form) w.stepTo }

/-! ### Every step -/

/-- A step is a command taken with the tables as they are, or one millisecond. -/
theorem step_cases {t : State} (q : step s = .next t) :
    (∃ c m, m.tables = s.tables ∧ exec c m = .next t) ∨ t = tick s := by
  unfold step at q
  split at q
  · next c rest _ => exact .inl ⟨c, { s with pending := rest }, rfl, q⟩
  · split at q
    · next taken =>
      unfold takeWaiting at taken
      split at taken
      · split at taken
        · cases taken
        · exact .inl ⟨_, _, by rw [← Option.some.inj taken], q⟩
      · cases taken
    · exact .inr (Host.Outcome.next.inj q).symm

end
end Sys2Proof.Machine

namespace Sys2Proof.Proofs

set_option Elab.async false
section
open Machine

/-- Settles O59: what a step makes of the tables is an edit of the command it takes (`exec_edits`), and an edit keeps the ranges. -/
theorem tablesInvariant : Obligations.TablesInvariant := by
  intro s t ok q
  obtain ⟨c, m, same, taken⟩ | rfl := step_cases q
  · exact (exec_edits c m t taken).ok (same ▸ ok)
  · exact ok

/-- Settles O31: a command without an edit leaves the tables, and an edit under the lock leaves what the lock freezes. -/
theorem tablesOnlyEdited : Obligations.TablesOnlyEdited := by
  refine ⟨fun c s t q other => (exec_edits c s t q).eq_of_not_edits other, fun s locked => ⟨fun c t q on => ?_, fun tag takes => ?_⟩⟩
  · obtain ⟨lock, excl, range⟩ := (exec_edits c s t q).frozen locked on
    exact ⟨lock, excl, range⟩
  · exact refused_request takes rfl (storeErase_locked locked)

end
end Sys2Proof.Proofs

namespace Sys2Proof.Machine

set_option Elab.async false
section
variable {h : Hall} {e : Env} {t : Tx} {r : Report} {s : FaultSource} {before after : List FaultRec} {x : FaultRec}

/-! ### What a report and a clear write in the Fault Table -/

/-- R195: the kinds that can block. -/
theorem FaultKind.canBlock_iff {k : FaultKind} : k.canBlock = true ↔ k = .lockout ∨ k = .hotSwitch ∨ k = .matrixUnknown ∨
    k = .positionerStall ∨ k = .antennaSuspect := by
  cases k <;> simp [FaultKind.canBlock]

/-- R197: a report that makes its record block. -/
theorem blocksNow_iff : (r.kind.canBlock && !blocked h r.src) = true ↔
    (r.kind = .lockout ∨ r.kind = .hotSwitch ∨ r.kind = .matrixUnknown ∨ r.kind = .positionerStall ∨
      r.kind = .antennaSuspect) ∧ ¬ ∃ x ∈ h.faults.recs, x.blocking = true ∧ x.src = r.src := by
  rw [Bool.and_eq_true, FaultKind.canBlock_iff, Bool.not_eq_true', ← Bool.not_eq_true, blocked_iff]

/-- The number of a record stands on no other record of its table. -/
theorem seq_unique (once : ((before ++ x :: after).map FaultRec.seq).Nodup) :
    (∀ z ∈ before, z.seq ≠ x.seq) ∧ ∀ z ∈ after, z.seq ≠ x.seq := by
  rw [List.map_append, List.map_cons, List.nodup_middle, List.nodup_cons, ← List.map_append, List.mem_map] at once
  exact ⟨fun z hz q => once.1 ⟨z, List.mem_append_left _ hz, q⟩, fun z hz q => once.1 ⟨z, List.mem_append_right _ hz, q⟩⟩

theorem map_seq_replace {y : FaultRec} (once : ((before ++ x :: after).map FaultRec.seq).Nodup) :
    ((before ++ x :: after).map fun z => if z.seq = x.seq then y else z) = before ++ y :: after := by
  obtain ⟨early, late⟩ := seq_unique once
  have kept {l : List FaultRec} (w : ∀ z ∈ l, z.seq ≠ x.seq) : (l.map fun z => if z.seq = x.seq then y else z) = l :=
    (List.map_congr_left fun z hz => if_neg (w z hz)).trans l.map_id
  rw [List.map_append, List.map_cons, if_pos rfl, kept early, kept late]

theorem filter_seq_remove (once : ((before ++ x :: after).map FaultRec.seq).Nodup) :
    ((before ++ x :: after).filter fun z => decide (z.seq ≠ x.seq)) = before ++ after := by
  obtain ⟨early, late⟩ := seq_unique once
  rw [List.filter_append, List.filter_cons_of_neg (by simp), List.filter_eq_self.2 fun z hz => decide_eq_true (early z hz),
    List.filter_eq_self.2 fun z hz => decide_eq_true (late z hz)]

/-- The record found is the first that passes the test. -/
theorem find?_first {p : FaultRec → Bool} (is : p x = true) (first : ∀ z ∈ before, p z = false) :
    (before ++ x :: after).find? p = some x :=
  List.find?_eq_some_iff_append.2 ⟨is, before, after, rfl, fun z hz => by rw [first z hz]; rfl⟩

/-- R198: among records that do not block, the oldest so far is younger than the one that comes to be the oldest. -/
theorem olderOpen_younger {n : Nat} (l : List FaultRec) (younger : ∀ z ∈ l, z.blocking = false → n < z.first) :
    ∀ b, l.foldl olderOpen none = some b → n < b.first := by
  refine List.foldlRecOn (motive := fun b => ∀ y : FaultRec, b = some y → n < y.first) l _ (fun _ q => nomatch q)
    fun b w a ha y hy => ?_
  rcases olderOpen_cases b a with q | ⟨q, free⟩
  · exact w y (q.symm.trans hy)
  · exact Option.some.inj (q.symm.trans hy) ▸ younger a ha free

theorem olderOpen_stays (l : List FaultRec) (older : ∀ z ∈ l, z.blocking = false → x.first ≤ z.first) :
    l.foldl olderOpen (some x) = some x := by
  refine List.foldlRecOn (motive := (· = some x)) l _ rfl fun b w a ha => ?_
  subst w
  unfold olderOpen
  split
  · rfl
  · next free => exact if_neg (Nat.not_lt.2 (older a ha (Bool.eq_false_iff.2 free)))

theorem oldestOpen_first (free : x.blocking = false) (early : ∀ z ∈ before, z.blocking = false → x.first < z.first)
    (late : ∀ z ∈ after, z.blocking = false → x.first ≤ z.first) : oldestOpen (before ++ x :: after) = some x := by
  have fold : oldestOpen (before ++ x :: after) = (before ++ x :: after).foldl olderOpen none := rfl
  have takes : olderOpen (before.foldl olderOpen none) x = some x := by
    cases best : before.foldl olderOpen none with
    | none => simp [olderOpen, free]
    | some b => simp [olderOpen, free, olderOpen_younger before early b best]
  rw [fold, List.foldl_append, List.foldl_cons, takes, olderOpen_stays after late]

/-- R194: a new record takes the next number when no record holds it. -/
theorem addRecord_fresh {sec : Seconds} {b : Bool} {d : Option Nat} (fresh : ∀ z ∈ h.faults.recs, z.seq ≠ h.faults.next) :
    addRecord sec r b d h =
      { h with
        faults := { h.faults with
          recs := h.faults.recs ++ [⟨h.faults.next, r.kind, r.src, b, 1, sec, sec, r.occ, r.freq, r.detail⟩]
          next := if 65535 ≤ h.faults.next then 1 else h.faults.next + 1 }
        emit := h.emit ++ [.fault ⟨h.faults.next, r.kind, r.src, b, 1, sec, sec, r.occ, r.freq, r.detail⟩ (.new d)] } := by
  have free : freeSeq h.faults.recs (h.faults.recs.length + 1) h.faults.next = h.faults.next := by
    unfold freeSeq
    rw [if_neg (by simpa using fresh)]
  unfold addRecord
  rw [free]
  rfl

/-- The report finds its record by kind and source. -/
def Report.names (r : Report) (x : FaultRec) : Bool := decide (x.kind = r.kind) && decide (x.src = r.src)

theorem Report.names_iff : r.names x = true ↔ x.kind = r.kind ∧ x.src = r.src := by
  rw [Report.names, Bool.and_eq_true, decide_eq_true_eq, decide_eq_true_eq]

theorem report_found (found : h.faults.recs.find? r.names = some x) :
    report e r h =
      { h with faults := { h.faults with recs := h.faults.recs.map fun (z : FaultRec) =>
                 if z.seq = x.seq then x.coalesce e.sec r (x.blocking || (r.kind.canBlock && !blocked h r.src)) else z } }.note
        (.fault (x.coalesce e.sec r (x.blocking || (r.kind.canBlock && !blocked h r.src)))
          (if (x.blocking || (r.kind.canBlock && !blocked h r.src)) && !x.blocking then .blocking else .repeated)) := by
  change h.faults.recs.find? (fun z => decide (z.kind = r.kind) && decide (z.src = r.src)) = some x at found
  unfold report
  rw [found]
  rfl

section
variable (unknown : ∀ z ∈ h.faults.recs, ¬ (z.kind = r.kind ∧ z.src = r.src))
include unknown

theorem names_unknown : h.faults.recs.find? (fun z => decide (z.kind = r.kind) && decide (z.src = r.src)) = none :=
  List.find?_eq_none.2 fun z hz q => unknown z hz (Report.names_iff.1 q)

theorem report_room (room : h.faults.recs.length < Config.maxFaults) :
    report e r h = addRecord e.sec r (r.kind.canBlock && !blocked h r.src) none h := by
  unfold report
  rw [names_unknown unknown]
  exact if_pos room

theorem report_lost (full : ¬ h.faults.recs.length < Config.maxFaults) (calm : (r.kind.canBlock && !blocked h r.src) = false) :
    report e r h = { h with faults := { h.faults with overflow := true } }.note (.faultLost r.kind r.src) := by
  unfold report
  rw [names_unknown unknown]
  dsimp only
  rw [if_neg full, calm]
  rfl

/-- R198: a new record that blocks takes the place of the oldest one that does not. -/
theorem report_displaces {old : FaultRec} (full : ¬ h.faults.recs.length < Config.maxFaults)
    (blocks : (r.kind.canBlock && !blocked h r.src) = true) (oldest : oldestOpen h.faults.recs = some old) :
    report e r h = addRecord e.sec r true (some old.seq) { h with faults := { h.faults with
      recs := h.faults.recs.filter fun (z : FaultRec) => decide (z.seq ≠ old.seq), overflow := true } } := by
  unfold report
  rw [names_unknown unknown]
  dsimp only
  rw [if_neg full, blocks, oldest]
  rfl

end

/-- R201: no record blocks the resource, and none of its records is of a blocking kind, or one blocks it already. -/
theorem carryBlock_none (w : (∃ y ∈ h.faults.recs, y.blocking = true ∧ y.src = s) ∨
    ∀ y ∈ h.faults.recs, ¬ (y.src = s ∧ y.kind.canBlock = true)) : carryBlock s h = h := by
  unfold carryBlock
  rcases w with held | free
  · rw [if_pos (blocked_iff.2 held)]
  · have none : nextBlock h s = none := List.find?_eq_none.2 fun z hz q => free z hz (by simpa [and_comm] using q)
    rw [none]
    exact ite_self h

theorem carryBlock_first (free : ∀ z ∈ h.faults.recs, z.blocking = true → z.src ≠ s)
    (next : nextBlock h s = some x) : carryBlock s h =
      { h with faults := { h.faults with recs := h.faults.recs.map fun (z : FaultRec) =>
                 if z.seq = x.seq then { x with blocking := true } else z } }.note (.fault { x with blocking := true } .blocking) := by
  have no : ¬ blocked h s = true := fun q => by
    obtain ⟨z, hz, b, is⟩ := blocked_iff.1 q
    exact free z hz b is
  unfold carryBlock
  rw [if_neg no, next]

/-! ### What the release of a transmitter leaves -/

@[simp] theorem emptyWindow_tx : (emptyWindow t h).tx[t] = { h.tx[t] with window := [] } := by
  simp [emptyWindow, windowLeave]

@[simp] theorem emptyWindow_mode : (emptyWindow t h).mode = h.mode := rfl
@[simp] theorem emptyWindow_adopt : (emptyWindow t h).adopt = h.adopt := rfl

/-- R202: the hall of which the released transmitter's state is derived. -/
def released (t : Tx) (h : Hall) : Hall := (emptyWindow t h).setTx t fun r => { r with rcv := Recovery.idle }

@[simp] theorem released_tx : (released t h).tx[t] = { h.tx[t] with window := [], rcv := Recovery.idle } := by
  unfold released Hall.setTx
  rw [get_upd, if_pos rfl, emptyWindow_tx]

theorem releaseTx_eq : releaseTx e t h = { leaveLockout e t (released t h) with alloc := true } := rfl

theorem leaveLockout_unreachable {g : Hall} (w : (g.tx[t]).contact = false ∨ (g.tx[t]).cond = none) :
    leaveLockout e t g = setTxState t .unreachable .trip (g.setTx t fun r => { r with before := none }) := by
  unfold leaveLockout
  exact if_pos (by simpa using w)

variable {g : Hall} {c : CabReply}

theorem leaveLockout_absent (contact : (g.tx[t]).contact = true) (cond : (g.tx[t]).cond = some c)
    (undef : (g.tx[t]).undef = true) : leaveLockout e t g = goAbsent t .trip g := by
  unfold leaveLockout
  dsimp only
  rw [contact, cond, undef]
  rfl

theorem leaveLockout_rederive (contact : (g.tx[t]).contact = true) (cond : (g.tx[t]).cond = some c)
    (undef : (g.tx[t]).undef = false) : leaveLockout e t g = rederive e t none .trip g := by
  unfold leaveLockout
  dsimp only
  rw [contact, cond, undef]
  rfl

/-- R138: the branches of a re-derivation with no state before loss. -/
theorem rederive_unjudged {cause : TxCause} {b : Option TxState} (cond : (g.tx[t]).cond = some c)
    (un : unjudged g t = true) : rederive e t b cause g = setTxState t (derive c) cause g := by
  unfold rederive
  rw [cond]
  exact if_pos un

variable {cause : TxCause} (cond : (g.tx[t]).cond = some c) (un : unjudged g t = false)
include cond un

theorem rederive_local {b : Option TxState} (loc : c.loc = true) : rederive e t b cause g =
    overtakePend t (fun _ => true) (overtakeOut t (fun o => !o.lowerSent) (setTxState t .isLocal cause g)) := by
  unfold rederive
  rw [cond]
  simp [un, derive, loc]

theorem rederive_radiating (loc : c.loc = false) (rad : isRad (condState c.cond) = true) :
    rederive e t none cause g = rfUnexpected e t (setTxState t .lowering cause g) := by
  have away : condState c.cond ≠ .isLocal := fun q => by rw [q] at rad; cases rad
  unfold rederive
  rw [cond]
  simp [un, derive, loc, rad, away]

theorem rederive_tripped {x : CabTrip} (loc : c.loc = false) (trip : c.cond = .tripped x) :
    rederive e t none cause g = tripUncounted e t cause g := by
  unfold rederive
  rw [cond]
  simp [un, derive, loc, trip, condState, isRad]

theorem rederive_plain (loc : c.loc = false) (rad : isRad (condState c.cond) = false) (calm : condState c.cond ≠ .tripped) :
    rederive e t none cause g = setTxState t (condState c.cond) cause g := by
  have away : condState c.cond ≠ .isLocal := by cases c.cond <;> simp [condState]
  unfold rederive
  rw [cond]
  simp [un, derive, loc, rad, away, calm]

end
end Sys2Proof.Machine

namespace Sys2Proof.Proofs

set_option Elab.async false
section
open Machine

/-- Settles O53: the report rule by the record it finds and the room it has, the carry of a blocking record by the first that can
block, the release by the branches of `leaveLockout` and of the re-derivation it ends in. -/
theorem faultReports : Obligations.FaultReports := by
  unfold Obligations.FaultReports
  dsimp only
  refine ⟨fun e r h => ⟨fun unknown room fresh => ⟨_, blocksNow_iff, ?_⟩,
    fun before x after split same early once => ⟨x.blocking || (r.kind.canBlock && !blocked h r.src), ?_, ?_⟩,
    fun unknown full calm => ?_, fun before old after unknown full blocks split free early late once fresh => ?_⟩,
    fun s h => ⟨fun w => ?_, fun before y after free split can early once => ?_⟩, fun e t h => ⟨emptyWindow_tx, ?_, ?_⟩⟩
  case refine_1 =>
    rw [report_room unknown room, addRecord_fresh fresh]
  case refine_2 =>
    rw [Bool.or_eq_true, blocksNow_iff]
  case refine_3 =>
    have found : h.faults.recs.find? r.names = some x := by
      rw [split]
      exact find?_first (Report.names_iff.2 same) fun y hy => Bool.eq_false_iff.2 (mt Report.names_iff.1 (early y hy))
    rw [split] at once
    rw [report_found found, split, map_seq_replace once]
    simp only [Hall.note, FaultRec.coalesce, Bool.and_eq_true, Bool.not_eq_true']
  case refine_4 =>
    rw [report_lost unknown (Nat.not_lt.2 full) (Bool.eq_false_iff.2 (mt blocksNow_iff.1 calm))]
    rfl
  case refine_5 =>
    have oldest : oldestOpen h.faults.recs = some old := split ▸ oldestOpen_first free early late
    rw [split] at once
    have kept : (h.faults.recs.filter fun z => decide (z.seq ≠ old.seq)) = before ++ after := split ▸ filter_seq_remove once
    rw [report_displaces unknown (Nat.not_lt.2 full) (blocksNow_iff.2 blocks) oldest, kept]
    refine addRecord_fresh fun z hz => fresh z ?_
    rw [split]
    exact (List.mem_append.1 hz).elim (List.mem_append_left _) fun w => List.mem_append_right _ (List.mem_cons_of_mem _ w)
  case refine_6 =>
    simp only [← FaultKind.canBlock_iff] at w
    exact carryBlock_none w
  case refine_7 =>
    simp only [← FaultKind.canBlock_iff] at can early
    have next : nextBlock h s = some y := by
      unfold nextBlock
      rw [split]
      refine find?_first (by simp [can]) fun z hz => Bool.eq_false_iff.2 fun q => early z hz ?_
      simpa [and_comm] using q
    rw [split] at once
    rw [carryBlock_first free next, split, map_seq_replace once]
    rfl
  case refine_8 =>
    intro lost
    rw [releaseTx_eq, leaveLockout_unreachable (by rwa [released_tx])]
    rfl
  case refine_9 =>
    intro c contact cond
    have made : ((released t h).tx[t]).contact = true := by rwa [released_tx]
    have reply : ((released t h).tx[t]).cond = some c := by rwa [released_tx]
    refine ⟨fun undef => ?_, fun undef => ?_⟩
    · rw [releaseTx_eq, leaveLockout_absent made reply (by rwa [released_tx])]
      rfl
    have judged (w : ¬ (h.mode = .adopting ∧ (h.adopt[t]).judged = false)) : unjudged (released t h) t = false :=
      Bool.eq_false_iff.2 (mt unjudged_iff.1 w)
    rw [releaseTx_eq, leaveLockout_rederive made reply (by rwa [released_tx])]
    refine ⟨fun w => ?_, fun w loc => ?_, fun w loc rad => ?_, fun x w loc trip => ?_, fun w loc rad calm => ?_⟩
    · rw [rederive_unjudged reply (unjudged_iff.2 w)]
      rfl
    · rw [rederive_local reply (judged w) loc]
      rfl
    · rw [rederive_radiating reply (judged w) loc rad]
      rfl
    · rw [rederive_tripped reply (judged w) loc trip]
      rfl
    · rw [rederive_plain reply (judged w) loc rad calm]
      rfl

end
end Sys2Proof.Proofs

namespace Sys2Proof.Machine

set_option Elab.async false
section
variable {h : Hall} {e : Env} {t : Tx} {a : Asg} {s : State} {p : OrderKind → Bool}

/-! ### Recovery settings and trip windows -/

/-- R164: the ranges of the recovery settings. -/
theorem recoveryOk_iff {delay retries window foldback : Option Nat} : recoveryOk delay retries window foldback = true ↔
    (∀ x, delay = some x → 2 ≤ x ∧ x ≤ 120) ∧ (∀ x, retries = some x → x ≤ 7) ∧
    (∀ x, window = some x → 1 ≤ x ∧ x ≤ 60) ∧ ∀ x, foldback = some x → 50 ≤ x ∧ x ≤ 100 := by
  simp [recoveryOk, and_assoc]

theorem mapAsg_eq {f : Asg → Asg} : h.mapAsg t f = h.setAsg t ((h.asg[t]).map f) :=
  congrArg (fun l => { h with asg := l }) (upd_congr _ _ rfl)

/-- R167: entries that leave a trip window take their readings out of the assignment's trip times. -/
theorem windowLeave_eq {out : List TripEntry} : windowLeave t out h = h.setAsg t ((h.asg[t]).map fun a =>
    { a with tripTimes := out.foldl (fun l w => l.erase w.clock) a.tripTimes }) :=
  mapAsg_eq

theorem expireWindow_eq : expireWindow e t h =
    (windowLeave t ((h.tx[t]).window.filter fun w => decide (w.at_ + e.k.rcv.window * 60000 ≤ e.now)) h).setTx t fun r =>
      { r with window := r.window.filter fun w => !decide (w.at_ + e.k.rcv.window * 60000 ≤ e.now) } :=
  setTx_congr rfl

theorem expireWindow_tx_same : (expireWindow e t h).tx[t] = { h.tx[t] with
      window := (h.tx[t]).window.filter fun w => decide (e.now < w.at_ + e.k.rcv.window * 60000) } := by
  rw [expireWindow_eq]
  unfold Hall.setTx
  rw [get_upd, if_pos rfl]
  simp only [← decide_not, Nat.not_le]
  rfl

theorem expireWindow_tx_other {u : Tx} (w : u ≠ t) : (expireWindow e t h).tx[u] = h.tx[u] := by
  rw [expireWindow_eq]
  unfold Hall.setTx
  rw [get_upd, if_neg w.symm]
  rfl

/-- R169: the delay that passes. -/
theorem recoveryDelayExpiry_due {x : Ms} (waiting : (h.tx[t]).rcv.stage = .waiting) (delay : (h.tx[t]).rcv.expiry = some x)
    (due : x ≤ e.now) : recoveryDelayExpiry t e h = h.setTx t fun r => { r with rcv := { r.rcv with expiry := none } } := by
  unfold recoveryDelayExpiry
  exact if_pos (by rw [waiting, delay]; simpa using due)

theorem recoveryDelayExpiry_idle (w : ¬ ((h.tx[t]).rcv.stage = .waiting ∧ ∃ x, (h.tx[t]).rcv.expiry = some x ∧ x ≤ e.now)) :
    recoveryDelayExpiry t e h = h := by
  unfold recoveryDelayExpiry
  exact if_neg (by simpa [Option.any_eq_true] using w)

/-! ### A refusal by the Frequency Check -/

theorem report_asg {r : Report} : (report e r h).asg = h.asg := by
  obtain ⟨f, em, eq⟩ := report_hall (e := e) (r := r) (h := h)
  rw [eq]

theorem endRefused_eq (is : h.asg[t] = some a) :
    endRefused e t h = endAsg e t (if a.sched.isNone = true then .aborted else .failed) .nothing h := by
  unfold endRefused
  rw [is]
  rfl

/-- R85, R211: the record and the end of a refused assignment, by its source. -/
theorem refuseAsg_eq {p : CheckPoint} {ans : CheckAnswer} (is : h.asg[t] = some a) : refuseAsg e t p ans h =
    match a.sched with
    | some x => endAsg e t .failed .nothing (report e
        ⟨.excludedAtAdmission, .schedule, some x.occ, some a.eff.freq, some (.excluded p ans)⟩ h)
    | none => endAsg e t .aborted .nothing (report e
        ⟨.foreignCarrier, .tx t, none, some a.eff.freq, some (.foreign .excluded (some ans))⟩ h) := by
  have same {r : Report} : (report e r h).asg[t] = some a := by rw [report_asg, is]
  cases src : a.sched with
  | some x =>
    have record : reportRefusal e t p ans h = reportExcluded e x.occ a.eff.freq p ans h := by
      unfold reportRefusal
      rw [is]
      dsimp only
      rw [src]
    unfold refuseAsg
    rw [record, reportExcluded, endRefused_eq same, src]
    rfl
  | none =>
    have record : reportRefusal e t p ans h = report e
        ⟨.foreignCarrier, .tx t, none, some a.eff.freq, some (.foreign .excluded (some ans))⟩ h := by
      unfold reportRefusal
      rw [is]
      dsimp only
      rw [src]
    unfold refuseAsg
    rw [record, endRefused_eq same, src]
    rfl

/-! ### The retry -/

theorem inHand_iff {r : TxRec} : r.inHand p = true ↔
    (∃ o, r.out = some o ∧ p o.kind = true) ∨ ∃ o, r.pend = some o ∧ p o.kind = true := by
  unfold TxRec.inHand
  rw [Bool.or_eq_true, Option.any_eq_true, Option.any_eq_true]

theorem OrderKind.isRaise_iff {k : OrderKind} : k.isRaise = true ↔ ∃ kw, k = .raise kw := by
  cases k <;> simp [OrderKind.isRaise]

theorem asgTripped_iff : asgTripped h t = true ↔ ∃ a, h.asg[t] = some a ∧ a.phase = .tripped := by
  simp [asgTripped, Option.any_eq_true]

theorem endWaits_iff : endWaits h t = true ↔ ∃ a, h.asg[t] = some a ∧ a.phase.isEnding = true := by
  unfold endWaits
  rw [Option.any_eq_true]

theorem setRcv_eq {f : Recovery → Recovery} : setRcv t f h = h.setTx t fun r => { r with rcv := f (h.tx[t]).rcv } :=
  setTx_congr rfl

/-- R62: a retry RAISE in hand and not sent whose power is not the assignment's. -/
def StaleRetry (h : Hall) (t : Tx) (a : Asg) : Prop :=
  ∃ o, ((h.tx[t]).out = some o ∨ (h.tx[t]).pend = some o) ∧ o.unsentRaise = true ∧ o.kind ≠ .raise a.eff.power

theorem staleRetry_iff : StaleRetry h t a ↔
    ((h.tx[t]).out.any (fun o => o.unsentRaise && decide (o.kind ≠ .raise a.eff.power)) ||
      (h.tx[t]).pend.any fun o => o.unsentRaise && decide (o.kind ≠ .raise a.eff.power)) = true := by
  simp only [StaleRetry, Bool.or_eq_true, Option.any_eq_true, Bool.and_eq_true, decide_eq_true_eq, or_and_right, exists_or]

theorem repowerRetry_idle {viaHold : Bool} (w : ¬ StaleRetry h t a) : repowerRetry e t viaHold a h = h := by
  rw [staleRetry_iff, Bool.not_eq_true] at w
  unfold repowerRetry
  dsimp only
  rw [w]
  rfl

theorem repowerRetry_stale {viaHold : Bool} (w : StaleRetry h t a) : repowerRetry e t viaHold a h =
    if a.sched ≠ none ∨ viaHold = true → checkParams e.k h t a.eff = .permitted then repower t a.eff.power h
    else refuseAsg e t .raise (checkParams e.k h t a.eff) h := by
  unfold repowerRetry
  dsimp only
  rw [staleRetry_iff.1 w]
  by_cases asked : a.sched ≠ none ∨ viaHold = true
  · have is : (a.sched.isSome || viaHold) = true := by simpa [Option.isSome_iff_ne_none] using asked
    simp [is, asked]
  · have is : (a.sched.isSome || viaHold) = false := by simpa using asked
    simp [is, asked]

theorem refuseRetry_untripped (w : ¬ ∃ a, h.asg[t] = some a ∧ a.phase = .tripped) : refuseRetry e t h = clearRefused e t h := by
  unfold refuseRetry
  exact if_neg (mt asgTripped_iff.1 w)

/-- R169: the recovery IDLE, with its CLEAR-TRIP where T is TRIPPED. -/
theorem clearRefused_eq : clearRefused e t h =
    if (h.tx[t]).st = .tripped then handClear e t (h.setTx t fun r => { r with rcv := Recovery.idle })
    else h.setTx t fun r => { r with rcv := Recovery.idle } := by
  have state : ((setRcv t (fun _ => Recovery.idle) h).tx[t]).st = (h.tx[t]).st := by
    unfold setRcv Hall.setTx
    rw [get_upd, if_pos rfl]
  unfold clearRefused
  dsimp only
  rw [state]
  rfl

theorem askRetry_untripped (w : ¬ ∃ a, h.asg[t] = some a ∧ a.phase = .tripped) : askRetry e t h = clearRefused e t h := by
  rw [← refuseRetry_untripped w]
  unfold askRetry
  cases is : h.asg[t] with
  | none => rfl
  | some a => exact if_pos (by simp [show a.phase ≠ .tripped from fun q => w ⟨a, is, q⟩])

theorem foldRetry_sched : (foldRetry e t a h).sched = a.sched := by
  unfold foldRetry
  split <;> rfl

/-- R85, R169: the answer a retry RAISE gets: that of the Frequency Check for a SCHEDULE assignment. -/
def retryAnswer (e : Env) (t : Tx) (a : Asg) (h : Hall) : CheckAnswer :=
  if a.sched.isSome = true then checkParams e.k h t (foldRetry e t a h).eff else .permitted

section
variable (is : h.asg[t] = some a) (tripped : a.phase = .tripped)
include is tripped

theorem askRetry_past (past : ∃ x, a.sched = some x ∧ x.stop ≤ e.min) :
    askRetry e t h = h.setTx t fun r => { r with rcv := { Recovery.idle with owed := true } } := by
  have refused : askRetry e t h = refuseRetry e t h := by
    unfold askRetry
    rw [is]
    exact if_pos (by simpa [tripped, Option.any_eq_true] using past)
  rw [refused]
  unfold refuseRetry
  rw [if_pos (asgTripped_iff.2 ⟨a, is, tripped⟩)]
  rfl

theorem askRetry_due (due : ¬ ∃ x, a.sched = some x ∧ x.stop ≤ e.min) : askRetry e t h =
    if retryAnswer e t a h = .permitted then
      handRetry e t (foldRetry e t a h).eff.power (h.setAsg t (some { foldRetry e t a h with raise := .asked }))
    else setRcv t (fun r => { r with failing := true })
      (refuseAsg e t .raise (retryAnswer e t a h) (h.setAsg t (some (foldRetry e t a h)))) := by
  have going : (decide (a.phase ≠ .tripped) || a.sched.any fun s => decide (s.stop ≤ e.min)) = false := by
    rw [← Bool.not_eq_true]
    simpa [tripped, Option.any_eq_true] using due
  have same {p : Params} : checkParams e.k (h.setAsg t (some (foldRetry e t a h))) t p = checkParams e.k h t p :=
    checkParams_congr rfl
  unfold askRetry retryAnswer
  rw [is]
  dsimp only
  rw [going, if_neg Bool.false_ne_true, same, mapAsg_setAsg, foldRetry_sched]

end

/-- R169: the hand of a retry RAISE by the transmitter's state. -/
theorem handRetry_tripped {kw : Nat} (w : (h.tx[t]).st = .tripped) : handRetry e t kw h =
    (makePending t (Order.mk0 (.raise kw) true false) (handClear e t h)).setTx t fun r =>
      { r with rcv := { r.rcv with stage := .clearing } } := by
  unfold handRetry
  rw [w]
  rfl

theorem handRetry_ready {kw : Nat} (w : (h.tx[t]).st = .ready) : handRetry e t kw h =
    handOrder e t (.raise kw) (h.setTx t fun r => { r with rcv := { r.rcv with stage := .retrying } }) := by
  unfold handRetry
  rw [w]
  rfl

theorem handRetry_elsewhere {kw : Nat} (tripped : (h.tx[t]).st ≠ .tripped) (ready : (h.tx[t]).st ≠ .ready) :
    handRetry e t kw h = (declineUnsent e t (Order.mk0 (.raise kw) true false) h).setTx t fun r =>
      { r with rcv := Recovery.idle } := by
  unfold handRetry
  split
  · next w => exact absurd w tripped
  · next w => exact absurd w ready
  · rfl

/-- R169: the assignment as a granted retry leaves it. -/
def retried (e : Env) (t : Tx) (a : Asg) (h : Hall) : Hall := h.setAsg t (some { foldRetry e t a h with raise := .asked })

theorem askRetry_granted (is : h.asg[t] = some a) (tripped : a.phase = .tripped)
    (due : ¬ ∃ x, a.sched = some x ∧ x.stop ≤ e.min) (permitted : retryAnswer e t a h = .permitted) :
    ((h.tx[t]).st = .tripped → askRetry e t h =
      (makePending t (Order.mk0 (.raise (foldRetry e t a h).eff.power) true false) (handClear e t (retried e t a h))).setTx t
        fun r => { r with rcv := { r.rcv with stage := .clearing } }) ∧
    ((h.tx[t]).st = .ready → askRetry e t h = handOrder e t (.raise (foldRetry e t a h).eff.power)
      ((retried e t a h).setTx t fun r => { r with rcv := { r.rcv with stage := .retrying } })) ∧
    ((h.tx[t]).st ≠ .tripped → (h.tx[t]).st ≠ .ready → askRetry e t h =
      (declineUnsent e t (Order.mk0 (.raise (foldRetry e t a h).eff.power) true false) (retried e t a h)).setTx t
        fun r => { r with rcv := Recovery.idle }) := by
  have same : (retried e t a h).tx = h.tx := rfl
  have hands : askRetry e t h = handRetry e t (foldRetry e t a h).eff.power (retried e t a h) := by
    rw [askRetry_due is tripped due, if_pos permitted, retried]
  rw [hands, ← same]
  exact ⟨handRetry_tripped, handRetry_ready, handRetry_elsewhere⟩

theorem askRetry_refused (is : h.asg[t] = some a) (tripped : a.phase = .tripped)
    (due : ¬ ∃ x, a.sched = some x ∧ x.stop ≤ e.min) (refused : retryAnswer e t a h ≠ .permitted) :
    askRetry e t h = (refuseAsg e t .raise (retryAnswer e t a h) (h.setAsg t (some (foldRetry e t a h)))).setTx t
      fun r => { r with rcv := { r.rcv with failing := true } } := by
  rw [askRetry_due is tripped due, if_neg refused, setRcv]

/-! ### The recovery's moves by its stage -/

theorem recoveryStep_idle (w : (h.tx[t]).rcv.stage = .idle) : recoveryStep e t h =
    if (h.tx[t]).rcv.owed && !asgTripped h t then some (clearRefused e t h) else none := by
  unfold recoveryStep
  dsimp only
  rw [w]

theorem recoveryStep_stopping (w : (h.tx[t]).rcv.stage = .stopping) : recoveryStep e t h =
    if carrierDown h.tx[t] = true then some (startWait e t h) else none := by
  unfold recoveryStep
  dsimp only
  rw [w]

theorem recoveryStep_waiting (w : (h.tx[t]).rcv.stage = .waiting) (passed : (h.tx[t]).rcv.expiry = none)
    (contact : (h.tx[t]).st ≠ .unreachable) (fresh : (h.tx[t]).rcv.rfpWait = false) :
    recoveryStep e t h = some (decideRetry e t h) := by
  unfold recoveryStep
  dsimp only
  rw [w]
  exact if_neg (by rw [passed, fresh]; simpa using contact)

theorem recoveryStep_asking (w : (h.tx[t]).rcv.stage = .asking) : recoveryStep e t h =
    if (h.tx[t]).rcv.failing = true then if endWaits h t = true then none else some (clearRefused e t h)
    else if retryWaits h t = true then none else some (askRetry e t h) := by
  unfold recoveryStep
  dsimp only
  rw [w]

theorem recoveryStep_clearing (w : (h.tx[t]).rcv.stage = .clearing) : recoveryStep e t h =
    if (h.tx[t]).inHand (fun k => decide (k = .clearTrip)) = true then none
    else if (h.tx[t]).inHand OrderKind.isRaise = true then some (setRcv t (fun r => { r with stage := .retrying }) h)
    else some (setRcv t (fun _ => Recovery.idle) h) := by
  unfold recoveryStep
  dsimp only
  rw [w]

theorem recoveryStep_retrying (w : (h.tx[t]).rcv.stage = .retrying) : recoveryStep e t h =
    if (h.tx[t]).inHand OrderKind.isRaise = true then none else some (setRcv t (fun _ => Recovery.idle) h) := by
  unfold recoveryStep
  dsimp only
  rw [w]

/-- R168: LOCAL sets the recovery IDLE. -/
theorem setTxState_local_rcv {c : TxCause} (w : (h.tx[t]).st ≠ .isLocal) :
    ((setTxState t .isLocal c h).tx[t]).rcv = Recovery.idle := by
  have tx : (setTxState t .isLocal c h).tx = (h.setTx t (TxRec.restated .isLocal)).tx := by
    rw [setTxState_eq, if_neg w]
    split <;> rfl
  rw [tx]
  unfold Hall.setTx
  rw [get_upd, if_pos rfl]
  rfl

end
end Sys2Proof.Machine

namespace Sys2Proof.Proofs

set_option Elab.async false
section
open Machine

theorem recoverySet_answers (tag : Nat) (delay retries window foldback : Option Nat) (s : State) (w : s.takes tag) :
    (recoveryOk delay retries window foldback = false →
      Answers (.recoverySet tag delay retries window foldback) s tag .recoverySet .range .nothing) ∧
    (recoveryOk delay retries window foldback = true → TakenOk (.recoverySet tag delay retries window foldback) s
      ((s.setTables fun k => { k with rcv := k.rcv.edit delay retries window foldback }).onHall recoveryEdited)
      tag .recoverySet) := by
  refine ⟨fun bad => refused_request w rfl ?_, fun good => takenOk_request w rfl ?_⟩
  · unfold recoverySet
    rw [bad]
    rfl
  · unfold recoverySet
    rw [good]
    rfl

/-- Settles O49, from what each function of the recovery does in each of its cases. -/
theorem recoverySettingsAndTimes : Obligations.RecoverySettingsAndTimes := by
  unfold Obligations.RecoverySettingsAndTimes
  refine ⟨fun tag delay retries window foldback s w => ?set, fun e t h => ⟨?expire, rfl, rfl⟩, fun t s => ⟨rfl, ?entry, ?delay⟩,
    fun e t viaHold a h => ?repower, fun t e h waiting passed contact fresh => ?decide, fun t e h a is tripped => ?ask,
    fun t e h => ?later, fun t e h => ⟨?idle, ?asking, fun c away => setTxState_local_rcv away⟩⟩
  case set =>
    obtain ⟨bad, good⟩ := recoverySet_answers tag delay retries window foldback s w
    refine ⟨fun q => bad (Bool.eq_false_iff.2 (mt recoveryOk_iff.1 q)), fun q => good (recoveryOk_iff.2 q)⟩
  case expire =>
    rw [expireWindow_eq, windowLeave_eq]
  case entry =>
    refine ⟨expireWindow s.env t s.hall, rfl, ?_, fun u w => expireWindow_tx_other w, ?_⟩
    · rw [expireWindow_tx_same]
      rfl
    · rw [expireWindow_tx_same]
  case delay =>
    refine ⟨fun x waiting delay due => ?_, fun w => ?_⟩
    · exact completes_happen rfl (congrArg (fun h => { s with hall := h })
        (recoveryDelayExpiry_due (e := s.env) waiting delay due))
    · exact completes_happen rfl (congrArg (fun h => { s with hall := h }) (recoveryDelayExpiry_idle (e := s.env) w))
  case repower =>
    refine ⟨fun w => repowerRetry_idle w, fun w pass => ?_, fun w asked refused is => ?_⟩
    · rw [repowerRetry_stale w, if_pos fun q => pass.resolve_left (not_not.2 q)]
      rfl
    · rw [repowerRetry_stale w, if_neg fun q => refused (q asked)]
      exact refuseAsg_eq is
  case decide =>
    rw [recoveryStep_waiting waiting passed contact fresh]
    unfold decideRetry
    refine ⟨fun many => ?_, fun few active => ?_, fun few inactive => ?_⟩
    · rw [if_pos many]
    · rw [if_neg (Nat.not_lt.2 few), if_pos active]
      rfl
    · rw [if_neg (Nat.not_lt.2 few), if_neg (Bool.eq_false_iff.1 inactive)]
      rfl
  case ask =>
    exact ⟨askRetry_past is tripped, askRetry_granted is tripped, askRetry_refused is tripped⟩
  case later =>
    have raise : (h.tx[t]).inHand OrderKind.isRaise = true ↔ (∃ o, (h.tx[t]).out = some o ∧ ∃ kw, o.kind = .raise kw) ∨
        ∃ o, (h.tx[t]).pend = some o ∧ ∃ kw, o.kind = .raise kw := by
      simp only [inHand_iff, OrderKind.isRaise_iff]
    have clear : (h.tx[t]).inHand (fun k => decide (k = .clearTrip)) = true ↔
        (∃ o, (h.tx[t]).out = some o ∧ o.kind = .clearTrip) ∨ ∃ o, (h.tx[t]).pend = some o ∧ o.kind = .clearTrip := by
      simp only [inHand_iff, decide_eq_true_eq]
    dsimp only
    rw [← raise, ← clear]
    refine ⟨fun w => ?_, fun w => ?_, fun w => ?_⟩
    · rw [recoveryStep_stopping w, startWait, setRcv_eq]
      exact ⟨fun down => if_pos down, fun up => if_neg (Bool.eq_false_iff.1 up)⟩
    · rw [recoveryStep_clearing w, setRcv_eq, setRcv_eq]
      exact ⟨fun c => if_pos c, fun c => ⟨fun r => (if_neg c).trans (if_pos r), fun r => (if_neg c).trans (if_neg r)⟩⟩
    · rw [recoveryStep_retrying w, setRcv_eq]
      exact ⟨fun r => if_pos r, fun r => if_neg r⟩
  case idle =>
    intro w
    rw [recoveryStep_idle w, clearRefused_eq]
    refine ⟨fun owed untripped => ?_, fun q => ?_⟩
    · exact if_pos (by rw [owed, Bool.eq_false_iff.2 (mt asgTripped_iff.1 untripped)]; rfl)
    · refine if_neg fun x => ?_
      rw [Bool.and_eq_true, Bool.not_eq_true'] at x
      exact q.elim (Bool.eq_false_iff.1 · x.1) fun tripped => Bool.eq_false_iff.1 x.2 (asgTripped_iff.2 tripped)
  case asking =>
    intro w
    dsimp only
    rw [recoveryStep_asking w, ← asgTripped_iff, ← endWaits_iff, ← clearRefused_eq]
    refine ⟨fun failing ending => ?_, fun failing ended => ?_, fun going frz tripped => ?_, fun going unfrozen tripped => ?_,
      fun going untripped => ?_⟩
    · rw [if_pos failing, if_pos ending]
    · rw [if_pos failing, if_neg ended]
    · rw [if_neg (Bool.eq_false_iff.1 going), retryWaits, frz, tripped]
      rfl
    · rw [if_neg (Bool.eq_false_iff.1 going), retryWaits, unfrozen]
      rfl
    · rw [if_neg (Bool.eq_false_iff.1 going), retryWaits, Bool.eq_false_iff.2 untripped, Bool.and_false,
        askRetry_untripped (mt asgTripped_iff.2 untripped)]
      rfl

end
end Sys2Proof.Proofs

namespace Sys2Proof.Machine

set_option Elab.async false

/-- From `g` to `h` the hold records and the idle timers stay. -/
structure Lasts (g h : Hall) : Prop where
  holds : h.holds = g.holds
  idle : h.idle = g.idle

section
variable {d : Tx → Prop} {g h k : Hall} {e : Env} {t u : Tx} {o : Out} {a : Asg}

namespace Lasts

theorem refl (h : Hall) : Lasts h h := ⟨rfl, rfl⟩

theorem trans (x : Lasts g h) (y : Lasts h k) : Lasts g k := ⟨y.holds.trans x.holds, y.idle.trans x.idle⟩

theorem quiet (x : Lasts g h) (y : Quiet d h k) : Lasts g k := x.trans ⟨y.holds, y.idle⟩

theorem ite {c : Prop} [Decidable c] {a b : Hall} (x : Lasts g a) (y : Lasts g b) : Lasts g (if c then a else b) := by
  split <;> assumption

theorem each {α : Type} {l : List α} {f : α → Hall → Hall} (x : Lasts g h) (y : ∀ {a k}, Lasts g k → Lasts g (f a k)) :
    Lasts g (h.each l f) := by
  induction l generalizing h with
  | nil => exact x
  | cons a l ih => exact ih (y x)

/-- An update of what the relation does not speak of. -/
theorem plain (x : Lasts g h) (holds : k.holds = h.holds := by rfl) (idle : k.idle = h.idle := by rfl) : Lasts g k :=
  x.trans ⟨holds, idle⟩

protected theorem report {r : Report} (x : Lasts g h) : Lasts g (report e r h) := by
  obtain ⟨f, em, eq⟩ := report_hall (e := e) (r := r) (h := h)
  rw [eq]
  exact x.plain

protected theorem outAvailable (x : Lasts g h) : Lasts g (outAvailable o h) := ite x.plain x

protected theorem release (x : Lasts g h) : Lasts g (release o h) := x.plain.outAvailable

protected theorem passClaim (x : Lasts g h) : Lasts g (passClaim t o h) := by
  unfold passClaim
  split
  · exact x.plain
  · exact x.release

protected theorem endGiven (x : Lasts g h) : Lasts g (endGiven t h) :=
  (x.each (l := claims h t) (f := passClaim t) fun y => y.passClaim).plain

/-- The completion of an end, whatever becomes of its occurrence. -/
protected theorem completeEnd (x : Lasts g h) : Lasts g (completeEnd e t h) := by
  cases ha : h.asg[t] with
  | none =>
    unfold completeEnd
    rw [ha]
    exact x
  | some a =>
    cases hp : a.phase with
    | ending oc after =>
      obtain ⟨st, al, bs, em, pushed⟩ := endPushed_hall (e := e) (t := t) (it := a.item t) (after := after) (h := h)
      have y : Lasts g (endGiven t (endPushed e t (a.item t) after h)) := by
        rw [pushed]
        exact (x.plain (k := { h with stack := st, alloc := al, banks := bs, emit := em })).endGiven
      rw [completeEnd_eq ha hp]
      generalize endGiven t (endPushed e t (a.item t) after h) = m at y
      obtain ⟨f, b, em', listed⟩ := endListed_hall (e := e) (it := a.item t) (after := after)
        (h := m.note (endNotice t a oc after))
      rw [listed]
      exact y.plain
    | _ =>
      unfold completeEnd
      rw [ha]
      dsimp only
      rw [hp]
      exact x

protected theorem tryEnd (x : Lasts g h) : Lasts g (tryEnd e t h) := by
  unfold tryEnd
  split
  · exact x
  · exact ite x (ite x.completeEnd (ite x (x.quiet ((Quiet.refl (fun _ => True) h).handLower trivial))))

protected theorem endAsg {oc : EndOutcome} {after : After} (x : Lasts g h) : Lasts g (endAsg e t oc after h) := by
  cases ha : h.asg[t] with
  | none =>
    unfold endAsg
    rw [ha]
    exact x
  | some a =>
    cases hp : a.phase.isEnding with
    | true =>
      rw [endAsg_ending ha hp]
      exact x
    | false =>
      rw [endAsg_begun ha hp]
      exact (x.quiet endBegun_quiet).tryEnd

protected theorem takeOff (x : Lasts g h) : Lasts g (takeOff e t o h) := x.endAsg

protected theorem refuseAsg {p : CheckPoint} {ans : CheckAnswer} (x : Lasts g h) : Lasts g (refuseAsg e t p ans h) := by
  cases is : h.asg[t] with
  | none =>
    have none : refuseAsg e t p ans h = h := by
      unfold refuseAsg reportRefusal
      rw [is]
      dsimp only
      unfold endRefused endAsg
      rw [is]
    rw [none]
    exact x
  | some a =>
    rw [refuseAsg_eq is]
    split <;> exact x.report.endAsg

protected theorem withdrawRaise (x : Lasts g h) : Lasts g (withdrawRaise t h) := x.plain

protected theorem repowerRetry {viaHold : Bool} (x : Lasts g h) : Lasts g (repowerRetry e t viaHold a h) :=
  ite x (ite x.plain x.refuseAsg)

protected theorem displace (x : Lasts g h) : Lasts g (displace e t o h) := by
  unfold displace
  split
  · exact ite x.endAsg x
  · exact x

protected theorem cancelWaits (x : Lasts g h) : Lasts g (cancelWaits e t o h) := x.each fun y => ite y.takeOff y

protected theorem holdOnForeign {a : Aspect} {on : Bool} (x : Lasts g h) : Lasts g (holdOnForeign e t a on h) := ite x.endAsg x

end Lasts

/-! ### When an assignment may use an output -/

theorem outAvail_iff : outAvail h t o = true ↔
    (outState h o = .free ∨ outState h o = .parked) ∧ ∀ u, reserver h o = some u → u = t := by
  unfold outAvail
  rw [Bool.and_eq_true, Bool.or_eq_true, decide_eq_true_eq, decide_eq_true_eq, Bool.not_eq_true', not_reservedByOther_iff]

theorem outMine_iff : outMine h t o = true ↔
    h.path.owner[o] = some t ∧ outState h o ≠ .faulted ∧ ∀ u, reserver h o = some u → u = t := by
  unfold outMine
  rw [Bool.and_eq_true, Bool.and_eq_true, decide_eq_true_eq, decide_eq_true_eq, Bool.not_eq_true', not_reservedByOther_iff, and_assoc]

theorem outUsable_or : outUsable h t o = true ↔ outMine h t o = true ∨ outAvail h t o = true := by
  unfold outUsable
  rw [Bool.or_eq_true]

/-- R97: an output handed to the engine once it is FREE or PARKED. -/
theorem outAvailable_eq : outAvailable o h =
    if outState h o = .free ∨ outState h o = .parked then { h with alloc := true } else h := by
  unfold outAvailable
  simp only [Bool.or_eq_true, decide_eq_true_eq]
  rfl

/-- R179: the transmitter whose ENDING assignment still claims the output. -/
def endingOwner (h : Hall) (t : Tx) (o : Out) : Option Tx :=
  (h.path.owner[o]).filter fun u => decide (u ≠ t) && (h.asg[u]).any fun b => b.phase.isEnding

theorem endingOwner_iff : endingOwner h t o = some u ↔
    h.path.owner[o] = some u ∧ u ≠ t ∧ ∃ b, h.asg[u] = some b ∧ b.phase.isEnding = true := by
  unfold endingOwner
  rw [Option.filter_eq_some_iff, Bool.and_eq_true, decide_eq_true_eq, Option.any_eq_true]

/-! ### Effective parameters worked out again -/

/-- R62: the old effective output, claimed and not made, is given up (log 24). -/
def gaveUp (t : Tx) (a : Asg) (new : Params) (h : Hall) : Hall :=
  if decide (new.out ≠ a.eff.out) && decide (h.path.owner[a.eff.out] = some t) && decide (madeOut h t ≠ some a.eff.out) then
    release a.eff.out (h.mapAsg t fun a => { a with eff := new })
  else h

/-- R58: the claim of an output that is available. -/
def claimed (t : Tx) (o : Out) (h : Hall) : Hall := if outAvail h t o then h.setOwner o (some t) else h

/-- R179: the claim awaited for an output, by its claim in `h`; `k` has the old output given up. -/
def newAwaits (t : Tx) (a : Asg) (o : Out) (h k : Hall) : Option (Out × Tx) :=
  if o = a.eff.out then a.awaits else if outUsable k t o then none else (endingOwner h t o).map fun u => (o, u)

/-- R62: what becomes of the orders of an assignment worked out again. -/
def reordered (e : Env) (t : Tx) (viaHold : Bool) (b : Asg) (h : Hall) : Hall :=
  if b.phase = .reworking then withdrawRaise t h else if b.phase = .tripped then repowerRetry e t viaHold b h else h

theorem gaveUp_same {new : Params} (w : new.out = a.eff.out) : gaveUp t a new h = h := by
  unfold gaveUp
  rw [w]
  exact if_neg (by simp)

theorem gaveUp_hall {new : Params} : ∃ l al own, gaveUp t a new h = { h with asg := l, alloc := al, path := { h.path with owner := own } } ∧
    ∀ p : Out, p ≠ a.eff.out → own[p] = h.path.owner[p] := by
  have other (p : Out) (ne : p ≠ a.eff.out) : (upd h.path.owner a.eff.out fun _ => none)[p] = h.path.owner[p] := by
    rw [get_upd, if_neg ne.symm]
  unfold gaveUp
  split
  · unfold release outAvailable
    split
    · exact ⟨_, _, _, rfl, other⟩
    · exact ⟨_, _, _, rfl, other⟩
  · exact ⟨_, _, _, rfl, fun _ _ => rfl⟩

/-- Another output stays as it is. -/
theorem gaveUp_state {new : Params} (w : o ≠ a.eff.out) : outAvail (gaveUp t a new h) t o = outAvail h t o ∧
    outUsable (gaveUp t a new h) t o = outUsable h t o := by
  obtain ⟨l, al, own, eq, other⟩ := gaveUp_hall (t := t) (a := a) (new := new) (h := h)
  have state : outState (gaveUp t a new h) o = outState h o := by
    rw [eq]
    unfold outState
    dsimp only
    rw [other o w]
    rfl
  have reserved : reservedByOther (gaveUp t a new h) o t = reservedByOther h o t := by
    rw [eq]
    rfl
  have owner : (gaveUp t a new h).path.owner[o] = h.path.owner[o] := by
    rw [eq]
    exact other o w
  unfold outUsable outMine outAvail
  rw [state, reserved, owner]
  exact ⟨rfl, rfl⟩

theorem recompute_none (w : h.asg[t] = none) {viaHold mayAwait : Bool} : recompute e t viaHold mayAwait h = h := by
  unfold recompute
  rw [w]

section
variable {viaHold mayAwait : Bool} (is : h.asg[t] = some a)
include is

theorem recompute_idle (w : a.phase.isEnding = true ∨ currentEff e.k h t a = a.eff) : recompute e t viaHold mayAwait h = h := by
  unfold recompute
  rw [is]
  exact if_pos (by simpa using w)

variable (runs : a.phase.isEnding = false) (differs : currentEff e.k h t a ≠ a.eff)
include runs differs

/-- R57, R182: the outputs that let the parameters be taken, and what is awaited. -/
theorem recompute_differs : recompute e t viaHold mayAwait h =
    let new := currentEff e.k h t a
    let o := new.out
    if decide (o = a.eff.out) || outUsable h t o || (mayAwait && (endingOwner h t o).isSome && !reservedByOther h o t) then
      let b : Asg := { rework viaHold new a with awaits := newAwaits t a o h (gaveUp t a new h) }
      reordered e t viaHold b ((claimed t o (gaveUp t a new h)).setAsg t (some b))
    else takeOff e t o (h.mapAsg t fun a => { a with eff := new }) := by
  have goes : (a.phase.isEnding || decide (currentEff e.k h t a = a.eff)) = false := by
    rw [runs, decide_eq_false differs]
    rfl
  unfold recompute
  rw [is]
  dsimp only
  rw [goes, if_neg Bool.false_ne_true]
  simp only [decide_eq_true_eq]
  rfl

theorem recompute_off (moved : (currentEff e.k h t a).out ≠ a.eff.out) (mine : ¬ outMine h t (currentEff e.k h t a).out = true)
    (free : ¬ outAvail h t (currentEff e.k h t a).out = true)
    (unawaited : ¬ (mayAwait = true ∧ (endingOwner h t (currentEff e.k h t a).out).isSome = true ∧
      reservedByOther h (currentEff e.k h t a).out t = false)) :
    recompute e t viaHold mayAwait h =
      takeOff e t (currentEff e.k h t a).out (h.mapAsg t fun b => { b with eff := currentEff e.k h t a }) := by
  have away : ¬ outUsable h t (currentEff e.k h t a).out = true := fun q => (outUsable_or.1 q).elim mine free
  rw [recompute_differs is runs differs]
  refine if_neg fun q => ?_
  simp only [Bool.or_eq_true, Bool.and_eq_true, decide_eq_true_eq, Bool.not_eq_true', and_assoc] at q
  exact q.elim (fun q => q.elim moved away) unawaited

theorem recompute_takes {w : Option (Out × Tx)}
    (how : ((currentEff e.k h t a).out = a.eff.out ∧ w = a.awaits) ∨
      ((currentEff e.k h t a).out ≠ a.eff.out ∧ outUsable h t (currentEff e.k h t a).out = true ∧ w = none) ∨
      ∃ u, (currentEff e.k h t a).out ≠ a.eff.out ∧ outUsable h t (currentEff e.k h t a).out = false ∧ mayAwait = true ∧
        endingOwner h t (currentEff e.k h t a).out = some u ∧ reservedByOther h (currentEff e.k h t a).out t = false ∧
        w = some ((currentEff e.k h t a).out, u)) :
    recompute e t viaHold mayAwait h = reordered e t viaHold { rework viaHold (currentEff e.k h t a) a with awaits := w }
      ((claimed t (currentEff e.k h t a).out (gaveUp t a (currentEff e.k h t a) h)).setAsg t
        (some { rework viaHold (currentEff e.k h t a) a with awaits := w })) := by
  rw [recompute_differs is runs differs]
  dsimp only [newAwaits]
  rcases how with ⟨same, rfl⟩ | ⟨moved, usable, rfl⟩ | ⟨u, moved, away, may, owner, unreserved, rfl⟩
  · rw [if_pos (by simp [same]), if_pos same]
  · rw [if_pos (by simp [usable]), if_neg moved, (gaveUp_state moved).2, if_pos usable]
  · rw [if_pos (by simp [may, owner, unreserved]), if_neg moved, (gaveUp_state moved).2, away, if_neg Bool.false_ne_true,
      owner]
    rfl

end

theorem claimed_hall : ∃ own, claimed t o h = { h with path := { h.path with owner := own } } ∧
    (outAvail h t o = true → own[o] = some t) := by
  unfold claimed
  split
  · exact ⟨_, rfl, fun _ => by rw [get_upd, if_pos rfl]⟩
  · next free => exact ⟨_, rfl, fun q => absurd q free⟩

/-- What the new parameters leave of the hall, before the orders. -/
theorem taken_hall {new : Params} {b : Asg} : let k := (claimed t new.out (gaveUp t a new h)).setAsg t (some b)
    k.asg[t] = some b ∧ (outAvail h t new.out = true → k.path.owner[new.out] = some t) ∧ k.holds = h.holds ∧ k.tx = h.tx ∧
    k.idle = h.idle := by
  dsimp only
  obtain ⟨l, al, own, gave, other⟩ := gaveUp_hall (t := t) (a := a) (new := new) (h := h)
  have same : outAvail (gaveUp t a new h) t new.out = outAvail h t new.out := by
    by_cases w : new.out = a.eff.out
    · rw [gaveUp_same w]
    · exact (gaveUp_state w).1
  obtain ⟨own', eq, owns⟩ := claimed_hall (t := t) (o := new.out) (h := gaveUp t a new h)
  rw [same] at owns
  rw [eq]
  refine ⟨?_, owns, ?_, ?_, ?_⟩
  · rw [Hall.setAsg_asg, get_upd, if_pos rfl]
  · rw [gave]
    rfl
  · rw [gave]
    rfl
  · rw [gave]
    rfl

protected theorem Lasts.reordered {viaHold : Bool} (x : Lasts g h) : Lasts g (reordered e t viaHold a h) :=
  ite x.withdrawRaise (ite x.repowerRetry x)

protected theorem Lasts.recompute {viaHold mayAwait : Bool} (x : Lasts g h) : Lasts g (recompute e t viaHold mayAwait h) := by
  cases is : h.asg[t] with
  | none =>
    rw [recompute_none is]
    exact x
  | some a =>
    by_cases idle : a.phase.isEnding = true ∨ currentEff e.k h t a = a.eff
    · rw [recompute_idle is idle]
      exact x
    · rw [not_or, Bool.not_eq_true] at idle
      rw [recompute_differs is idle.1 idle.2]
      have taken (b : Asg) : Lasts g ((claimed t (currentEff e.k h t a).out (gaveUp t a (currentEff e.k h t a) h)).setAsg t
          (some b)) :=
        have ⟨_, _, holds, _, timers⟩ := taken_hall (t := t) (a := a) (new := currentEff e.k h t a) (b := b) (h := h)
        x.trans ⟨holds, timers⟩
      exact ite (taken _).reordered x.plain.takeOff

protected theorem Lasts.recomputeHold {p : Aspect} {mayAwait : Bool} (x : Lasts g h) :
    Lasts g (recomputeHold e t p mayAwait h) := ite x x.recompute

end
end Sys2Proof.Machine

namespace Sys2Proof.Machine

set_option Elab.async false
section
variable {g h k : Hall} {e : Env} {t u : Tx} {o : Out} {a : Aspect} {v : HoldValue} {c : HoldCause} {b : Asg} {s : State}

/-! ### Hold values -/

/-- R176: the ranges of a hold value, and the form it is given in. -/
theorem holdOf_none {form : HoldForm} : holdOf form = none ↔ match form with
    | .inhibit => False
    | .output o p => o = none ∨ ∃ n, p = some n ∧ 15 < n
    | .frequency f m => m = none ∨ ¬ (2300 ≤ f ∧ f ≤ 26100)
    | .power kw => ¬ (1 ≤ kw ∧ kw ≤ 1000) := by
  cases form with
  | inhibit => simp [holdOf]
  | output o p => cases o <;> cases p <;> simp [holdOf, withinOpt, within]
  | frequency f m => cases m <;> simp [holdOf]
  | power kw => simp [holdOf]

/-- The form a hold value is given in. -/
def HoldValue.form : HoldValue → HoldForm
  | .inhibit => .inhibit
  | .output o p => .output (some o) p
  | .frequency f m => .frequency f (some m)
  | .power kw => .power kw

theorem holdOf_some {form : HoldForm} (w : holdOf form = some v) : form = v.form := by
  cases form with
  | inhibit =>
    obtain rfl := Option.some.inj w
    rfl
  | output o p =>
    obtain ⟨o, rfl, w⟩ := Option.bind_eq_some_iff.1 w
    obtain ⟨-, is⟩ := Option.ite_none_right_eq_some.1 w
    obtain rfl := Option.some.inj is
    rfl
  | frequency f m =>
    obtain ⟨m, rfl, w⟩ := Option.bind_eq_some_iff.1 w
    obtain ⟨-, is⟩ := Option.ite_none_right_eq_some.1 w
    obtain rfl := Option.some.inj is
    rfl
  | power kw =>
    obtain ⟨-, is⟩ := Option.ite_none_right_eq_some.1 w
    obtain rfl := Option.some.inj is
    rfl

/-! ### Setting and clearing an aspect -/

theorem recomputeHold_eq {mayAwait : Bool} : recomputeHold e t a mayAwait h =
    if a ≠ .power ∧ (h.asg[t]).any (fun b => b.sched.isNone) = true then h else recompute e t true mayAwait h := by
  unfold recomputeHold
  exact if_congr (by rw [Bool.and_eq_true, decide_eq_true_eq]) rfl rfl

theorem holdOnForeign_eq : holdOnForeign e t a true h =
    if (h.asg[t]).any (fun b => b.sched.isNone) ∧ (a = .output ∨ a = .frequency) then endAsg e t .aborted .nothing h else h := by
  unfold holdOnForeign
  exact if_congr (by rw [Bool.true_and, Bool.and_eq_true, Bool.or_eq_true, decide_eq_true_eq, decide_eq_true_eq, and_comm]) rfl rfl

/-- R180: the claim on the output now reserved, by its owner's assignment. -/
theorem displace_falls (own : h.path.owner[o] = some u) (other : u ≠ t) (is : h.asg[u] = some b) (sched : b.sched ≠ none)
    (runs : b.phase.isEnding = false) : displace e t o h = endAsg e u .preempted (.push .reservedByHold) h := by
  unfold displace
  rw [own]
  dsimp only
  rw [is]
  exact if_pos (by simp [other, runs, Option.isSome_iff_ne_none, sched])

theorem displace_stays (w : ∀ u b, h.path.owner[o] = some u → u ≠ t → h.asg[u] = some b → b.sched = none ∨ b.phase.isEnding = true) :
    displace e t o h = h := by
  unfold displace
  cases own : h.path.owner[o] with
  | none => rfl
  | some u =>
    refine if_neg fun q => ?_
    rw [Bool.and_eq_true, decide_eq_true_eq, Option.any_eq_true] at q
    obtain ⟨other, b, is, q⟩ := q
    rw [Bool.and_eq_true, Option.isSome_iff_ne_none, Bool.not_eq_true'] at q
    exact (w u b own other is).elim q.1 fun ending => Bool.eq_false_iff.1 q.2 ending

theorem cancelWaits_eq : cancelWaits e t o h = h.each allTx fun u g =>
    if u ≠ t ∧ (g.asg[u]).any (fun a => a.awaits.any fun w => decide (w.1 = o)) then takeOff e u o g else g := by
  unfold cancelWaits
  simp only [Bool.and_eq_true, decide_eq_true_eq]

theorem setHold_same (w : (h.holds[t]).get v.aspect = some v) : setHold e t v c h = h := by
  unfold setHold
  exact if_pos w

theorem setHold_aspect (w : (h.holds[t]).get v.aspect ≠ some v) (other : v.aspect ≠ .output) : setHold e t v c h =
    recomputeHold e t v.aspect true (holdOnForeign e t v.aspect true
      ((h.setHold t fun d => d.put v).note (.hold t v.aspect (some v) c))) := by
  unfold setHold
  rw [if_neg w]
  cases v with
  | output o p => exact absurd rfl other
  | _ => rfl

/-- R180: the record set, the reservation lost, and the notice. -/
def outputNoted (t : Tx) (o : Out) (p : Option Nat) (c : HoldCause) (h : Hall) : Hall :=
  (match (h.holds[t]).output with
    | some w => if w.1 = o then h.setHold t fun d => d.put (.output o p)
        else outAvailable w.1 (h.setHold t fun d => d.put (.output o p))
    | none => h.setHold t fun d => d.put (.output o p)).note (.hold t .output (some (.output o p)) c)

theorem setHold_output {p : Option Nat} (w : (h.holds[t]).get .output ≠ some (.output o p)) : setHold e t (.output o p) c h =
    { recomputeHold e t .output true (holdOnForeign e t .output true
      (cancelWaits e t o (displace e t o (outputNoted t o p c h)))) with alloc := true } := by
  unfold setHold outputNoted
  rw [show HoldValue.aspect (.output o p) = .output from rfl, if_neg w]
  cases (h.holds[t]).output <;> rfl

theorem outputNoted_hall {p : Option Nat} : ∃ al em, outputNoted t o p c h =
    { h with holds := upd h.holds t fun d => d.put (.output o p), alloc := al, emit := em } := by
  unfold outputNoted
  split
  · split
    · exact ⟨_, _, rfl⟩
    · unfold outAvailable
      split <;> exact ⟨_, _, rfl⟩
  · exact ⟨_, _, rfl⟩

theorem clearHold_idle (w : (h.holds[t]).get a = none) : clearHold e t a c h = h := by
  unfold clearHold
  exact if_pos (by rw [w]; rfl)

/-- R181: the aspect's record cleared, and the reservation lost. -/
def aspectDropped (t : Tx) (a : Aspect) (h : Hall) : Hall :=
  match a, (h.holds[t]).output with
  | .output, some w => outAvailable w.1 (h.setHold t fun d => d.drop a)
  | _, _ => h.setHold t fun d => d.drop a

theorem aspectDropped_eq : aspectDropped t a h =
    match a, (h.holds[t]).output with
    | .output, some w =>
      if outState (h.setHold t fun d => d.drop a) w.1 = .free ∨ outState (h.setHold t fun d => d.drop a) w.1 = .parked then
        { h.setHold t fun d => d.drop a with alloc := true }
      else h.setHold t fun d => d.drop a
    | _, _ => h.setHold t fun d => d.drop a := by
  unfold aspectDropped
  cases a with
  | output =>
    cases (h.holds[t]).output with
    | none => rfl
    | some w => exact outAvailable_eq
  | _ => rfl

theorem clearHold_drops (w : (h.holds[t]).get a ≠ none) : clearHold e t a c h =
    { recomputeHold e t a false ((aspectDropped t a h).note (.hold t a none c)) with alloc := true } := by
  unfold clearHold aspectDropped
  rw [if_neg (by rwa [Option.isNone_iff_eq_none])]
  cases a <;> cases (h.holds[t]).output <;> rfl

theorem aspectDropped_holds : (aspectDropped t a h).holds = upd h.holds t fun d => d.drop a := by
  unfold aspectDropped
  split
  · exact ((Lasts.refl _).outAvailable).holds
  · rfl

/-- R176: a set writes its own record alone. -/
theorem setHold_holds (w : (h.holds[t]).get v.aspect ≠ some v) : (setHold e t v c h).holds = upd h.holds t fun d => d.put v := by
  by_cases other : v.aspect = .output
  · cases v with
    | output o p =>
      rw [setHold_output w]
      refine Eq.trans (Lasts.holds (g := outputNoted t o p c h) ?_) ?_
      · exact ((Lasts.refl _).displace.cancelWaits.holdOnForeign.recomputeHold).plain
      · obtain ⟨al, em, eq⟩ := outputNoted_hall (t := t) (o := o) (p := p) (c := c) (h := h)
        rw [eq]
    | _ => cases other
  · rw [setHold_aspect w other]
    exact ((Lasts.refl _).holdOnForeign.recomputeHold).holds

theorem clearHold_holds (w : (h.holds[t]).get a ≠ none) : (clearHold e t a c h).holds = upd h.holds t fun d => d.drop a := by
  rw [clearHold_drops w]
  exact (((Lasts.refl _).recomputeHold).plain (g := (aspectDropped t a h).note (.hold t a none c))).holds.trans aspectDropped_holds

/-! ### The checks of a HOLD-SET -/

/-- R177 step 4: the check's answer. -/
def holdAnswer (s : State) (t : Tx) (v : HoldValue) : CheckAnswer :=
  check s.tables s.hall (holdQuestion s.hall t ((s.hall.holds[t]).put v))

/-- R177 step 3: an output is defined, and takes the preset. -/
def HoldUsable (s : State) (v : HoldValue) : Prop := ∀ o p, v = .output o p → (s.tables.outs[o]).defined = true ∧
  p.isSome = (s.tables.outs[o]).slewable ∧ ∀ n, p = some n → ∃ q, s.hall.path.pos[o] = some q ∧ q.preset n ≠ none

theorem holdSet_fault {form : HoldForm} (is : holdOf form = some v) : holdSet (some t) (some form) s =
    match holdFault s.tables s.hall t v with
    | some (st, some a) => s.ans st (.answer a)
    | some (.conflict, none) => s.ans .conflict (holdRival s.hall t v)
    | some (st, none) => s.refuse st
    | none => (s.onHall fun e h => setHold e t v .host h).ok := by
  unfold holdSet
  rw [named_some, Option.bind_some, is]
  rfl

theorem holdSet_unchecked {form : HoldForm} {st : Status} {a : CheckAnswer} (is : holdOf form = some v)
    (fails : holdFault s.tables s.hall t v = some (st, some a)) : holdSet (some t) (some form) s = s.ans st (.answer a) := by
  rw [holdSet_fault is, fails]

theorem holdSet_rival {form : HoldForm} (is : holdOf form = some v)
    (fails : holdFault s.tables s.hall t v = some (.conflict, none)) :
    holdSet (some t) (some form) s = s.ans .conflict (holdRival s.hall t v) := by
  rw [holdSet_fault is, fails]

theorem holdSet_refused {form : HoldForm} {st : Status} (is : holdOf form = some v)
    (fails : holdFault s.tables s.hall t v = some (st, none)) (plain : st ≠ .conflict) :
    holdSet (some t) (some form) s = s.refuse st := by
  rw [holdSet_fault is, fails]
  cases st with
  | conflict => exact absurd rfl plain
  | _ => rfl

theorem holdSet_passes {form : HoldForm} (is : holdOf form = some v) (passes : holdFault s.tables s.hall t v = none) :
    holdSet (some t) (some form) s = (s.onHall fun e h => setHold e t v .host h).ok := by
  rw [holdSet_fault is, passes]

theorem holdFault_unknown (w : txDefined s.tables s.hall t = false) : holdFault s.tables s.hall t v = some (.notFound, none) := by
  unfold holdFault
  rw [w]
  rfl

section
variable (known : txDefined s.tables s.hall t = true)
include known

theorem holdFault_output {st : Status} (w : holdOutputFault s.tables s.hall v = some st) :
    holdFault s.tables s.hall t v = some (st, none) := by
  unfold holdFault
  rw [known, w]
  rfl

theorem holdFault_usable (w : holdOutputFault s.tables s.hall v = none) : holdFault s.tables s.hall t v =
    if v ≠ .inhibit ∧ holdAnswer s t v ≠ .permitted then some ((holdAnswer s t v).status, some (holdAnswer s t v))
    else (holdOwnerFault s.hall t v).map fun s => (s, none) := by
  unfold holdFault
  rw [known, w]
  by_cases i : v = .inhibit
  · simp [i]
  · simp [i, holdAnswer]

end

theorem holdOutputFault_none (w : HoldUsable s v) : holdOutputFault s.tables s.hall v = none := by
  cases v with
  | output o p =>
    obtain ⟨defined, slewable, preset⟩ := w o p rfl
    have set : (p.any fun n => !(s.hall.path.pos[o]).any fun q => (q.preset n).isSome) = false := by
      refine Bool.eq_false_iff.2 fun q => ?_
      obtain ⟨n, hn, no⟩ := (Option.any_eq_true _ _).1 q
      obtain ⟨q, hq, some⟩ := preset n hn
      rw [Bool.not_eq_true', ← Bool.not_eq_true, Option.any_eq_true] at no
      exact no ⟨q, hq, Option.isSome_iff_ne_none.2 some⟩
    unfold holdOutputFault
    dsimp only
    rw [defined, set, if_neg (by decide), if_neg (not_not.2 slewable)]
    rfl
  | _ => rfl

theorem holdOutputFault_undefined {p : Option Nat} (w : (s.tables.outs[o]).defined = false) :
    holdOutputFault s.tables s.hall (.output o p) = some .notFound := by
  unfold holdOutputFault
  dsimp only
  rw [w]
  rfl

theorem holdOutputFault_preset {p : Option Nat} (defined : (s.tables.outs[o]).defined = true)
    (w : ¬ (p.isSome = (s.tables.outs[o]).slewable ∧
      ∀ n, p = some n → ∃ q, s.hall.path.pos[o] = some q ∧ q.preset n ≠ none)) :
    holdOutputFault s.tables s.hall (.output o p) = some .range := by
  unfold holdOutputFault
  dsimp only
  rw [defined, if_neg (by decide)]
  by_cases slewable : p.isSome = (s.tables.outs[o]).slewable
  · rw [if_neg (not_not.2 slewable)]
    refine if_pos ((Option.any_eq_true _ _).2 ?_)
    have := not_and.1 w slewable
    simpa [Option.isSome_iff_ne_none, ← Bool.not_eq_true, Option.any_eq_true] using this
  · rw [if_pos slewable]

section
variable {p : Option Nat}

theorem holdOwnerFault_reserved (w : reserver s.hall o = some u) (other : u ≠ t) :
    holdOwnerFault s.hall t (.output o p) = some .conflict ∧ holdRival s.hall t (.output o p) = .otherTx u := by
  have reserved : reservedByOther s.hall o t = true := by simp [reservedByOther, w, other]
  unfold holdOwnerFault holdRival
  dsimp only
  rw [reserved, w, Option.filter_some_pos (by simpa using other)]
  exact ⟨rfl, rfl⟩

variable (unreserved : ∀ u, reserver s.hall o = some u → u = t)
include unreserved

theorem holdOwnerFault_faulted (w : outState s.hall o = .faulted) : holdOwnerFault s.hall t (.output o p) = some .state := by
  unfold holdOwnerFault
  dsimp only
  rw [not_reservedByOther_iff.2 unreserved, if_neg Bool.false_ne_true, if_pos w]

variable (sound : outState s.hall o ≠ .faulted)
include sound

theorem holdOwnerFault_foreign (own : s.hall.path.owner[o] = some u) (other : u ≠ t) (is : s.hall.asg[u] = some b)
    (foreign : b.sched = none) :
    holdOwnerFault s.hall t (.output o p) = some .conflict ∧ holdRival s.hall t (.output o p) = .otherTx u := by
  have none : (reserver s.hall o).filter (fun u => decide (u ≠ t)) = none :=
    Option.filter_eq_none_iff.2 fun w hw => by simpa using unreserved w hw
  unfold holdOwnerFault holdRival
  dsimp only
  rw [not_reservedByOther_iff.2 unreserved, if_neg Bool.false_ne_true, if_neg sound, none, own, Option.any_some, is]
  exact ⟨if_pos (by simp [other, foreign]), rfl⟩

theorem holdOwnerFault_none (w : ∀ u b, s.hall.path.owner[o] = some u → u ≠ t → s.hall.asg[u] = some b → b.sched ≠ none) :
    holdOwnerFault s.hall t (.output o p) = none := by
  unfold holdOwnerFault
  dsimp only
  rw [not_reservedByOther_iff.2 unreserved, if_neg Bool.false_ne_true, if_neg sound]
  refine if_neg fun q => ?_
  obtain ⟨u, own, q⟩ := (Option.any_eq_true _ _).1 q
  rw [Bool.and_eq_true, decide_eq_true_eq, Option.any_eq_true] at q
  obtain ⟨other, b, is, foreign⟩ := q
  exact w u b own other is (Option.isNone_iff_eq_none.1 foreign)

end

end
end Sys2Proof.Machine

namespace Sys2Proof.Proofs

set_option Elab.async false
section
open Machine

/-- O50 on the effective parameters worked out again. -/
theorem recompute_clauses (e : Env) (t : Tx) (h : Hall) (viaHold mayAwait : Bool) (a : Asg) (is : h.asg[t] = some a) :
    let new := currentEff e.k h t a
    let o := new.out
    let g := recompute e t viaHold mayAwait h
    let free := (outState h o = .free ∨ outState h o = .parked) ∧ ∀ u, reserver h o = some u → u = t
    let mine := h.path.owner[o] = some t ∧ outState h o ≠ .faulted ∧ ∀ u, reserver h o = some u → u = t
    let ending (u : Tx) := h.path.owner[o] = some u ∧ u ≠ t ∧ (∃ b, h.asg[u] = some b ∧ b.phase.isEnding = true) ∧
      ∀ w, reserver h o = some w → w = t
    (a.sched ≠ none → new = effective e.k (h.holds[t]) a.base a.fold) ∧
    (a.phase.isEnding = true ∨ new = a.eff → g = h) ∧
    (a.phase.isEnding = false → new ≠ a.eff →
      (o ≠ a.eff.out → ¬ mine → ¬ free → ¬ (mayAwait = true ∧ ∃ u, ending u) →
        g = takeOff e t o (h.mapAsg t fun a => { a with eff := new })) ∧
      (∀ w, (o = a.eff.out ∧ w = a.awaits) ∨ (o ≠ a.eff.out ∧ (mine ∨ free) ∧ w = none) ∨
          (∃ u, o ≠ a.eff.out ∧ ¬ mine ∧ ¬ free ∧ mayAwait = true ∧ ending u ∧ w = some (o, u)) →
        let b : Asg := { rework viaHold new a with awaits := w }
        ∃ k : Hall, k.asg[t] = some b ∧ (free → k.path.owner[o] = some t) ∧ k.holds = h.holds ∧ k.tx = h.tx ∧
          (b.phase = .reworking → g = withdrawRaise t k) ∧
          (b.phase = .tripped → g = repowerRetry e t viaHold b k) ∧
          (b.phase ≠ .reworking → b.phase ≠ .tripped → g = k))) := by
  dsimp only
  rw [← outAvail_iff, ← outMine_iff]
  refine ⟨fun sched => ?_, recompute_idle is, fun runs differs => ⟨fun moved mine free unawaited => ?_, fun w how => ?_⟩⟩
  · unfold currentEff
    obtain ⟨x, hx⟩ := Option.ne_none_iff_exists'.1 sched
    rw [hx]
  · refine recompute_off is runs differs moved mine free fun ⟨may, owner, unreserved⟩ => unawaited ⟨may, ?_⟩
    obtain ⟨u, owner⟩ := Option.isSome_iff_exists.1 owner
    obtain ⟨own, other, ending⟩ := endingOwner_iff.1 owner
    exact ⟨u, own, other, ending, not_reservedByOther_iff.1 unreserved⟩
  · have cases := recompute_takes (e := e) (viaHold := viaHold) (mayAwait := mayAwait) (w := w) is runs differs ?_
    · obtain ⟨asg, owns, holds, tx, -⟩ := taken_hall (t := t) (a := a) (new := currentEff e.k h t a) (h := h)
        (b := { rework viaHold (currentEff e.k h t a) a with awaits := w })
      refine ⟨_, asg, owns, holds, tx, fun reworks => ?_, fun tripped => ?_, fun reworks tripped => ?_⟩
      · rw [cases]
        exact if_pos reworks
      · rw [cases]
        exact (if_neg (by rw [tripped]; decide)).trans (if_pos tripped)
      · rw [cases]
        exact (if_neg reworks).trans (if_neg tripped)
    · refine how.imp_right (Or.imp (And.imp_right (And.imp_left outUsable_or.2)) ?_)
      rintro ⟨u, moved, mine, free, may, ⟨own, other, ending, unreserved⟩, rfl⟩
      exact ⟨u, moved, Bool.eq_false_iff.2 fun q => (outUsable_or.1 q).elim mine free, may,
        endingOwner_iff.2 ⟨own, other, ending⟩, not_reservedByOther_iff.2 unreserved, rfl⟩

/-- O50 on the set of an output. -/
theorem setHold_output_clause (e : Env) (t : Tx) (c : HoldCause) (h : Hall) (o : Out) (p : Option Nat)
    (w : (h.holds[t]).get .output ≠ some (.output o p)) : ∃ displaced : Hall,
    setHold e t (.output o p) c h = { recomputeHold e t .output true (holdOnForeign e t .output true
      (displaced.each allTx fun u g => if u ≠ t ∧ (g.asg[u]).any (fun a => a.awaits.any fun w => decide (w.1 = o))
        then takeOff e u o g else g)) with alloc := true } ∧
    (∀ u b, h.path.owner[o] = some u → u ≠ t → h.asg[u] = some b → b.sched ≠ none → b.phase.isEnding = false →
      displaced = endAsg e u .preempted (.push .reservedByHold) (outputNoted t o p c h)) ∧
    ((∀ u b, h.path.owner[o] = some u → u ≠ t → h.asg[u] = some b → b.sched = none ∨ b.phase.isEnding = true) →
      displaced = outputNoted t o p c h) := by
  obtain ⟨al, em, noted⟩ := outputNoted_hall (t := t) (o := o) (p := p) (c := c) (h := h)
  have path : (outputNoted t o p c h).path = h.path := by rw [noted]
  have asg : (outputNoted t o p c h).asg = h.asg := by rw [noted]
  refine ⟨displace e t o (outputNoted t o p c h), ?_, fun u b own other is => ?_, fun none => displace_stays ?_⟩
  · rw [setHold_output w, cancelWaits_eq]
  · exact displace_falls (by rw [path, own]) other (by rw [asg, is])
  · rw [path, asg]
    exact none

theorem holds_upd {h g : Hall} {t : Tx} {f : Hold → Hold} (w : g.holds = upd h.holds t f) :
    g.holds[t] = f h.holds[t] ∧ ∀ u : Tx, u ≠ t → g.holds[u] = h.holds[u] := by
  rw [w]
  exact ⟨by rw [get_upd, if_pos rfl], fun u other => by rw [get_upd, if_neg other.symm]⟩

/-- Settles O50: the forms, what a set and a clear do, the parameters worked out again (`recompute_clauses`), and the answer of
each request by the first check that fails. -/
theorem holdRequests : Obligations.HoldRequests := by
  unfold Obligations.HoldRequests
  refine ⟨fun form => ⟨holdOf_none, fun v w => ?form⟩, fun e t v c h => ⟨setHold_same, fun w other => ?aspect,
    fun o p is w => ?output, fun a => clearHold_idle, fun a w => ?clear, recompute_clauses e t h⟩,
    fun tag t form a s w => ⟨fun bad => ?bad, fun v is => ?set, fun off => ?off, fun on => ?on, ?all, ?one⟩⟩
  case form => cases v <;> exact holdOf_some w
  case aspect =>
    rw [setHold_aspect w other, recomputeHold_eq, holdOnForeign_eq]
  case output =>
    subst is
    obtain ⟨displaced, eq, falls, stays⟩ := setHold_output_clause e t c h o p w
    simp only [outputNoted, outAvailable_eq] at falls stays
    refine ⟨displaced, ?_, falls, stays⟩
    rw [eq, recomputeHold_eq, holdOnForeign_eq]
    rfl
  case clear =>
    rw [clearHold_drops w, recomputeHold_eq, aspectDropped_eq] <;> rfl
  case bad =>
    refine refused_request w rfl ?_
    unfold holdSet
    rw [named_some, Option.bind_some, bad, named_none]
  case set =>
    have answer {st : Status} {b : ReplyBody} (q : holdSet (some t) (some form) s = s.ans st b) :
        Answers (.holdSet tag (some t) (some form)) s tag .holdSet st b := answers_request w rfl q
    have refused {st : Status} (q : holdSet (some t) (some form) s = s.refuse st) :
        Answers (.holdSet tag (some t) (some form)) s tag .holdSet st .nothing := refused_request w rfl q
    dsimp only
    rw [← txDefined_iff]
    have owner (known : txDefined s.tables s.hall t = true) (usable : HoldUsable s v)
        (passes : v = .inhibit ∨ holdAnswer s t v = .permitted) :
        holdFault s.tables s.hall t v = (holdOwnerFault s.hall t v).map fun s => (s, none) := by
      rw [holdFault_usable known (holdOutputFault_none usable)]
      exact if_neg fun q => passes.elim q.1 q.2
    refine ⟨fun unknown => ?_, fun o p known out undefined => ?_, fun o p known out defined bad => ?_,
      fun known usable refuses => ?_, fun o p u known usable passes out reserved other => ?_,
      fun o p known usable passes out unreserved faulted => ?_,
      fun o p u b known usable passes out unreserved sound own other asg foreign => ?_, fun known usable passes free => ?_⟩
    · exact refused (holdSet_refused is (holdFault_unknown (Bool.eq_false_iff.2 unknown)) (by decide))
    · subst out
      exact refused (holdSet_refused is (holdFault_output known (holdOutputFault_undefined undefined)) (by decide))
    · subst out
      exact refused (holdSet_refused is (holdFault_output known (holdOutputFault_preset defined bad)) (by decide))
    · refine answer (holdSet_unchecked is ?_)
      rw [holdFault_usable known (holdOutputFault_none usable)]
      exact if_pos (not_or.1 refuses)
    · subst out
      obtain ⟨conflict, rival⟩ := holdOwnerFault_reserved (p := p) reserved other
      rw [← rival]
      exact answer (holdSet_rival is (by rw [owner known usable passes, conflict]; rfl))
    · subst out
      exact refused (holdSet_refused is (by rw [owner known usable passes, holdOwnerFault_faulted unreserved faulted]; rfl)
        (by decide))
    · subst out
      obtain ⟨conflict, rival⟩ := holdOwnerFault_foreign (p := p) unreserved sound own other asg foreign
      rw [← rival]
      exact answer (holdSet_rival is (by rw [owner known usable passes, conflict]; rfl))
    · have none : holdFault s.tables s.hall t v = none := by
        rw [owner known usable passes]
        cases v with
        | output o p =>
          obtain ⟨unreserved, sound, owned⟩ := free o p rfl
          rw [holdOwnerFault_none unreserved sound owned]
          rfl
        | _ => rfl
      refine ⟨fun same => takenOk_request w rfl ?_, fun differs => ?_⟩
      · rw [holdSet_passes is none]
        exact congrArg (fun h => State.ok { s with hall := h }) (setHold_same same)
      · exact ⟨_, takenOk_request w rfl (holdSet_passes is none), holds_upd (setHold_holds differs)⟩
  case off =>
    refine takenOk_request w rfl ?_
    exact congrArg (fun h => State.ok { s with hall := h }) (clearHold_idle off)
  case on => exact ⟨_, takenOk_request w rfl rfl, holds_upd (clearHold_holds on)⟩
  case all => exact answers_request w rfl rfl
  case one => exact answers_request w rfl rfl

end
end Sys2Proof.Proofs

namespace Sys2Proof.Machine

set_option Elab.async false
section
variable {g h : Hall} {e : Env} {t : Tx} {o : Out} {a b : Asg} {k : OrderKind} {f : Asg → Asg}

/-! ### What an engine's step reads -/

theorem muting_iff : muting e h t = true ↔ (h.holds[t]).inhibit = true ∨ estopActive e h = true := by
  unfold muting
  rw [Bool.or_eq_true]

theorem lowered_iff : lowered h t a = true ↔
    a.lowerOver = true ∨ ((h.tx[t]).needsLower = false ∧ (h.tx[t]).lowerInHand = false) := by
  unfold lowered
  rw [Bool.or_eq_true, Bool.and_eq_true, Bool.not_eq_true', Bool.not_eq_true']

theorem ordersWait_eq_false : ordersWait h t = false ↔ frozen h t = false ∧ (h.tx[t]).rcv.stage = .idle := by
  unfold ordersWait recovering
  rw [Bool.or_eq_false_iff, decide_eq_false_iff_not, not_not]

theorem works_iff {p : Phase} : p.works = true ↔ p = .preparing ∨ p = .reworking ∨ p = .muted := by
  cases p <;> simp [Phase.works]

theorem inHand_none {p : OrderKind → Bool} (out : (h.tx[t]).out = none) (pend : (h.tx[t]).pend = none) :
    (h.tx[t]).inHand p = false := by
  rw [TxRec.inHand, out, pend]
  rfl

/-! ### What an engine's step writes -/

theorem mapAsg_some (is : h.asg[t] = some a) : h.mapAsg t f = h.setAsg t (some (f a)) := by
  rw [mapAsg_eq, is]
  rfl

theorem setTx_mapAsg {w : TxRec → TxRec} (is : h.asg[t] = some a) :
    (h.setTx t w).mapAsg t f = (h.setAsg t (some (f a))).setTx t w := by
  rw [mapAsg_some (h := h.setTx t w) is]
  rfl

theorem setAsg_same (is : h.asg[t] = some a) : h.setAsg t (some a) = h := by
  unfold Hall.setAsg
  rw [upd_self _ _ _ is.symm]

theorem goOnAir_eq {late : Bool} (is : h.asg[t] = some a) : goOnAir e t late h = h.setAsg t (some
    (if ∃ x, a.sched = some x ∧ e.min < x.start then { a with phase := .waiting }
      else { a with phase := .raising, raise := .wanted, late := a.late || late })) := by
  have early : ((a.sched.map Sched.start).any fun s => decide (e.min < s)) = true ↔ ∃ x, a.sched = some x ∧ e.min < x.start := by
    cases a.sched <;> simp
  unfold goOnAir
  rw [mapAsg_some is]
  exact congrArg (fun b => h.setAsg t (some b)) (if_congr early rfl rfl)

/-- R140, R149: a WARM, TUNE, RAISE or COOL from a state it is sent from. -/
theorem handOrder_listed (listed : orderListed k (h.tx[t]).st = true) (lower : k ≠ .lower) (clear : k ≠ .clearTrip) :
    handOrder e t k h =
    if (h.tx[t]).out.isSome || (k.isRaise && raiseHeld e h t) then makePending t (Order.mk0 k true false) h
    else h.setTx t fun r => { r with out := some (Order.mk0 k true false) } := by
  have other {s : TxState} (bad : s = .absent ∨ s = .isLocal ∨ s = .unreachable ∨ s = .lockout) : (h.tx[t]).st ≠ s := by
    rintro rfl
    rcases bad with q | q | q | q <;> rw [q] at listed <;> cases k <;> simp [orderListed] at listed lower clear
  exact handOrder_taken (other (.inl rfl)) (other (.inr (.inl rfl))) (other (.inr (.inr (.inl rfl))))
    (other (.inr (.inr (.inr rfl)))) listed

theorem handOrder_sent (listed : orderListed k (h.tx[t]).st = true) (lower : k ≠ .lower) (clear : k ≠ .clearTrip)
    (out : (h.tx[t]).out = none) (held : (k.isRaise && raiseHeld e h t) = false) :
    handOrder e t k h = h.setTx t fun r => { r with out := some (Order.mk0 k true false) } := by
  rw [handOrder_listed listed lower clear, out, held]
  rfl

theorem makePending_none {x : Order} (pend : (h.tx[t]).pend = none) :
    makePending t x h = h.setTx t fun r => { r with pend := some x } := by
  unfold makePending overtakePend
  rw [pend]

/-! ### The engine's step, in the order of its tests -/

/-- The engine's step for an assignment that is not ENDING, once it has nothing to claim. -/
def driveOn (e : Env) (t : Tx) (a : Asg) (h : Hall) : Option Hall :=
  if a.phase.mutes && muting e h t then some (muteAsg e t a h)
  else if decide (a.phase = .muted) && !muting e h t then
    if decide (a.tune = .done) && decide (a.path = .done) then some (goOnAir e t false h)
    else some (h.mapAsg t fun a => { a with phase := .reworking })
  else if a.phase.works && (decide ((h.tx[t]).st = .raising) || decide ((h.tx[t]).st = .onAir)) && !(h.tx[t]).lowerInHand &&
      txDefined e.k h t && !a.lowerOver then
    some (handLower e t false h)
  else if a.phase.works then workStep e t a h
  else if decide (a.phase = .raising) && decide (a.raise = .wanted) && lowered h t a && !ordersWait h t &&
      !(h.tx[t]).inHand OrderKind.isRaise then
    some (askRaise e t a h)
  else if decide (a.phase = .onAir) && a.power && decide ((h.tx[t]).st = .onAir) && !ordersWait h t &&
      !(h.tx[t]).inHand OrderKind.isRaise then
    some (askRaise e t a h)
  else none

/-- R63: a mute. -/
theorem muteAsg_foreign (foreign : a.sched = none) : muteAsg e t a h = endAsg e t .aborted .nothing h := by
  unfold muteAsg
  rw [foreign]
  rfl

section
variable (is : h.asg[t] = some a)
include is

theorem driveStep_ending (ending : a.phase.isEnding = true) : driveStep e t h =
    if a.lowerOver || !(h.tx[t]).needsLower then none
    else if !(h.tx[t]).lowerInHand && decide ((h.tx[t]).st ≠ .lowering) && txDefined e.k h t then some (handLower e t false h)
    else none := by
  unfold driveStep
  rw [is]
  exact if_pos ending

theorem endStep_eq : endStep e t h =
    if a.phase.isEnding && (a.lowerOver || !(h.tx[t]).needsLower) then some (completeEnd e t h) else none := by
  unfold endStep
  rw [is]

theorem driveStep_runs (runs : a.phase.isEnding = false) :
    driveStep e t h = match claimStep t a h with | some g => some g | none => driveOn e t a h := by
  unfold driveStep
  rw [is]
  exact if_neg (Bool.eq_false_iff.1 runs)

theorem driveStep_claims (works : a.phase.works = true) (path : a.path = .wanted) (waits : a.awaits = none)
    (owns : h.path.owner[a.eff.out] ≠ some t) (free : outAvail h t a.eff.out = true) :
    driveStep e t h = some (h.setOwner a.eff.out (some t)) := by
  have runs : a.phase.isEnding = false := by rcases works_iff.1 works with p | p | p <;> rw [p] <;> rfl
  have same : (h.setOwner a.eff.out (some t)).mapAsg t (fun a => { a with path := .wanted }) =
      h.setOwner a.eff.out (some t) := by
    rw [mapAsg_some (h := h.setOwner a.eff.out (some t)) is, ← path]
    exact setAsg_same (h := h.setOwner a.eff.out (some t)) is
  have claims : claimStep t a h = some (h.setOwner a.eff.out (some t)) := by
    unfold claimStep
    rw [works, path, waits, free, decide_eq_false owns, same]
    rfl
  rw [driveStep_runs is runs, claims]

theorem driveStep_on (runs : a.phase.isEnding = false)
    (unclaimed : a.phase.works = false ∨ a.path ≠ .wanted ∨ h.path.owner[a.eff.out] = some t) :
    driveStep e t h = driveOn e t a h := by
  have none : claimStep t a h = none := by
    unfold claimStep
    refine if_pos ?_
    rcases unclaimed with w | w | w
    · rw [w]
      rfl
    · rw [decide_eq_true w, Bool.or_true]
      rfl
    · rw [decide_eq_true w, Bool.or_true]
      rfl
  rw [driveStep_runs is runs, none]

theorem muteAsg_sched (sched : a.sched ≠ none) : muteAsg e t a h = (withdrawRaise t h).setAsg t (some
    { a with phase := .muted, raise := .done, power := false, lowerOver := false }) := by
  unfold muteAsg
  rw [if_neg (mt Option.isNone_iff_eq_none.1 sched), mapAsg_some (h := withdrawRaise t h) is]

theorem driveOn_muted (phase : a.phase = .muted) (unmuted : muting e h t = false) : driveOn e t a h =
    if a.tune = .done ∧ a.path = .done then some (goOnAir e t false h)
    else some (h.setAsg t (some { a with phase := .reworking })) := by
  unfold driveOn
  rw [phase, unmuted, mapAsg_some is]
  refine (if_neg (by decide)).trans ((if_pos rfl).trans (if_congr ?_ rfl rfl))
  rw [Bool.and_eq_true, decide_eq_true_eq, decide_eq_true_eq]

end

theorem driveOn_mutes (mutes : a.phase.mutes = true) (muted : muting e h t = true) : driveOn e t a h = some (muteAsg e t a h) := by
  unfold driveOn
  rw [mutes, muted]
  rfl

/-- R60, R62: the phases of work: the carrier down first. -/
theorem driveOn_works (works : a.phase.works = true) (muted : a.phase = .muted → muting e h t = true)
    (reworks : a.phase = .reworking → muting e h t = false) : driveOn e t a h =
    if ((h.tx[t]).st = .raising ∨ (h.tx[t]).st = .onAir) ∧ (h.tx[t]).lowerInHand = false ∧ txDefined e.k h t = true ∧
        a.lowerOver = false then some (handLower e t false h)
    else workStep e t a h := by
  have unmutes : (a.phase.mutes && muting e h t) = false := by
    rcases works_iff.1 works with p | p | p
    · rw [p]
      rfl
    · rw [reworks p, Bool.and_false]
    · rw [p]
      rfl
  have stays : (decide (a.phase = .muted) && !muting e h t) = false := by
    by_cases p : a.phase = .muted
    · rw [muted p, Bool.not_true, Bool.and_false]
    · rw [decide_eq_false p]
      rfl
  unfold driveOn
  rw [unmutes, stays, works, if_neg Bool.false_ne_true, if_neg Bool.false_ne_true]
  refine if_congr ?_ rfl rfl
  simp only [Bool.true_and, Bool.and_eq_true, Bool.or_eq_true, decide_eq_true_eq, Bool.not_eq_true', and_assoc]

/-- R61, R62: RAISE, for an assignment in RAISING and for a power changed in ON_AIR. -/
theorem driveOn_raises (w : (a.phase = .raising ∧ a.raise = .wanted ∧ lowered h t a = true) ∨
      (a.phase = .onAir ∧ a.power = true ∧ (h.tx[t]).st = .onAir)) (unmuted : muting e h t = false)
    (orders : ordersWait h t = false) (hand : (h.tx[t]).inHand OrderKind.isRaise = false) :
    driveOn e t a h = some (askRaise e t a h) := by
  unfold driveOn
  rw [unmuted, orders, hand]
  rcases w with ⟨phase, raise, down⟩ | ⟨phase, power, st⟩
  · rw [phase, raise, down]
    rfl
  · rw [phase, power, st]
    rfl

/-! ### The work of an assignment, in the order of its tests -/

theorem workStep_path (path : a.path = .wanted) (owns : h.path.owner[a.eff.out] = some t) (unfrozen : frozen h t = false)
    (down : a.phase = .preparing ∨ lowered h t a = true) : workStep e t a h = some (askPath e t a h) := by
  unfold workStep
  dsimp only
  rw [path, unfrozen, decide_eq_true owns]
  refine if_pos ?_
  rw [Bool.and_eq_true, Bool.or_eq_true, decide_eq_true_eq]
  exact ⟨rfl, down⟩

section
variable (path : a.path ≠ .wanted)
include path

theorem workStep_warm (phase : a.phase = .preparing) (cold : (h.tx[t]).st = .cold) (orders : ordersWait h t = false)
    (hand : (h.tx[t]).inHand (fun k => decide (k = .warm)) = false) : workStep e t a h = some (handOrder e t .warm h) := by
  unfold workStep
  dsimp only
  rw [phase, cold, orders, hand, decide_eq_false path]
  rfl

theorem workStep_tune (tune : a.tune = .wanted) (st : (h.tx[t]).st = .standby ∨ (h.tx[t]).st = .ready)
    (down : lowered h t a = true) (orders : ordersWait h t = false)
    (hand : (h.tx[t]).inHand (fun k => k.isTune || decide (k = .cool)) = false) : workStep e t a h = some (askTune e t a h) := by
  have warm : decide ((h.tx[t]).st = .cold) = false := by rcases st with st | st <;> rw [st] <;> rfl
  have steady : (decide ((h.tx[t]).st = .standby) || decide ((h.tx[t]).st = .ready)) = true := by
    rw [Bool.or_eq_true, decide_eq_true_eq, decide_eq_true_eq]
    exact st
  unfold workStep
  dsimp only
  rw [tune, steady, down, orders, hand, warm, decide_eq_false path, Bool.and_false]
  rfl

theorem workStep_done (phase : a.phase = .preparing → (h.tx[t]).st = .ready) (tune : a.tune = .done) (done : a.path = .done)
    (down : lowered h t a = true) (unfrozen : frozen h t = false) : workStep e t a h =
    match a.phase with
    | .preparing =>
        if (h.tx[t]).st ≠ .ready then none
        else if muting e h t then some (h.mapAsg t fun a => { a with phase := .muted })
        else some (goOnAir e t true h)
    | .reworking =>
        if muting e h t then some (h.mapAsg t fun a => { a with phase := .muted })
        else some (goOnAir e t false h)
    | _ => none := by
  have untuned : (decide (a.phase = .preparing) && decide (a.tune = .done) &&
      (decide ((h.tx[t]).st = .standby) || decide ((h.tx[t]).st = .cold))) = false := by
    by_cases p : a.phase = .preparing
    · rw [phase p]
      exact Bool.and_false _
    · rw [decide_eq_false p]
      rfl
  have warm : (decide (a.phase = .preparing) && decide ((h.tx[t]).st = .cold)) = false := by
    by_cases p : a.phase = .preparing
    · rw [phase p]
      exact Bool.and_false _
    · rw [decide_eq_false p]
      rfl
  unfold workStep
  dsimp only
  rw [decide_eq_false path, warm, untuned, tune, done, down, unfrozen] <;> rfl

end

/-! ### The orders asked -/

theorem askPath_eq (is : h.asg[t] = some a) : askPath e t a h =
    pathRequest e t ⟨a.eff.out, a.eff.preset, if a.hold = true then 4 else (a.sched.map Sched.prio).getD 0⟩
      (h.setAsg t (some { a with path := .asked })) := by
  unfold askPath
  rw [mapAsg_some is]

theorem askTune_refused (refused : checkParams e.k h t a.eff ≠ .permitted) :
    askTune e t a h = refuseAsg e t .tune (checkParams e.k h t a.eff) h := by
  unfold askTune
  split
  · next w => exact absurd w refused
  · rfl

theorem askRaise_refused (refused : checkParams e.k h t a.eff ≠ .permitted) :
    askRaise e t a h = refuseAsg e t .raise (checkParams e.k h t a.eff) h := by
  unfold askRaise
  split
  · next w => exact absurd w refused
  · rfl

section
variable (is : h.asg[t] = some a) (permitted : checkParams e.k h t a.eff = .permitted)
include is permitted

theorem askTune_sends (tune : a.tune = .wanted) (runs : a.phase.isEnding = false)
    (st : (h.tx[t]).st = .standby ∨ (h.tx[t]).st = .ready) (out : (h.tx[t]).out = none) : askTune e t a h =
    (h.setAsg t (some { a with tune := .asked })).setTx t fun r =>
      { r with out := some (Order.mk0 (.tune a.eff.freq a.eff.mode a.eff.prog) true false) } := by
  have listed : orderListed (.tune a.eff.freq a.eff.mode a.eff.prog) (h.tx[t]).st = true := by
    rcases st with st | st <;> rw [st] <;> rfl
  unfold askTune
  rw [permitted]
  dsimp only
  rw [handOrder_sent listed nofun nofun out rfl, setTx_mapAsg is, tune, runs]
  rfl

variable (listed : orderListed (.raise a.eff.power) (h.tx[t]).st = true)
include listed

theorem askRaise_sends (out : (h.tx[t]).out = none) (held : raiseHeld e h t = false) : askRaise e t a h =
    (h.setAsg t (some { a with raise := .asked, power := false, lowerOver := false })).setTx t fun r =>
      { r with out := some (Order.mk0 (.raise a.eff.power) true false) } := by
  unfold askRaise
  rw [permitted]
  dsimp only
  rw [mapAsg_some is]
  exact handOrder_sent (h := h.setAsg t _) listed nofun nofun out ((congrArg (true && ·) held).trans rfl)

theorem askRaise_waits (pend : (h.tx[t]).pend = none) (held : raiseHeld e h t = true) : askRaise e t a h =
    (h.setAsg t (some { a with raise := .asked, power := false, lowerOver := false })).setTx t fun r =>
      { r with pend := some (Order.mk0 (.raise a.eff.power) true false) } := by
  unfold askRaise
  rw [permitted]
  dsimp only
  rw [mapAsg_some is]
  refine (handOrder_listed (h := h.setAsg t _) listed nofun nofun).trans ((if_pos ?_).trans (makePending_none pend))
  rw [Bool.or_eq_true]
  exact .inr held

end

/-! ### New effective parameters -/

section
variable {viaHold : Bool} {new : Params}

theorem rework_kept : (rework viaHold new a).eff = new ∧ (rework viaHold new a).sched = a.sched ∧
    (rework viaHold new a).trips = a.trips ∧ (rework viaHold new a).tripTimes = a.tripTimes ∧
    (rework viaHold new a).fold = a.fold ∧ (rework viaHold new a).late = a.late := by
  unfold rework
  dsimp only
  split
  · exact ⟨rfl, rfl, rfl, rfl, rfl, rfl⟩
  · exact ⟨rfl, rfl, rfl, rfl, rfl, rfl⟩
  · exact ⟨rfl, rfl, rfl, rfl, rfl, rfl⟩
  · split <;> exact ⟨rfl, rfl, rfl, rfl, rfl, rfl⟩
  · split <;> exact ⟨rfl, rfl, rfl, rfl, rfl, rfl⟩
  · split
    · exact ⟨rfl, rfl, rfl, rfl, rfl, rfl⟩
    · split <;> exact ⟨rfl, rfl, rfl, rfl, rfl, rfl⟩
  · split
    · exact ⟨rfl, rfl, rfl, rfl, rfl, rfl⟩
    · split <;> exact ⟨rfl, rfl, rfl, rfl, rfl, rfl⟩
  · exact ⟨rfl, rfl, rfl, rfl, rfl, rfl⟩

/-- R62: a change that asks for TUNE, and one that asks for the path. -/
def Retuned (a : Asg) (new : Params) : Prop := a.eff.freq ≠ new.freq ∨ a.eff.mode ≠ new.mode

def Rerouted (a : Asg) (new : Params) : Prop := a.eff.out ≠ new.out ∨ a.eff.preset ≠ new.preset

theorem retuned_iff : (decide (a.eff.freq ≠ new.freq) || decide (a.eff.mode ≠ new.mode)) = true ↔ Retuned a new := by
  rw [Bool.or_eq_true, decide_eq_true_eq, decide_eq_true_eq, Retuned]

theorem rerouted_iff : (decide (a.eff.out ≠ new.out) || decide (a.eff.preset ≠ new.preset)) = true ↔ Rerouted a new := by
  rw [Bool.or_eq_true, decide_eq_true_eq, decide_eq_true_eq, Rerouted]


theorem rework_reworks (phase : a.phase = .waiting ∨ a.phase = .raising ∨ a.phase = .onAir ∨ a.phase = .tripped)
    (w : Retuned a new ∨ Rerouted a new) : (rework viaHold new a).phase = .reworking ∧ (rework viaHold new a).raise = .done ∧
    (rework viaHold new a).power = false ∧
    (rework viaHold new a).tune = (if a.eff.freq ≠ new.freq ∨ a.eff.mode ≠ new.mode then .wanted else a.tune) ∧
    (rework viaHold new a).path = (if a.eff.out ≠ new.out ∨ a.eff.preset ≠ new.preset then .wanted else a.path) := by
  rw [← retuned_iff, ← rerouted_iff, ← Bool.or_eq_true] at w
  unfold rework
  dsimp only
  rcases phase with p | p | p | p <;> simp only [p, w, if_true, Bool.or_eq_true, decide_eq_true_eq, and_self]

theorem rework_runs (phase : a.phase = .waiting ∨ a.phase = .raising ∨ a.phase = .onAir ∨ a.phase = .tripped)
    (tuned : ¬ Retuned a new) (routed : ¬ Rerouted a new) : (rework viaHold new a).phase = a.phase ∧
    (rework viaHold new a).tune = a.tune ∧ (rework viaHold new a).path = a.path ∧ (rework viaHold new a).raise = a.raise ∧
    ((rework viaHold new a).power = true ↔ a.power = true ∨ (a.eff.power ≠ new.power ∧
      (a.phase = .onAir ∨ (a.phase = .raising ∧ a.raise ≠ .wanted)))) := by
  rw [← retuned_iff, Bool.not_eq_true] at tuned
  rw [← rerouted_iff, Bool.not_eq_true] at routed
  unfold rework
  dsimp only
  rw [tuned, routed]
  rcases phase with p | p | p | p
  · simp [p]
  · by_cases power : a.eff.power = new.power
    · simp [p, power]
    · by_cases raise : a.raise = .wanted <;> simp [p, power, raise]
  · by_cases power : a.eff.power = new.power <;> simp [p, power]
  · simp [p]

theorem rework_works (phase : a.phase = .preparing ∨ a.phase = .muted ∨ a.phase = .reworking) :
    (rework viaHold new a).phase = a.phase ∧
    (rework viaHold new a).path = (if a.eff.out ≠ new.out ∨ a.eff.preset ≠ new.preset then .wanted else a.path) ∧
    (rework viaHold new a).tune = if (a.eff.freq ≠ new.freq ∨ a.eff.mode ≠ new.mode) ∨ (a.phase = .preparing ∧
      ((a.eff.out ≠ new.out ∨ a.eff.preset ≠ new.preset) ∨ a.eff.prog ≠ new.prog)) then .wanted else a.tune := by
  unfold rework
  dsimp only
  rcases phase with p | p | p
  · simp [p, or_assoc]
  · simp [p]
  · simp [p]
end

end
end Sys2Proof.Machine

namespace Sys2Proof.Machine

set_option Elab.async false

/-- An assignment but for what the end of another one can hand it: the output it awaits. -/
def Asg.steady (a : Asg) : Asg := { a with awaits := none, path := .done }

/-- From `g` to `h` by ends of assignments of transmitters of `d`, whatever becomes of their occurrences: other transmitters keep
their records and stacks, and their assignments but for an output awaited. -/
structure Spares (d : Tx → Prop) (g h : Hall) : Prop where
  asg : ∀ u : Tx, ¬ d u → (h.asg[u]).map Asg.steady = (g.asg[u]).map Asg.steady
  tx : ∀ u : Tx, ¬ d u → h.tx[u] = g.tx[u]
  stack : ∀ u : Tx, ¬ d u → h.stack[u] = g.stack[u]
  emit : g.emit <+: h.emit

section
variable {d : Tx → Prop} {g h k : Hall} {e : Env} {t u : Tx} {o : Out} {a b : Asg}

namespace Spares

theorem refl (d : Tx → Prop) (h : Hall) : Spares d h h := ⟨fun _ _ => rfl, fun _ _ => rfl, fun _ _ => rfl, List.prefix_rfl⟩

theorem trans (x : Spares d g h) (y : Spares d h k) : Spares d g k :=
  ⟨fun u w => (y.asg u w).trans (x.asg u w), fun u w => (y.tx u w).trans (x.tx u w),
    fun u w => (y.stack u w).trans (x.stack u w), x.emit.trans y.emit⟩

theorem mono {d' : Tx → Prop} (x : Spares d g h) (w : ∀ u, d u → d' u) : Spares d' g h :=
  ⟨fun u v => x.asg u fun z => v (w u z), fun u v => x.tx u fun z => v (w u z), fun u v => x.stack u fun z => v (w u z), x.emit⟩

theorem ite {c : Prop} [Decidable c] {a b : Hall} (x : Spares d g a) (y : Spares d g b) : Spares d g (if c then a else b) := by
  split <;> assumption

theorem each {α : Type} {l : List α} {f : α → Hall → Hall} (x : Spares d g h)
    (y : ∀ a ∈ l, ∀ k, Spares d g k → Spares d g (f a k)) : Spares d g (h.each l f) := by
  induction l generalizing h with
  | nil => exact x
  | cons a l ih => exact ih (y a List.mem_cons_self h x) fun b m => y b (List.mem_cons_of_mem a m)

/-- An update of what the relation does not speak of. -/
theorem plain (x : Spares d g h) (asg : k.asg = h.asg := by rfl) (tx : k.tx = h.tx := by rfl) (stack : k.stack = h.stack := by rfl)
    (emit : k.emit = h.emit := by rfl) : Spares d g k :=
  x.trans ⟨fun _ _ => by rw [asg], fun _ _ => by rw [tx], fun _ _ => by rw [stack], by rw [emit]⟩

protected theorem note {b : NoticeBody} (x : Spares d g h) : Spares d g (h.note b) :=
  x.trans { refl d h with emit := List.prefix_append _ _ }

protected theorem setTx {f : TxRec → TxRec} (x : Spares d g h) (w : d t) : Spares d g (h.setTx t f) :=
  x.trans { refl d h with tx := fun u v => by rw [Hall.setTx_tx, get_upd, if_neg fun z : t = u => v (z ▸ w)] }

protected theorem setAsg {a : Option Asg} (x : Spares d g h) (w : d t) : Spares d g (h.setAsg t a) :=
  x.trans { refl d h with asg := fun u v => by rw [Hall.setAsg_asg, get_upd, if_neg fun z : t = u => v (z ▸ w)] }

protected theorem mapAsg {f : Asg → Asg} (x : Spares d g h) (w : d t) : Spares d g (h.mapAsg t f) :=
  x.trans { refl d h with asg := fun u v => by rw [Hall.mapAsg_asg, get_upd, if_neg fun z : t = u => v (z ▸ w)] }

/-- An assignment that is handed what it awaits. -/
protected theorem handed {f : Asg → Asg} (x : Spares d g h) (w : ∀ a, (f a).steady = a.steady) : Spares d g (h.mapAsg t f) := by
  refine x.trans { refl d h with asg := fun u _ => ?_ }
  rw [Hall.mapAsg_asg, get_upd]
  split
  · next eq =>
    subst eq
    rw [Option.map_map]
    exact congrArg (fun f => (h.asg[t]).map f) (funext w)
  · rfl

protected theorem release (x : Spares d g h) : Spares d g (release o h) := .ite x.plain x.plain

protected theorem passClaim (x : Spares d g h) : Spares d g (passClaim t o h) := by
  unfold passClaim
  split
  · exact (x.plain (k := h.setOwner o _)).handed fun _ => rfl
  · exact x.release

protected theorem clearAwaits (x : Spares d g h) : Spares d g (clearAwaits t h) := by
  refine x.trans { refl d h with asg := fun u _ => ?_ }
  unfold clearAwaits
  simp only [Fin.getElem_fin, Vector.getElem_map]
  cases h.asg[u.val] with
  | none => rfl
  | some a =>
    simp only [Option.map_some]
    split <;> rfl

protected theorem endGiven (x : Spares d g h) (w : d t) : Spares d g (endGiven t h) :=
  ((x.each fun _ _ _ y => y.passClaim).setAsg w).clearAwaits

protected theorem endPushed {it : Option Item} {after : After} (x : Spares d g h) (w : d t) :
    Spares d g (endPushed e t it after h) := by
  unfold endPushed
  split
  · next r i =>
    refine .ite x (x.trans ?_)
    have grows := (pushStack_moves (e := e) (t := t) (it := i) (r := r) (Moves.refl h)).emit
    obtain ⟨al, bs, em, eq⟩ := pushStack_hall (e := e) (t := t) (it := i) (r := r) (h := h)
    rw [eq] at grows ⊢
    exact ⟨fun _ _ => rfl, fun _ _ => rfl, fun u v => by rw [get_upd, if_neg fun z : t = u => v (z ▸ w)], grows⟩
  · exact x

protected theorem completeEnd (x : Spares d g h) (w : d t) : Spares d g (completeEnd e t h) := by
  cases ha : h.asg[t] with
  | none =>
    unfold completeEnd
    rw [ha]
    exact x
  | some a =>
    cases hp : a.phase with
    | ending oc after =>
      rw [completeEnd_eq ha hp]
      have y := ((x.endPushed (e := e) (it := a.item t) (after := after) w).endGiven w).note (b := endNotice t a oc after)
      generalize (endGiven t (endPushed e t (a.item t) after h)).note (endNotice t a oc after) = m at y
      have grows := endListed_emit (e := e) (it := a.item t) (after := after) (h := m)
      obtain ⟨f, bs, em, eq⟩ := endListed_hall (e := e) (it := a.item t) (after := after) (h := m)
      rw [eq] at grows ⊢
      exact y.trans ⟨fun _ _ => rfl, fun _ _ => rfl, fun _ _ => rfl, grows⟩
    | _ =>
      unfold completeEnd
      rw [ha]
      dsimp only
      rw [hp]
      exact x

protected theorem overtaken {r : Order} (x : Spares d g h) (w : d t) : Spares d g (overtaken t r h) := ite (x.mapAsg w) x

protected theorem overtakeOut {p : Order → Bool} (x : Spares d g h) (w : d t) : Spares d g (overtakeOut t p h) := by
  unfold overtakeOut
  split
  · exact ite ((x.setTx w).overtaken w) x
  · exact x

protected theorem overtakePend {p : Order → Bool} (x : Spares d g h) (w : d t) : Spares d g (overtakePend t p h) := by
  unfold overtakePend
  split
  · exact ite ((x.setTx w).overtaken w) x
  · exact x

protected theorem queueLower {byTrip : Bool} (x : Spares d g h) (w : d t) : Spares d g (queueLower t byTrip h) := by
  unfold queueLower
  refine ite (ite (x.setTx w) x) ?_
  have y := (x.overtakeOut (p := fun o => o.kind.isRaise || o.kind.isTune) w).overtakePend (p := fun o => o.kind.isRaise) w
  dsimp only
  split
  · exact y.setTx w
  · exact (y.overtakePend w).setTx w

protected theorem handLower {byTrip : Bool} (x : Spares d g h) (w : d t) : Spares d g (handLower e t byTrip h) := by
  rcases handLower_cases (e := e) (t := t) (byTrip := byTrip) (h := h) with same | queued
  · rw [same]
    exact x
  · rw [queued]
    exact x.queueLower w

protected theorem cancelSeq (x : Spares d g h) : Spares d g (cancelSeq t h) := by
  obtain ⟨seqs, queue, eq⟩ := cancelSeq_hall (t := t) (h := h)
  rw [eq]
  exact x.plain

protected theorem endBegun (x : Spares d g h) (w : d t) : Spares d g (endBegun t b h) :=
  (((x.setAsg w).setTx w).setTx w).cancelSeq

protected theorem endAsg {oc : EndOutcome} {after : After} (x : Spares d g h) (w : d t) : Spares d g (endAsg e t oc after h) := by
  cases ha : h.asg[t] with
  | none =>
    unfold endAsg
    rw [ha]
    exact x
  | some a =>
    cases hp : a.phase.isEnding with
    | true =>
      rw [endAsg_ending ha hp]
      exact x
    | false =>
      rw [endAsg_begun ha hp]
      have y := x.endBegun (b := a.ended oc after) w
      generalize endBegun t (a.ended oc after) h = m at y
      unfold tryEnd
      split
      · exact y
      · exact ite y (ite (y.completeEnd w) (ite y (y.handLower w)))

protected theorem abortAsg (x : Spares d g h) (w : d t) : Spares d g (abortAsg e t h) := by
  unfold abortAsg
  split
  · exact x
  · exact ite (x.setAsg w) (x.endAsg w)

/-- The assignment of a transmitter that is spared. -/
theorem asg_some (x : Spares d g h) (w : ¬ d t) (ha : g.asg[t] = some a) : ∃ b, h.asg[t] = some b ∧ b.steady = a.steady := by
  have same := x.asg t w
  rw [ha] at same
  exact Option.map_eq_some_iff.1 same

theorem asg_back (x : Spares d g h) (w : ¬ d t) (hb : h.asg[t] = some b) : ∃ a, g.asg[t] = some a ∧ b.steady = a.steady := by
  have same := x.asg t w
  rw [hb] at same
  obtain ⟨a, ha, eq⟩ := Option.map_eq_some_iff.1 same.symm
  exact ⟨a, ha, eq.symm⟩

theorem asg_none (x : Spares d g h) (w : ¬ d t) (ha : g.asg[t] = none) : h.asg[t] = none := by
  have same := x.asg t w
  rw [ha] at same
  exact Option.map_eq_none_iff.1 same

end Spares

theorem steady_phase (w : b.steady = a.steady) : b.phase = a.phase := congrArg (·.phase) w

theorem steady_endNotice {oc : EndOutcome} {after : After} (w : b.steady = a.steady) :
    endNotice t b oc after = endNotice t a oc after := by
  have sched : b.sched = a.sched := congrArg (·.sched) w
  have late : b.late = a.late := congrArg (·.late) w
  have trips : b.trips = a.trips := congrArg (·.trips) w
  have fold : b.fold = a.fold := congrArg (·.fold) w
  rw [endNotice, sched, late, trips, fold, endNotice]

/-! ### Every assignment ABORTED -/

/-- R48: the abort of T's assignment stands between those of the others, which spare it. -/
theorem aborts_split (t : Tx) : ∃ k, Spares (· ≠ t) h k ∧ Spares (· ≠ t) (abortAsg e t k) (h.each allTx (abortAsg e)) := by
  obtain ⟨before, after, split⟩ := List.append_of_mem (mem_allTx t)
  have once : (before ++ t :: after).Nodup := split ▸ nodup_allTx
  rw [List.nodup_middle, List.nodup_cons, List.mem_append, not_or] at once
  have walk {l : List Tx} (away : t ∉ l) (g : Hall) : Spares (· ≠ t) g (g.each l (abortAsg e)) :=
    (Spares.refl _ g).each fun u m _ y => y.abortAsg fun eq => away (eq ▸ m)
  refine ⟨h.each before (abortAsg e), walk once.1.1 h, ?_⟩
  have all : h.each allTx (abortAsg e) = (abortAsg e t (h.each before (abortAsg e))).each after (abortAsg e) := by
    rw [split]
    exact List.foldl_append
  rw [all]
  exact walk once.1.2 _

theorem aborts_aborted (ha : (h.each allTx (abortAsg e)).asg[t] = some a) : a.phase = .ending .aborted .nothing := by
  obtain ⟨k, -, late⟩ := aborts_split (h := h) (e := e) t
  obtain ⟨b, hb, same⟩ := late.asg_back (not_not.2 rfl) ha
  rw [steady_phase same]
  rcases abortAsg_asg (e := e) (t := t) (h := k) with none | ⟨_, c, _, hc, phase, _⟩
  · rw [none] at hb
    cases hb
  · obtain rfl := Option.some.inj (hc.symm.trans hb)
    exact phase

section
variable (ha : h.asg[t] = some a) (hp : a.phase.isEnding = false)
include ha hp

theorem aborts_gone (down : ¬ Radiates h.tx[t]) : (h.each allTx (abortAsg e)).asg[t] = none ∧
    endNotice t a .aborted .nothing ∈ (h.each allTx (abortAsg e)).emit := by
  obtain ⟨k, early, late⟩ := aborts_split (h := h) (e := e) t
  obtain ⟨b, hb, same⟩ := early.asg_some (not_not.2 rfl) ha
  have runs : b.phase.isEnding = false := by rw [steady_phase same, hp]
  rw [← early.tx t (not_not.2 rfl)] at down
  obtain ⟨none, -, -, told⟩ := endAsg_free (e := e) (oc := .aborted) (after := .nothing) hb runs down
  rw [← abortAsg_running hb runs] at none told
  rw [← steady_endNotice same]
  exact ⟨late.asg_none (not_not.2 rfl) none, late.emit.subset told⟩

/-- R66: an end of a transmitter that radiates has a LOWER in hand. -/
theorem endAsg_lowers {oc : EndOutcome} (rad : Radiates h.tx[t]) (st : (h.tx[t]).st ≠ .lowering)
    (known : txDefined e.k h t = true) : ((endAsg e t oc .nothing h).tx[t]).lowerInHand = true := by
  have body := (endBegun_quiet (t := t) (b := a.ended oc .nothing) (h := h)).body t
  have needs : ((endBegun t (a.ended oc .nothing) h).tx[t]).needsLower = true :=
    (needsLower_body body).trans (needsLower_iff.2 rad)
  have state := body_st body
  have undef : ((endBegun t (a.ended oc .nothing) h).tx[t]).undef = (h.tx[t]).undef := body_undef body
  rw [endAsg_eq ha hp, if_neg (by rw [needs]; exact nofun)]
  generalize endBegun t (a.ended oc .nothing) h = k at state undef needs
  rw [← state] at st
  split
  · next w => exact w.resolve_right st
  · have goes : LowerGoes e k t := by
      refine ⟨txDefined_iff.1 ((txDefined_congr undef).trans known), ?_⟩
      rcases needsLower_iff.1 needs with w | ⟨w, -⟩
      · refine ⟨fun q => ?_, fun q => ?_, fun q => ?_⟩
        · rw [q] at w
          cases w
        · rw [q] at w
          cases w
        · rcases q with q | q | q | q | q <;> rw [q] at w <;> cases w
      · rw [w]
        exact ⟨nofun, nofun, fun q => by simp at q⟩
    rw [handLower_goes goes]
    exact queueLower_inHand

theorem aborts_lowers (rad : Radiates h.tx[t]) (st : (h.tx[t]).st ≠ .lowering) (known : txDefined e.k h t = true) :
    ((h.each allTx (abortAsg e)).tx[t]).lowerInHand = true := by
  obtain ⟨k, early, late⟩ := aborts_split (h := h) (e := e) t
  obtain ⟨b, hb, same⟩ := early.asg_some (not_not.2 rfl) ha
  have runs : b.phase.isEnding = false := by rw [steady_phase same, hp]
  have tx := early.tx t (not_not.2 rfl)
  rw [late.tx t (not_not.2 rfl), abortAsg_running hb runs]
  rw [← tx] at rad st
  exact endAsg_lowers hb runs rad st ((txDefined_congr (congrArg TxRec.undef tx)).trans known)

end

theorem aborts_quiet : Quiet (fun _ => True) h (h.each allTx (abortAsg e)) :=
  (Quiet.refl _ h).each fun y => y.abortAsg trivial

theorem aborts_ends : Ends (fun _ => True) h (h.each allTx (abortAsg e)) :=
  (Ends.refl _ h).each fun _ _ _ y => abortAsg_ends y trivial

/-! ### QUIESCE -/

theorem cancelSeqs_hall {l : List Tx} : ∃ p, h.each l cancelSeq = { h with path := p } := by
  induction l generalizing h with
  | nil => exact ⟨h.path, rfl⟩
  | cons t l ih =>
    obtain ⟨seqs, queue, eq⟩ := cancelSeq_hall (t := t) (h := h)
    rw [Hall.each_cons, eq]
    exact ih

/-- R48: the hall as QUIESCE aborts its assignments. -/
def quiesceAborted (e : Env) (h : Hall) : Hall := (setMode .quiescent .quiesce h).each allTx (abortAsg e)

theorem quiesceHall_eq : quiesceHall e h = recheckHead ((expireAll (quiesceAborted e h)).each allTx cancelSeq) := rfl

/-- R48, R33: the rest of QUIESCE. -/
theorem quiesceHall_hall : ∃ cs p, quiesceHall e h = { expireAll (quiesceAborted e h) with changes := cs, path := p } := by
  obtain ⟨p, cancelled⟩ := cancelSeqs_hall (h := expireAll (quiesceAborted e h)) (l := allTx)
  obtain ⟨cs, head⟩ := recheckHead_hall (h := { expireAll (quiesceAborted e h) with path := p })
  refine ⟨cs, p, ?_⟩
  rw [quiesceHall_eq, cancelled, head]

theorem quiesceHall_same : (quiesceHall e h).stack = (expireAll (quiesceAborted e h)).stack ∧
    (quiesceHall e h).deferral = (expireAll (quiesceAborted e h)).deferral ∧
    (quiesceHall e h).asg = (quiesceAborted e h).asg ∧ (quiesceHall e h).emit = (expireAll (quiesceAborted e h)).emit := by
  obtain ⟨cs, p, eq⟩ := quiesceHall_hall (e := e) (h := h)
  have asg := (expireAll_same (h := quiesceAborted e h)).2.2
  generalize expireAll (quiesceAborted e h) = k at eq asg ⊢
  rw [eq, ← asg]
  exact ⟨rfl, rfl, rfl, rfl⟩

theorem recheckHead_quiet {d : Tx → Prop} : Quiet d h (recheckHead h) := by
  obtain ⟨cs, eq⟩ := recheckHead_hall (h := h)
  rw [eq]
  exact (Quiet.refl d h).plain

/-- R48: what QUIESCE keeps of the hall. -/
theorem quiesceHall_quiet : Quiet (fun _ => True) (setMode .quiescent .quiesce h) (quiesceHall e h) := by
  rw [quiesceHall_eq]
  exact ((expireAll_quiet aborts_quiet).each fun y => y.cancelSeq).trans recheckHead_quiet

/-- R48: the transmitters, past the aborts. -/
theorem quiesceHall_tx : (quiesceHall e h).tx[t] = (quiesceAborted e h).tx[t] := by
  rw [quiesceHall_eq]
  exact (((expireAll_quiet (Quiet.refl (fun _ => False) _)).each fun y => y.cancelSeq).trans recheckHead_quiet).tx t id

end
end Sys2Proof.Machine

namespace Sys2Proof.Proofs

set_option Elab.async false
section
open Machine

/-- What QUIESCE does to the hall (R48). -/
theorem quiesce_clauses (e : Env) (h : Hall) :
    (quiesceHall e h).mode = .quiescent ∧ (∀ t : Tx, (quiesceHall e h).stack[t] = []) ∧ (quiesceHall e h).deferral = [] ∧
    (quiesceHall e h).holds = h.holds ∧ (quiesceHall e h).dslot = h.dslot ∧ (quiesceHall e h).running = h.running ∧
    (∀ (t : Tx) (a : Asg), (quiesceHall e h).asg[t] = some a → a.phase = .ending .aborted .nothing) ∧
    .hall .quiescent .quiesce ∈ (quiesceHall e h).emit ∧
    (∀ t : Tx, ∀ i ∈ h.stack[t], .expired i.item.occ ∈ (quiesceHall e h).emit) ∧
    (∀ i ∈ h.deferral, .expired i.item.occ ∈ (quiesceHall e h).emit) := by
  have quiet := quiesceHall_quiet (e := e) (h := h)
  have ends : Ends (fun _ => True) (setMode .quiescent .quiesce h) (quiesceAborted e h) := aborts_ends
  have aborted (t : Tx) (a : Asg) (ha : (quiesceAborted e h).asg[t] = some a) : a.phase = .ending .aborted .nothing :=
    aborts_aborted ha
  have stack (t : Tx) (i : StackItem) (m : i ∈ h.stack[t]) : i ∈ (quiesceAborted e h).stack[t] := by
    rw [ends.stack]
    exact m
  have deferral (i : DeferItem) (m : i ∈ h.deferral) : i ∈ (quiesceAborted e h).deferral := by
    rw [ends.deferral]
    exact m
  obtain ⟨emptied, listed, -⟩ := expireAll_same (h := quiesceAborted e h)
  obtain ⟨emptiedStack, emptiedList, asgs, emits⟩ := quiesceHall_same (e := e) (h := h)
  have expired (t : Tx) (i : StackItem) (m : i ∈ h.stack[t]) : .expired i.item.occ ∈ (quiesceHall e h).emit := by
    rw [emits]
    exact expireAll_stack_emit (stack t i m)
  have lapsed (i : DeferItem) (m : i ∈ h.deferral) : .expired i.item.occ ∈ (quiesceHall e h).emit := by
    rw [emits]
    exact expireAll_deferral_emit (deferral i m)
  have noted : NoticeBody.hall .quiescent .quiesce ∈ (setMode .quiescent .quiesce h).emit :=
    List.mem_append_right _ List.mem_cons_self
  refine ⟨quiet.mode, fun t => ?_, emptiedList.trans listed, quiet.holds, quiet.dslot, quiet.running, fun t a ha => ?_,
    quiet.emit.subset noted, expired, lapsed⟩
  · rw [emptiedStack]
    exact emptied t
  · rw [asgs] at ha
    exact aborted t a ha

/-- What QUIESCE does to a transmitter whose assignment was not ENDING (R48, R66). -/
theorem quiesce_tx_clauses (e : Env) (h : Hall) (t : Tx) : ((quiesceHall e h).tx[t]).st = (h.tx[t]).st ∧
    ∀ a : Asg, h.asg[t] = some a → a.phase.isEnding = false →
      (Radiates h.tx[t] → (h.tx[t]).st ≠ .lowering → txDefined e.k h t = true →
        ((quiesceHall e h).tx[t]).lowerInHand = true) ∧
      (¬ Radiates h.tx[t] → (quiesceHall e h).asg[t] = none ∧
        .assignment t (a.sched.map Sched.occ) .aborted a.late a.trips a.fold .nothing ∈ (quiesceHall e h).emit) := by
  refine ⟨body_st (quiesceHall_quiet.body t), fun a ha hp => ⟨fun rad st known => ?_, fun down => ?_⟩⟩
  · rw [quiesceHall_tx]
    exact aborts_lowers (h := setMode .quiescent .quiesce h) ha hp rad st known
  · obtain ⟨gone, told⟩ := aborts_gone (e := e) (h := setMode .quiescent .quiesce h) ha hp down
    obtain ⟨-, -, asgs, emits⟩ := quiesceHall_same (e := e) (h := h)
    rw [asgs, emits]
    exact ⟨gone, (expireAll_quiet (Quiet.refl (fun _ => False) _)).emit.subset told⟩

/-- Settles O24: the engine's step by the test that its case passes first (`driveOn_works` and the lemmas of each work), the new
parameters by the phase, and QUIESCE by what its aborts leave. -/
theorem quiesceResume : Obligations.QuiesceResume := by
  unfold Obligations.QuiesceResume
  refine ⟨fun e t h a is => ?drive, fun viaHold new a => ?rework, fun tag s w => ⟨fun running => ?quiesce, fun mode => ?notRunning,
    fun quiescent => ?resume, fun mode => ?notQuiescent⟩⟩
  case drive =>
    have claimless : a.phase.works = false ∨ a.path ≠ .wanted ∨ h.path.owner[a.eff.out] = some t →
        a.phase.isEnding = false → driveStep e t h = driveOn e t a h := fun w runs => driveStep_on is runs w
    have runs (works : a.phase.works = true) : a.phase.isEnding = false := by
      rcases works_iff.1 works with p | p | p <;> rw [p] <;> rfl
    have orderly : frozen h t = false ∧ (h.tx[t]).rcv.stage = .idle → ordersWait h t = false := ordersWait_eq_false.2
    have idle {p : OrderKind → Bool} (out : (h.tx[t]).out = none) (pend : (h.tx[t]).pend = none) :
        (h.tx[t]).inHand p = false := inHand_none out pend
    have working (works : a.phase.works = true) (muted : a.phase = .muted → muting e h t = true)
        (reworks : a.phase = .reworking → ¬ muting e h t = true)
        (still : (h.tx[t]).st = .raising ∨ (h.tx[t]).st = .onAir → (h.tx[t]).lowerInHand = true)
        (unclaimed : a.path ≠ .wanted ∨ h.path.owner[a.eff.out] = some t) : driveStep e t h = workStep e t a h := by
      rw [claimless (.inr unclaimed) (runs works),
        driveOn_works works muted fun p => Bool.eq_false_iff.2 (reworks p)]
      exact if_neg fun q => by
        rw [still q.1] at q
        exact nomatch q.2.1
    dsimp only
    rw [← muting_iff, ← lowered_iff, ← works_iff]
    refine ⟨fun ending => ⟨fun ended => ?_, fun waits needs => ⟨?_, fun hand st known => ?_, fun hand => ?_⟩⟩, fun going => ?_,
      fun works path waits owns free => driveStep_claims is works path waits owns free, fun phases mute => ?_,
      fun phase unmuted unclaimed => ?_, fun works muted reworks unclaimed st hand known waits => ?_,
      fun works muted reworks still path owns unfrozen down => ?_, fun phase path cold orders out pend => ?_,
      fun works muted reworks path tuning down orders out pend => ?_, fun phase tune path ready down unfrozen => ?_,
      fun phase unmuted still tune path down unfrozen => ?_, fun raises unmuted orders out pend => ?_⟩
    · rw [endStep_eq is, ending]
      exact if_pos (by simpa using ended)
    · rw [endStep_eq is, waits, needs]
      exact if_neg (by simp)
    · rw [driveStep_ending is ending, waits, needs, hand, known, decide_eq_true st]
      rfl
    · rw [driveStep_ending is ending, waits, needs, hand]
      rfl
    · rw [endStep_eq is, going]
      rfl
    · have unclaimed : a.phase.works = false ∨ a.path ≠ .wanted ∨ h.path.owner[a.eff.out] = some t := by
        rcases phases with p | p | p | p | ⟨-, w⟩
        · exact .inl (by rw [p]; rfl)
        · exact .inl (by rw [p]; rfl)
        · exact .inl (by rw [p]; rfl)
        · exact .inl (by rw [p]; rfl)
        · exact .inr w
      have kind : a.phase.isEnding = false ∧ a.phase.mutes = true := by
        rcases phases with p | p | p | p | ⟨p, -⟩ <;> rw [p] <;> exact ⟨rfl, rfl⟩
      rw [claimless unclaimed kind.1, driveOn_mutes kind.2 mute]
      exact ⟨fun foreign => congrArg some (muteAsg_foreign foreign), fun sched => congrArg some (muteAsg_sched is sched)⟩
    · rw [claimless (.inr unclaimed) (by rw [phase]; rfl), driveOn_muted is phase (Bool.eq_false_iff.2 unmuted)]
      refine ⟨fun tune path => ?_, fun undone => ?_⟩
      · rw [if_pos ⟨tune, path⟩, goOnAir_eq is]
      · exact if_neg fun q => undone.elim (· q.1) (· q.2)
    · rw [claimless (.inr unclaimed) (runs works),
        driveOn_works works muted fun p => Bool.eq_false_iff.2 (reworks p)]
      exact if_pos ⟨st, hand, known, waits⟩
    · rw [working works muted reworks still (.inr owns), workStep_path path owns unfrozen down, askPath_eq is]
    · have works : a.phase.works = true := by rw [phase]; rfl
      have listed : orderListed .warm (h.tx[t]).st = true := by rw [cold]; rfl
      rw [working works (fun p => by rw [phase] at p; cases p) (fun p => by rw [phase] at p; cases p)
          (fun st => by rw [cold] at st; simp at st) (.inl path),
        workStep_warm path phase cold (orderly orders) (idle out pend), handOrder_sent listed nofun nofun out rfl, setAsg_same is]
    · have state : a.tune = .wanted ∧ ((h.tx[t]).st = .standby ∨ (h.tx[t]).st = .ready) :=
        tuning.elim (fun w => ⟨w.1, .inl w.2⟩) fun w => ⟨w.1, .inr w.2⟩
      rw [working works muted reworks (fun st => by rcases state.2 with q | q <;> rw [q] at st <;> simp at st) (.inl path),
        workStep_tune path state.1 state.2 down (orderly orders) (idle out pend)]
      exact ⟨fun permitted => congrArg some (askTune_sends is permitted state.1 (runs works) state.2 out),
        fun refused => congrArg some (askTune_refused refused)⟩
    · have works : a.phase.works = true := by rw [phase]; rfl
      have free : a.path ≠ .wanted := by rw [path]; exact nofun
      rw [working works (fun p => by rw [phase] at p; cases p) (fun p => by rw [phase] at p; cases p)
          (fun st => by rw [ready] at st; simp at st) (.inl free),
        workStep_done free (fun _ => ready) tune path down unfrozen]
      simp only [phase]
      rw [if_neg (not_not.2 ready)]
      refine ⟨fun mute => ?_, fun unmuted => ?_⟩
      · rw [if_pos mute, mapAsg_some is]
      · rw [if_neg unmuted, goOnAir_eq is]
    · have works : a.phase.works = true := by rw [phase]; rfl
      have free : a.path ≠ .wanted := by rw [path]; exact nofun
      rw [working works (fun p => by rw [phase] at p; cases p) (fun _ => unmuted) still (.inl free),
        workStep_done free (fun p => by rw [phase] at p; cases p) tune path down unfrozen]
      simp only [phase]
      rw [if_neg unmuted, goOnAir_eq is]
    · have kind : a.phase.isEnding = false ∧ a.phase.works = false := by
        rcases raises with ⟨p, -⟩ | ⟨p, -⟩ <;> rw [p] <;> exact ⟨rfl, rfl⟩
      have listed : orderListed (.raise a.eff.power) (h.tx[t]).st = true := by
        rcases raises with ⟨-, -, st, -⟩ | ⟨-, -, st⟩ <;> rw [st] <;> rfl
      rw [claimless (.inl kind.2) kind.1, driveOn_raises (raises.imp_left fun ⟨p, r, _, d⟩ => ⟨p, r, d⟩)
        (Bool.eq_false_iff.2 unmuted) (orderly orders) (idle out pend)]
      exact ⟨fun permitted held => congrArg some (askRaise_sends is permitted listed out held),
        fun permitted held => congrArg some (askRaise_waits is permitted listed pend held),
        fun refused => congrArg some (askRaise_refused refused)⟩
  case rework =>
    obtain ⟨eff, sched, trips, times, fold, late⟩ := rework_kept (viaHold := viaHold) (new := new) (a := a)
    exact ⟨eff, sched, trips, times, fold, late, fun phase => ⟨rework_reworks phase, rework_runs phase⟩, rework_works⟩
  case quiesce =>
    obtain ⟨mode, stack, deferral, holds, dslot, plan, aborted, told, expired, lapsed⟩ := quiesce_clauses s.env s.hall
    refine ⟨quiesceHall s.env s.hall, completes_request w rfl ?_, mode, stack, deferral, holds, dslot, plan, aborted, told, expired,
      lapsed, quiesce_tx_clauses s.env s.hall⟩
    unfold quiesce
    rw [if_pos running]
    rfl
  case notRunning =>
    refine refused_request w rfl ?_
    unfold quiesce
    exact if_neg mode
  case resume =>
    refine takenOk_request w rfl ?_
    unfold resume
    rw [if_pos quiescent]
    rfl
  case notQuiescent =>
    refine refused_request w rfl ?_
    unfold resume
    exact if_neg mode

end
end Sys2Proof.Proofs

namespace Sys2Proof.Machine

set_option Elab.async false
section
variable {h k : Hall} {e : Env} {t u w : Tx} {o p : Out} {n : BankNo} {r : EntryRec} {d : Day} {it : Item} {en : Entry}

/-! ### Allocation: the case of R53 -/

theorem isAvail_iff {s : TxState} : isAvail s = true ↔ s = .cold ∨ s = .warming ∨ s = .standby ∨ s = .ready := by
  cases s <;> simp [isAvail]

theorem reservedByOther_iff : reservedByOther h o t = true ↔ ∃ u, reserver h o = some u ∧ u ≠ t := by
  unfold reservedByOther
  simp only [Option.any_eq_true, decide_eq_true_eq]

theorem allocCase_eq : allocCase h t o =
    if (h.tx[t]).st = .lockout ∨ (h.tx[t]).st = .isLocal ∨ (h.tx[t]).st = .unreachable ∨ (h.tx[t]).st = .absent then
      .deferred .txBlocked
    else if outState h o = .faulted then .deferred .outputBlocked
    else if ∃ u, reserver h o = some u ∧ u ≠ t then .deferred .outputBusy
    else if h.asg[t] ≠ none ∨ ∃ u, h.path.owner[o] = some u ∧ u ≠ t then .preempt
    else if (h.tx[t]).st = .cold ∨ (h.tx[t]).st = .warming ∨ (h.tx[t]).st = .standby ∨ (h.tx[t]).st = .ready then .create
    else .busy := by
  unfold allocCase
  refine if_congr ?_ rfl (if_congr Iff.rfl rfl (if_congr reservedByOther_iff rfl (if_congr ?_ rfl ?_)))
  · simp only [Bool.or_eq_true, decide_eq_true_eq, or_assoc]
  · simp only [Bool.or_eq_true, Option.any_eq_true, decide_eq_true_eq, Option.isSome_iff_ne_none]
  · by_cases free : isAvail (h.tx[t]).st = true
    · rw [if_pos (isAvail_iff.1 free), free]
      rfl
    · rw [if_neg (mt isAvail_iff.2 free), Bool.eq_false_iff.2 free]
      rfl

/-! ### The scan -/

/-- R69: where an occurrence stands. -/
theorem occHeld_iff {x : Occ} : occHeld h x = true ↔
    (∃ (t : Tx) (a : Asg) (y : Sched), h.asg[t] = some a ∧ a.sched = some y ∧ y.occ = x) ∨
      (∃ t : Tx, ∃ i ∈ h.stack[t], i.item.occ = x) ∨ ∃ i ∈ h.deferral, i.item.occ = x := by
  unfold occHeld
  rw [Bool.or_eq_true, List.any_eq_true, List.any_eq_true, ← or_assoc]
  refine or_congr ⟨?_, ?_⟩ (by simp only [decide_eq_true_eq])
  · rintro ⟨t, -, q⟩
    rw [Bool.or_eq_true, Option.any_eq_true, List.any_eq_true] at q
    rcases q with ⟨a, ha, q⟩ | ⟨i, m, q⟩
    · obtain ⟨y, hy, q⟩ := (Option.any_eq_true _ _).1 q
      exact .inl ⟨t, a, y, ha, hy, of_decide_eq_true q⟩
    · exact .inr ⟨t, i, m, of_decide_eq_true q⟩
  · rintro (⟨t, a, y, ha, hy, q⟩ | ⟨t, i, m, q⟩)
    · refine ⟨t, mem_allTx t, ?_⟩
      rw [ha, Option.any_some, hy, Option.any_some, decide_eq_true q, Bool.true_or]
    · exact ⟨t, mem_allTx t, by rw [Bool.or_eq_true, List.any_eq_true]; exact .inr ⟨i, m, decide_eq_true q⟩⟩

theorem occDue_iff : due e h n r d = true ↔ (∃ start, (h.banks[n]).start = some start ∧ hasOcc r.entry start d = true) ∧
    occStart r.entry d * 60 ≤ e.sec + r.entry.lead.getD e.k.lead ∧ e.min < occStop r.entry d ∧
    (∀ m, r.mark = some m → m < occStart r.entry d) ∧ ¬ occHeld h ⟨n, r.entry.id, d⟩ = true := by
  unfold due admitted leadOf
  simp only [Bool.and_eq_true, Option.any_eq_true, decide_eq_true_eq, Option.all_eq_true, Bool.not_eq_true', Bool.not_eq_true,
    and_assoc]

theorem candBefore_iff {a b : Cand} : candBefore a b = true ↔
    NumBefore a.r.entry.prio (occStart a.r.entry a.day) a.r.entry.tx.val a.r.entry.id
      b.r.entry.prio (occStart b.r.entry b.day) b.r.entry.tx.val b.r.entry.id := by
  simp only [candBefore, NumBefore, Bool.or_eq_true, Bool.and_eq_true, decide_eq_true_eq, Fin.ext_iff]

theorem candBefore_irrefl (a : Cand) : candBefore a a = false :=
  Bool.eq_false_iff.2 fun w => NumBefore.irrefl (candBefore_iff.1 w)

theorem candBefore_trans (a b c : Cand) (v : candBefore a b = true) (w : candBefore b c = true) : candBefore a c = true :=
  candBefore_iff.2 ((candBefore_iff.1 v).trans (candBefore_iff.1 w))

/-- R51: the candidates of the scan, in their order. -/
def scanCands (e : Env) (h : Hall) (n : BankNo) : List Cand :=
  sortBy candBefore ((h.banks[n]).recs.flatMap fun r => (scanDays e).filterMap fun d =>
    if due e h n r d then some ⟨r, d⟩ else none)

theorem mem_scanCands {c : Cand} : c ∈ scanCands e h n ↔ c.r ∈ (h.banks[n]).recs ∧
    (c.day = e.min / 1440 - 1 ∨ c.day = e.min / 1440 ∨ c.day = e.min / 1440 + 1) ∧ due e h n c.r c.day = true := by
  unfold scanCands
  rw [(sortBy_firstLeast candBefore_irrefl candBefore_trans).2 c, List.mem_flatMap]
  have day (d : Day) : d ∈ scanDays e ↔ d = e.min / 1440 - 1 ∨ d = e.min / 1440 ∨ d = e.min / 1440 + 1 := by
    simp [scanDays]
  constructor
  · rintro ⟨r, m, made⟩
    obtain ⟨d, hd, made⟩ := List.mem_filterMap.1 made
    obtain ⟨is, made⟩ := Option.ite_none_right_eq_some.1 made
    cases Option.some.inj made
    exact ⟨m, (day d).1 hd, is⟩
  · rintro ⟨m, hd, is⟩
    exact ⟨c.r, m, List.mem_filterMap.2 ⟨c.day, (day c.day).2 hd, if_pos is⟩⟩

theorem scan_idle (q : h.mode ≠ .running ∨ e.tm.cstate = .unset ∨ activeBank h = none) : scan e h = h := by
  unfold scan
  by_cases held : (decide (h.mode ≠ .running) || !e.isSet) = true
  · exact if_pos held
  · refine (if_neg held).trans ?_
    have none : activeBank h = none := by
      rw [Bool.or_eq_true, decide_eq_true_eq, not_or, not_not, Bool.not_eq_true', Bool.not_eq_false, Env.isSet,
        decide_eq_true_eq] at held
      exact (q.resolve_left (not_not.2 held.1)).resolve_left held.2
    rw [none]

theorem scan_runs (running : h.mode = .running) (set : e.tm.cstate ≠ .unset) (active : activeBank h = some n) :
    scan e h = h.each (scanCands e h n) (admitCand e n) := by
  unfold scan
  rw [running, Env.isSet, decide_eq_true set, active]
  rfl

theorem admitCand_known {c : Cand} (known : (h.banks[n]).find c.r.entry.id = some r) : admitCand e n c h =
    if due e h n r c.day = true then
      allocateNew e (itemOf n r.entry c.day) r.entry (h.setBank n fun b => b.mark r.entry.id (occStart r.entry c.day))
    else h := by
  unfold admitCand entryFor
  rw [known]

/-! ### Allocation -/

/-- R57: the parameters an occurrence starts with. -/
def startEff (e : Env) (it : Item) (en : Entry) (h : Hall) : Params := effective e.k (h.holds[it.tx]) (entryParams en) it.fold

theorem allocateNew_refused (refused : checkParams e.k h it.tx (startEff e it en h) ≠ .permitted) : allocateNew e it en h =
    (reportExcluded e it.occ (startEff e it en h).freq .admission (checkParams e.k h it.tx (startEff e it en h)) h).note
      (.rejected it.occ (checkParams e.k h it.tx (startEff e it en h))) := by
  unfold allocateNew
  dsimp only
  split
  · next w => exact absurd w refused
  · rfl

theorem allocateNew_permitted (permitted : checkParams e.k h it.tx (startEff e it en h) = .permitted) : allocateNew e it en h =
    match allocCase h it.tx (startEff e it en h).out with
    | .deferred r => deferItem e it r h
    | .busy => deferItem e it .txBusy h
    | .create => createAsg it.tx it (entryParams en) (startEff e it en h) .scan h
    | .preempt =>
        if txVictimOk h it.tx it.prio && outVictimOk h it.tx (startEff e it en h).out it.prio then
          preempt e it.tx it (entryParams en) (startEff e it en h) h
        else deferItem e it (if txVictimOk h it.tx it.prio then .outputBusy else .txBusy) h := by
  change checkParams e.k h it.tx (effective e.k (h.holds[it.tx]) (entryParams en) it.fold) = .permitted at permitted
  unfold allocateNew
  dsimp only
  rw [permitted] <;> rfl

/-- R54: an assignment that a newcomer of priority `p` may displace. -/
def Falls (p : Nat) (a : Asg) : Prop := a.phase.isEnding = false ∧ ∃ x, a.sched = some x ∧ x.prio < p

theorem victimOk_iff {q : Nat} {a : Asg} : victimOk q a = true ↔ Falls q a := by
  unfold victimOk
  simp only [Bool.and_eq_true, Bool.not_eq_true', Option.any_eq_true, decide_eq_true_eq]
  rfl

theorem txVictimOk_iff {q : Nat} : txVictimOk h t q = true ↔ ∀ v, h.asg[t] = some v → Falls q v := by
  unfold txVictimOk
  simp only [Option.all_eq_true, victimOk_iff]

theorem outputVictim_iff : outputVictim h t o = some u ↔ h.path.owner[o] = some u ∧ u ≠ t := by
  unfold outputVictim
  rw [Option.filter_eq_some_iff, decide_eq_true_eq]

theorem outVictimOk_iff {q : Nat} : outVictimOk h t o q = true ↔ ∀ u : Tx, h.path.owner[o] = some u → u ≠ t →
    (h.tx[u]).st ≠ .unreachable ∧ ∃ v, h.asg[u] = some v ∧ Falls q v := by
  unfold outVictimOk
  simp only [Option.all_eq_true, outputVictim_iff, Bool.and_eq_true, Option.any_eq_true, victimOk_iff, decide_eq_true_eq, and_imp]
  exact forall_congr' fun u => forall_congr' fun _ => forall_congr' fun _ => and_comm

/-! ### Idle timers -/

theorem idleStops_iff {q : TxRec} : idleStops q = true ↔ q.st = .isLocal ∨ q.st = .unreachable ∨ q.st = .lockout ∨
    q.st = .absent ∨ (q.st = .cold ∧ ¬ ((∃ x, q.out = some x ∧ x.kind = .cool) ∨ ∃ x, q.pend = some x ∧ x.kind = .cool)) := by
  have cooling : q.inHand (fun k => decide (k = .cool)) = true ↔
      (∃ x, q.out = some x ∧ x.kind = .cool) ∨ ∃ x, q.pend = some x ∧ x.kind = .cool := by
    simp only [inHand_iff, decide_eq_true_eq]
  rw [← cooling]
  unfold idleStops
  cases q.st <;> simp

theorem idleStep_stops (stops : ((h.asg[t]).isSome || idleStops h.tx[t]) = true) :
    idleStep e t h = if h.idle[t] = .stopped then none else some (h.setIdle t .stopped) := by
  unfold idleStep
  exact if_pos stops

theorem idleStep_runs (runs : ¬ ((h.asg[t]).isSome || idleStops h.tx[t]) = true) : idleStep e t h =
    if h.idle[t] = .stopped ∧ ((h.tx[t]).st = .standby ∨ (h.tx[t]).st = .ready) ∧
        (h.mode = .adopting → (h.adopt[t]).judged = true) then
      some (h.setIdle t (if e.k.cool = 0 then .spent else .running (e.now + e.k.cool * 60000)))
    else none := by
  have judged : unjudged h t = false ↔ (h.mode = .adopting → (h.adopt[t]).judged = true) := by
    rw [← Bool.not_eq_true, unjudged_iff, not_and, Bool.not_eq_false]
  unfold idleStep
  refine (if_neg runs).trans (if_congr ?_ rfl rfl)
  rw [Bool.and_eq_true, Bool.and_eq_true, Bool.or_eq_true, decide_eq_true_eq, decide_eq_true_eq, decide_eq_true_eq,
    Bool.not_eq_true', judged, and_assoc]

theorem idleStep_settled (quiet : nextRule e h = none) : idleStep e t h = none := by
  have m : forTx idleStep ∈ rules := by
    unfold rules
    simp only [List.mem_cons, true_or, or_true]
  exact List.findSome?_eq_none_iff.1 (List.findSome?_eq_none_iff.1 quiet _ m) t (mem_allTx t)

theorem idleExpiry_idle (w : idleDue e h t = false) : idleExpiry t e h = h := by
  unfold idleExpiry
  rw [w]
  rfl

theorem idleExpiry_named (due : idleDue e h t = true) (named : itemNames h t = true) : idleExpiry t e h =
    h.setIdle t (if e.k.cool = 0 then .spent else .running (e.now + e.k.cool * 60000)) := by
  unfold idleExpiry
  rw [due, named]
  rfl

theorem idleExpiry_cools (due : idleDue e h t = true) (unnamed : itemNames h t = false) :
    idleExpiry t e h = handOrder e t .cool (h.setIdle t .spent) := by
  unfold idleExpiry
  rw [due, unnamed]
  rfl

end
end Sys2Proof.Machine

namespace Sys2Proof.Machine

set_option Elab.async false
section
variable {g h k : Hall} {e : Env} {t u w : Tx} {o p : Out} {a b c : Asg} {it : Item} {l : List Out} {oc : EndOutcome} {after : After}

/-! ### Claims that are released or passed on -/

theorem releases_hall : ∃ al own, h.each l release = { h with alloc := al, path := { h.path with owner := own } } ∧
    ∀ p : Out, own[p] = if p ∈ l then none else h.path.owner[p] := by
  induction l generalizing h with
  | nil => exact ⟨h.alloc, h.path.owner, rfl, fun p => (if_neg List.not_mem_nil).symm⟩
  | cons o l ih =>
    have one : ∃ al, release o h = { h with alloc := al, path := { h.path with owner := upd h.path.owner o fun _ => none } } := by
      unfold release outAvailable
      split <;> exact ⟨_, rfl⟩
    obtain ⟨al, one⟩ := one
    obtain ⟨al', own, rest, owns⟩ := ih (h := release o h)
    rw [one] at rest owns
    refine ⟨al', own, by rw [Hall.each_cons, one]; exact rest, fun p => (owns p).trans ?_⟩
    dsimp only
    by_cases late : p ∈ l
    · rw [if_pos late, if_pos (List.mem_cons_of_mem o late)]
    · rw [if_neg late, get_upd]
      by_cases eq : o = p
      · rw [if_pos eq, if_pos (eq ▸ List.mem_cons_self)]
      · rw [if_neg eq, if_neg fun m => (List.mem_cons.1 m).elim (fun q => eq q.symm) late]

/-- R180: a claim passed writes the claim of its output alone, and an assignment that awaited it. -/
theorem passClaim_keeps : (∀ p : Out, p ≠ o → (passClaim u o h).path.owner[p] = h.path.owner[p]) ∧
    (∀ c, h.asg[t] = some c → c.awaits ≠ some (o, u) → (passClaim u o h).asg[t] = some c) ∧
    ∀ b, (passClaim u o h).asg[t] = some b → ∃ c, h.asg[t] = some c ∧ (b.awaits = c.awaits ∨ b.awaits = none) := by
  have owner (x : Option Tx) (p : Out) (ne : p ≠ o) : (h.setOwner o x).path.owner[p] = h.path.owner[p] := by
    simp only [Hall.setOwner_path]
    rw [get_upd, if_neg ne.symm]
  unfold passClaim
  split
  · next w found =>
    have passes := List.find?_some found
    obtain ⟨d, hd, waits⟩ := (Option.any_eq_true _ _).1 passes
    rw [Bool.and_eq_true, Bool.and_eq_true, decide_eq_true_eq] at waits
    refine ⟨fun p ne => owner _ p ne, fun c hc ne => ?_, fun b hb => ?_⟩
    · rw [Hall.mapAsg_asg, get_upd, Hall.setOwner_asg]
      refine (if_neg fun eq => ?_).trans hc
      subst eq
      exact ne (Option.some.inj (hd.symm.trans hc) ▸ waits.1.1)
    · rw [Hall.mapAsg_asg, get_upd, Hall.setOwner_asg] at hb
      split at hb
      · next eq =>
        subst eq
        obtain ⟨c, hc, rfl⟩ := Option.map_eq_some_iff.1 hb
        exact ⟨c, hc, .inr rfl⟩
      · exact ⟨b, hb, .inl rfl⟩
  · have same : (release o h).asg = h.asg := by
      unfold release outAvailable
      split <;> rfl
    refine ⟨fun p ne => ?_, fun c hc _ => by rw [same]; exact hc, fun b hb => ⟨b, by rw [← same]; exact hb, .inl rfl⟩⟩
    unfold release outAvailable
    split
    · exact owner none p ne
    · exact owner none p ne

/-- R55: T's assignment awaits output O of U, and no other does. -/
structure Waiter (u t : Tx) (o : Out) (c : Asg) (h : Hall) : Prop where
  asg : h.asg[t] = some c
  waits : c.awaits = some (o, u)
  aims : c.eff.out = o
  runs : c.phase.isEnding = false
  alone : ∀ (w : Tx) (b : Asg), w ≠ t → h.asg[w] = some b → b.awaits ≠ some (o, u)

theorem Waiter.passClaim (x : Waiter u t o c h) (ne : p ≠ o) : Waiter u t o c (passClaim u p h) where
  asg := (passClaim_keeps.2.1 c x.asg) fun q => ne (congrArg (fun w => w.1) (Option.some.inj (q.symm.trans x.waits)))
  waits := x.waits
  aims := x.aims
  runs := x.runs
  alone w b other hb q := by
    obtain ⟨d, hd, from_⟩ := passClaim_keeps.2.2 b hb
    rcases from_ with same | none
    · exact x.alone w d other hd (same ▸ q)
    · rw [none] at q
      cases q

theorem Waiter.passClaims (x : Waiter u t o c h) (away : o ∉ l) : Waiter u t o c (h.each l (Machine.passClaim u)) := by
  induction l generalizing h with
  | nil => exact x
  | cons p l ih =>
    exact ih (x.passClaim fun eq => away (eq ▸ List.mem_cons_self)) fun m => away (List.mem_cons_of_mem p m)

/-- R55: the claim passes at once. -/
theorem Waiter.handed (x : Waiter u t o c h) : (Machine.passClaim u o h).path.owner[o] = some t ∧
    (Machine.passClaim u o h).asg[t] = some { c with awaits := none, path := .wanted } := by
  have test (w : Tx) : ((h.asg[w]).any fun a => decide (a.awaits = some (o, u)) && decide (a.eff.out = o) && !a.phase.isEnding) =
      decide (w = t) := by
    by_cases eq : w = t
    · subst eq
      rw [x.asg, Option.any_some, decide_eq_true x.waits, decide_eq_true x.aims, x.runs]
      simp
    · rw [decide_eq_false eq, ← Bool.not_eq_true, Option.any_eq_true]
      rintro ⟨b, hb, q⟩
      rw [Bool.and_eq_true, Bool.and_eq_true, decide_eq_true_eq] at q
      exact x.alone w b eq hb q.1.1
  have found : allTx.find? (fun w => (h.asg[w]).any fun a =>
      decide (a.awaits = some (o, u)) && decide (a.eff.out = o) && !a.phase.isEnding) = some t := by
    simp only [test]
    have some : (allTx.find? fun w => decide (w = t)).isSome = true :=
      List.find?_isSome.2 ⟨t, mem_allTx t, decide_eq_true (rfl : t = t)⟩
    obtain ⟨w, hw⟩ := Option.isSome_iff_exists.1 some
    have is := List.find?_some hw
    rw [hw, of_decide_eq_true is]
  unfold Machine.passClaim
  rw [found]
  refine ⟨?_, ?_⟩
  · simp only [Hall.mapAsg_path, Hall.setOwner_path]
    rw [get_upd, if_pos rfl]
  · rw [Hall.mapAsg_asg, get_upd, if_pos rfl, Hall.setOwner_asg, x.asg]
    rfl

theorem passClaims_keeps (away : o ∉ l) (is : h.asg[t] = some c) (none : c.awaits = none) :
    (h.each l (passClaim u)).path.owner[o] = h.path.owner[o] ∧ (h.each l (passClaim u)).asg[t] = some c := by
  induction l generalizing h with
  | nil => exact ⟨rfl, is⟩
  | cons p l ih =>
    have kept := (passClaim_keeps (h := h) (o := p) (u := u)).2.1 c is (by rw [none]; exact nofun)
    obtain ⟨owner, asg⟩ := ih (fun m => away (List.mem_cons_of_mem p m)) kept
    exact ⟨owner.trans ((passClaim_keeps (t := t)).1 o fun eq => away (eq ▸ List.mem_cons_self)), asg⟩

theorem passClaims_owner_other (away : p ∉ l) : (h.each l (passClaim u)).path.owner[p] = h.path.owner[p] := by
  induction l generalizing h with
  | nil => rfl
  | cons o l ih =>
    exact (ih fun m => away (List.mem_cons_of_mem o m)).trans ((passClaim_keeps (t := u)).1 p fun eq => away (eq ▸ List.mem_cons_self))

theorem nodup_claims : (claims h u).Nodup := (List.nodup_finRange _).filter _

theorem mem_claims : p ∈ claims h u ↔ h.path.owner[p] = some u := by
  unfold claims
  rw [List.mem_filter, decide_eq_true_eq, and_iff_right (mem_allOut p)]

theorem clearAwaits_asg : (clearAwaits u h).asg[t] =
    (h.asg[t]).map fun x => if x.awaits.any (fun w => decide (w.2 = u)) then { x with awaits := none } else x := by
  unfold clearAwaits
  simp only [Fin.getElem_fin, Vector.getElem_map]

/-- R55: the assignment that waits, once the end it awaits is complete. -/
theorem Waiter.endGiven (x : Waiter u t o c h) (other : t ≠ u) (owns : h.path.owner[o] = some u) :
    (endGiven u h).path.owner[o] = some t ∧ (endGiven u h).asg[t] = some { c with awaits := none, path := .wanted } := by
  obtain ⟨before, later, split⟩ := List.append_of_mem (mem_claims.2 owns)
  have once : (before ++ o :: later).Nodup := split ▸ nodup_claims
  rw [List.nodup_middle, List.nodup_cons, List.mem_append, not_or] at once
  have walk : h.each (claims h u) (Machine.passClaim u) =
      (Machine.passClaim u o (h.each before (Machine.passClaim u))).each later (Machine.passClaim u) := by
    rw [split]
    exact List.foldl_append
  obtain ⟨owner, asg⟩ := (x.passClaims once.1.1).handed
  obtain ⟨owner', asg'⟩ := passClaims_keeps (u := u) once.1.2 asg rfl
  unfold Machine.endGiven
  rw [walk]
  generalize (Machine.passClaim u o (h.each before (Machine.passClaim u))).each later (Machine.passClaim u) = m at owner' asg'
  refine ⟨owner'.trans owner, ?_⟩
  rw [clearAwaits_asg, Hall.setAsg_asg, get_upd, if_neg other.symm, asg']
  rfl

theorem endGiven_owner_other (away : h.path.owner[p] ≠ some u) : (endGiven u h).path.owner[p] = h.path.owner[p] :=
  passClaims_owner_other (u := u) (l := claims h u) (mt mem_claims.1 away)

/-! ### What an end leaves of the claims -/

theorem overtaken_path {x : Order} : (overtaken t x h).path = h.path := by
  unfold overtaken
  split <;> rfl

theorem overtakeOut_path {q : Order → Bool} : (overtakeOut t q h).path = h.path := by
  unfold overtakeOut
  split
  · split
    · exact overtaken_path
    · rfl
  · rfl

theorem overtakePend_path {q : Order → Bool} : (overtakePend t q h).path = h.path := by
  unfold overtakePend
  split
  · split
    · exact overtaken_path
    · rfl
  · rfl

theorem queueLower_path {byTrip : Bool} : (queueLower t byTrip h).path = h.path := by
  unfold queueLower
  split
  · split <;> rfl
  · dsimp only
    split
    · exact overtakePend_path.trans overtakeOut_path
    · exact overtakePend_path.trans (overtakePend_path.trans overtakeOut_path)

theorem handLower_path {byTrip : Bool} : (handLower e t byTrip h).path = h.path := by
  rcases handLower_cases (e := e) (t := t) (byTrip := byTrip) (h := h) with same | queued
  · rw [same]
  · rw [queued, queueLower_path]

theorem endBegun_owner : (endBegun u b h).path.owner = h.path.owner := by
  unfold endBegun
  obtain ⟨seqs, queue, eq⟩ := cancelSeq_hall (t := u) (h := dropHandBack u (withdrawRaise u (h.setAsg u (some b))))
  rw [eq]
  rfl

theorem endBegun_asgs : (endBegun u b h).asg = upd h.asg u fun _ => some b := by
  unfold endBegun
  rw [cancelSeq_asg]
  rfl

theorem completeEnd_given (ha : h.asg[u] = some a) (hp : a.phase = .ending oc after) :
    (completeEnd e u h).path = (endGiven u (endPushed e u (a.item u) after h)).path ∧
    (completeEnd e u h).asg = (endGiven u (endPushed e u (a.item u) after h)).asg := by
  rw [completeEnd_eq ha hp]
  generalize endGiven u (endPushed e u (a.item u) after h) = m
  obtain ⟨f, bs, em, eq⟩ := endListed_hall (e := e) (it := a.item u) (after := after) (h := m.note (endNotice u a oc after))
  rw [eq]
  exact ⟨rfl, rfl⟩

theorem endPushed_same {x : Option Item} : (endPushed e u x after h).path = h.path ∧ (endPushed e u x after h).asg = h.asg := by
  obtain ⟨st, al, bs, em, eq⟩ := endPushed_hall (e := e) (t := u) (it := x) (after := after) (h := h)
  rw [eq]
  exact ⟨rfl, rfl⟩

section
variable (ha : h.asg[u] = some a) (hp : a.phase.isEnding = false)
include ha hp

/-- R66: an end that waits for its LOWER keeps its claims, and other assignments. -/
theorem endAsg_holds_claims (rad : Radiates h.tx[u]) : (endAsg e u oc after h).path.owner = h.path.owner ∧
    (endAsg e u oc after h).asg = upd h.asg u fun _ => some (a.ended oc after) := by
  have needs : ((endBegun u (a.ended oc after) h).tx[u]).needsLower = true :=
    (needsLower_body (endBegun_quiet.body u)).trans (needsLower_iff.2 rad)
  have owner := endBegun_owner (u := u) (b := a.ended oc after) (h := h)
  have asg := endBegun_asgs (u := u) (b := a.ended oc after) (h := h)
  rw [endAsg_begun ha hp]
  rcases tryEnd_radiating (e := e) (endBegun_asg u (a.ended oc after) h) rfl rfl needs with waits | ⟨hand, lowers⟩
  · rw [waits]
    exact ⟨owner, asg⟩
  · rw [lowers, handLower_path]
    refine ⟨owner, ?_⟩
    rcases handLower_cases (e := e) (t := u) (byTrip := false) (h := endBegun u (a.ended oc after) h) with same | queued
    · rw [same, asg]
    · rw [queued, queueLower_asg hand (noHandBack_endBegun hand), asg]

theorem endAsg_owner_other (away : h.path.owner[p] ≠ some u) : (endAsg e u oc after h).path.owner[p] = h.path.owner[p] := by
  by_cases rad : Radiates h.tx[u]
  · rw [(endAsg_holds_claims ha hp rad).1]
  · have owner := endBegun_owner (u := u) (b := a.ended oc after) (h := h)
    rw [endAsg_down ha hp rad, (completeEnd_given (a := a.ended oc after) (endBegun_asg u _ h) rfl).1,
      endGiven_owner_other (by rw [endPushed_same.1, owner]; exact away), endPushed_same.1, owner]

/-- R55: the claim that an end gives up at once goes to the one assignment that awaits it. -/
theorem endAsg_hands (x : Waiter u t o c h) (other : t ≠ u) (owns : h.path.owner[o] = some u) (down : ¬ Radiates h.tx[u]) :
    (endAsg e u oc after h).path.owner[o] = some t ∧
    (endAsg e u oc after h).asg[t] = some { c with awaits := none, path := .wanted } := by
  have owner := endBegun_owner (u := u) (b := a.ended oc after) (h := h)
  have asg := endBegun_asgs (u := u) (b := a.ended oc after) (h := h)
  have begun : Waiter u t o c (endPushed e u ((a.ended oc after).item u) after (endBegun u (a.ended oc after) h)) := by
    refine ⟨?_, x.waits, x.aims, x.runs, fun w b ne hb => ?_⟩
    · rw [endPushed_same.2, asg, get_upd, if_neg other.symm]
      exact x.asg
    · rw [endPushed_same.2, asg, get_upd] at hb
      split at hb
      · obtain rfl := Option.some.inj hb
        exact nofun
      · exact x.alone w b ne hb
  obtain ⟨path, asgs⟩ := completeEnd_given (e := e) (a := a.ended oc after) (endBegun_asg u _ h) rfl
  rw [endAsg_down ha hp down, path, asgs]
  exact begun.endGiven other (by rw [endPushed_same.1, owner]; exact owns)

end

end
end Sys2Proof.Machine

namespace Sys2Proof.Machine

set_option Elab.async false
section
variable {g h k : Hall} {e : Env} {t u w : Tx} {o p : Out} {v b c new : Asg} {it : Item} {base eff : Params}

/-! ### A preemption, step by step -/

/-- R55: the victim on T: its occurrence pushed and its orders given up. -/
def victimPushed (e : Env) (t : Tx) (v : Asg) (h : Hall) : Hall :=
  cancelSeq t (dropHandBack t (withdrawRaise t (pushAsg e t v .preemptedTx h)))

/-- R55: the newcomer takes T's record, and the claims not made are released. -/
def recordTaken (t : Tx) (o : Out) (new : Asg) (h : Hall) : Hall :=
  clearAwaits t ((h.beginAsg t new).each ((claims h t).filter fun p => decide (p ≠ o) && decide (madeOut h t ≠ some p)) release)

/-- R55: the victim's ASSIGNMENT notice, and its reference. -/
def victimOff (e : Env) (t : Tx) (o : Out) (v new : Asg) (h : Hall) : Hall :=
  endUnreferred (v.item t) ((recordTaken t o new (victimPushed e t v h)).note
    (.assignment t (v.sched.map Sched.occ) .preempted v.late v.trips v.fold (.push .preemptedTx)))

/-- R55: the newcomer in T's record. -/
def newcomerTakes (e : Env) (t : Tx) (o : Out) (new : Asg) (h : Hall) : Hall :=
  match h.asg[t] with
  | some v => victimOff e t o v new h
  | none => h.beginAsg t new

theorem newcomerTakes_some (ha : h.asg[t] = some v) : newcomerTakes e t o new h = victimOff e t o v new h := by
  unfold newcomerTakes
  rw [ha]

theorem newcomerTakes_none (ha : h.asg[t] = none) : newcomerTakes e t o new h = h.beginAsg t new := by
  unfold newcomerTakes
  rw [ha]

theorem preempt_eq : preempt e t it base eff h =
    let awaits := (outputVictim h t eff.out).map fun u => (eff.out, u)
    let k := newcomerTakes e t eff.out (newAsg it base eff awaits) h
    let k := (if awaits.isSome then k else k.setOwner eff.out (some t)).note (.admitted t (some it.occ) eff.out .scan)
    match outputVictim h t eff.out with
    | some u => endAsg e u .preempted (.push .preemptedOutput) k
    | none => k := by
  have off {new : Asg} : newcomerTakes e t eff.out new h =
      match h.asg[t] with
      | some v =>
          match v.sched with
          | some s => retireCheck s.occ.bank ((recordTaken t eff.out new (victimPushed e t v h)).note
              (.assignment t (v.sched.map Sched.occ) .preempted v.late v.trips v.fold (.push .preemptedTx)))
          | none => (recordTaken t eff.out new (victimPushed e t v h)).note
              (.assignment t (v.sched.map Sched.occ) .preempted v.late v.trips v.fold (.push .preemptedTx))
      | none => h.beginAsg t new := by
    unfold newcomerTakes victimOff endUnreferred Asg.item
    cases h.asg[t] with
    | none => rfl
    | some v =>
      dsimp only
      cases v.sched <;> rfl
  unfold preempt
  dsimp only
  cases outputVictim h t eff.out <;> rw [off] <;> rfl

/-! ### What each step writes -/

theorem pushAsg_hall {r : StackReason} : ∃ st al bs em,
    pushAsg e t v r h = { h with stack := st, alloc := al, banks := bs, emit := em } ∧
    ∀ i, v.item t = some i → e.min < i.stop → (st[t]).head? = some ⟨i, e.sec, r⟩ := by
  unfold pushAsg
  cases item : v.item t with
  | none => exact ⟨_, _, _, _, rfl, nofun⟩
  | some i =>
    dsimp only
    by_cases gone : i.stop ≤ e.min
    · rw [if_pos gone]
      exact ⟨_, _, _, _, rfl, fun j hj later => absurd (Option.some.inj hj ▸ later) (Nat.not_lt.2 gone)⟩
    · rw [if_neg gone]
      obtain ⟨al, bs, em, eq⟩ := pushStack_hall (h := h) (e := e) (t := t) (it := i) (r := r)
      refine ⟨_, al, bs, em, eq, fun j hj _ => ?_⟩
      obtain rfl := Option.some.inj hj
      rw [get_upd, if_pos rfl]
      rfl

theorem ordersDropped : ∃ f, dropHandBack t (withdrawRaise t h) = h.setTx t f := by
  unfold dropHandBack noHandBack withdrawRaise
  exact ⟨_, setTx_setTx⟩

/-- The victim's orders and sequence, and its stack. -/
theorem victimPushed_hall : ∃ st al bs em f q, victimPushed e t v h =
    { h with stack := st, alloc := al, banks := bs, emit := em, tx := upd h.tx t f, path := q } ∧
    q.owner = h.path.owner ∧ q.xpt = h.path.xpt ∧
    ∀ i, v.item t = some i → e.min < i.stop → (st[t]).head? = some ⟨i, e.sec, .preemptedTx⟩ := by
  obtain ⟨st, al, bs, em, pushed, top⟩ := pushAsg_hall (h := h) (e := e) (t := t) (v := v) (r := .preemptedTx)
  obtain ⟨seqs, queue, cancelled⟩ := cancelSeq_hall (t := t) (h := dropHandBack t (withdrawRaise t (pushAsg e t v .preemptedTx h)))
  obtain ⟨f, dropped⟩ := ordersDropped (t := t) (h := pushAsg e t v .preemptedTx h)
  refine ⟨st, al, bs, em, f, { h.path with seqs := seqs, queue := queue }, ?_, rfl, rfl, top⟩
  unfold victimPushed
  rw [cancelled, dropped, pushed]
  rfl

/-- What a record that is taken leaves of the claims. -/
theorem recordTaken_hall : ∃ al q, recordTaken t o new h = clearAwaits t { h with
      asg := upd h.asg t (fun _ => some new), idle := upd h.idle t (fun _ => .stopped), alloc := al, path := q } ∧
    ∀ p : Out, q.owner[p] = if h.path.owner[p] = some t ∧ p ≠ o ∧ madeOut h t ≠ some p then none else h.path.owner[p] := by
  obtain ⟨al, own, eq, owns⟩ := releases_hall (h := h.beginAsg t new)
    (l := (claims h t).filter fun p => decide (p ≠ o) && decide (madeOut h t ≠ some p))
  refine ⟨al, { h.path with owner := own }, ?_, fun p => (owns p).trans (if_congr ?_ rfl rfl)⟩
  · unfold recordTaken
    rw [eq]
    rfl
  · rw [List.mem_filter, mem_claims, Bool.and_eq_true, decide_eq_true_eq, decide_eq_true_eq]

/-- R180: an assignment that awaited an output of T. -/
def Asg.unawait (t : Tx) (b : Asg) : Asg := if b.awaits.any (fun w => decide (w.2 = t)) then { b with awaits := none } else b

theorem unawait_steady : (b.unawait t).steady = b.steady := by
  unfold Asg.unawait
  split <;> rfl

theorem unawait_awaits : (b.unawait t).awaits = b.awaits ∨ (b.unawait t).awaits = none := by
  unfold Asg.unawait
  split
  · exact .inr rfl
  · exact .inl rfl

theorem unawait_other (w : ∀ x, b.awaits = some x → x.2 ≠ t) : b.unawait t = b := by
  refine if_neg fun q => ?_
  obtain ⟨x, hx, is⟩ := (Option.any_eq_true _ _).1 q
  exact w x hx (of_decide_eq_true is)

/-- R55: what the newcomer finds in T's record, and what it leaves of the others. -/
structure Newcomer (t : Tx) (o : Out) (new : Asg) (h k : Hall) : Prop where
  asg : k.asg[t] = some new
  others : ∀ u : Tx, u ≠ t → k.asg[u] = h.asg[u] ∨ k.asg[u] = (h.asg[u]).map (Asg.unawait t)
  tx : ∀ u : Tx, u ≠ t → k.tx[u] = h.tx[u]
  idle : k.idle[t] = .stopped
  owner : k.path.owner[o] = h.path.owner[o]

/-- R55: what becomes of T's victim. -/
structure Victim (e : Env) (t : Tx) (o : Out) (v : Asg) (h k : Hall) : Prop where
  told : .assignment t (v.sched.map Sched.occ) .preempted v.late v.trips v.fold (.push .preemptedTx) ∈ k.emit
  top : ∀ i, v.item t = some i → e.min < i.stop → (k.stack[t]).head? = some ⟨i, e.sec, .preemptedTx⟩
  claims : ∀ p : Out, p ≠ o → h.path.owner[p] = some t → k.path.owner[p] = if madeOut h t = some p then some t else none

theorem endUnreferred_hall {x : Option Item} : ∃ bs em, endUnreferred x h = { h with banks := bs, emit := em } ∧ h.emit <+: em := by
  unfold endUnreferred
  split
  · next i =>
    have grows := (retireCheck_moves (n := i.occ.bank) (Moves.refl h)).emit
    obtain ⟨bs, em, eq⟩ := retireCheck_hall (n := i.occ.bank) (h := h)
    rw [eq] at grows
    exact ⟨bs, em, eq, grows⟩
  · exact ⟨_, _, rfl, List.prefix_rfl⟩

theorem victimOff_taken (foreign : ∀ x, new.awaits = some x → x.2 ≠ t) : Newcomer t o new h (victimOff e t o v new h) ∧
    Victim e t o v h (victimOff e t o v new h) := by
  obtain ⟨st, al, bs, em, f, q, pushed, owner, xpt, top⟩ := victimPushed_hall (e := e) (t := t) (v := v) (h := h)
  obtain ⟨al', q', taken, owns⟩ := recordTaken_hall (t := t) (o := o) (new := new) (h := victimPushed e t v h)
  obtain ⟨bs', em', left, grows⟩ := endUnreferred_hall (x := v.item t)
    (h := (recordTaken t o new (victimPushed e t v h)).note
      (.assignment t (v.sched.map Sched.occ) .preempted v.late v.trips v.fold (.push .preemptedTx)))
  have told := grows.subset (List.mem_append_right _ List.mem_cons_self)
  have made : madeOut (victimPushed e t v h) t = madeOut h t := by
    rw [pushed]
    unfold madeOut xst
    dsimp only
    rw [xpt]
  rw [made] at owns
  rw [pushed] at owns taken
  dsimp only at owns
  rw [owner] at owns
  unfold victimOff
  rw [left, pushed, taken]
  refine ⟨⟨?_, fun u ne => .inr ?_, fun u ne => ?_, ?_, ?_⟩, told, top, fun p ne own => ?_⟩
  · change (clearAwaits t _).asg[t] = _
    rw [clearAwaits_asg, get_upd, if_pos rfl]
    exact congrArg some (unawait_other foreign)
  · change (clearAwaits t _).asg[u] = _
    rw [clearAwaits_asg, get_upd, if_neg ne.symm]
    rfl
  · exact (get_upd _ _ _ _).trans (if_neg ne.symm)
  · exact (get_upd _ _ _ _).trans (if_pos rfl)
  · exact (owns o).trans (if_neg fun w => w.2.1 rfl)
  · refine (owns p).trans ?_
    by_cases is : madeOut h t = some p
    · rw [if_neg fun w => w.2.2 is, if_pos is, own]
    · rw [if_pos ⟨own, ne, is⟩, if_neg is]

theorem newcomerTakes_taken (foreign : ∀ x, new.awaits = some x → x.2 ≠ t) :
    Newcomer t o new h (newcomerTakes e t o new h) := by
  cases ha : h.asg[t] with
  | some v =>
    rw [newcomerTakes_some ha]
    exact (victimOff_taken foreign).1
  | none =>
    rw [newcomerTakes_none ha]
    refine ⟨?_, fun u ne => .inl ?_, fun _ _ => rfl, ?_, rfl⟩
    · exact (get_upd _ _ _ _).trans (if_pos rfl)
    · exact (get_upd _ _ _ _).trans (if_neg ne.symm)
    · exact (get_upd _ _ _ _).trans (if_pos rfl)

end
end Sys2Proof.Machine

namespace Sys2Proof.Machine

set_option Elab.async false
section
variable {g h k : Hall} {e : Env} {t u w : Tx} {o p : Out} {v b c new : Asg} {it : Item} {en : Entry} {base eff : Params}
  {oc : EndOutcome} {after : After}

/-! ### What a preemption leaves -/

theorem Newcomer.other (x : Newcomer t o new h k) (ne : u ≠ t) (hb : h.asg[u] = some b) :
    ∃ c, k.asg[u] = some c ∧ c.phase = b.phase := by
  rcases x.others u ne with same | unawaited
  · exact ⟨b, same.trans hb, rfl⟩
  · exact ⟨b.unawait t, by rw [unawaited, hb]; rfl, steady_phase unawait_steady⟩

/-- No assignment but the newcomer awaits what none awaited. -/
theorem Newcomer.alone {x : Out × Tx} (n : Newcomer t o new h k)
    (alone : ∀ (w : Tx) (b : Asg), w ≠ t → h.asg[w] = some b → b.awaits ≠ some x) :
    ∀ (w : Tx) (b : Asg), w ≠ t → k.asg[w] = some b → b.awaits ≠ some x := by
  intro w b ne hb
  rcases n.others w ne with same | unawaited
  · exact alone w b ne (same.symm.trans hb)
  · obtain ⟨c, hc, rfl⟩ := Option.map_eq_some_iff.1 (unawaited.symm.trans hb)
    rcases unawait_awaits (b := c) (t := t) with same | gone
    · rw [same]
      exact alone w c ne hc
    · rw [gone]
      exact nofun

/-- What is told of the victim stands, whatever is noted and written elsewhere. -/
theorem Victim.later (x : Victim e t o v h k) (emit : k.emit <+: g.emit) (stack : g.stack[t] = k.stack[t])
    (owner : ∀ p : Out, p ≠ o → h.path.owner[p] = some t → g.path.owner[p] = k.path.owner[p]) : Victim e t o v h g where
  told := emit.subset x.told
  top i item later := by
    rw [stack]
    exact x.top i item later
  claims p ne own := (owner p ne own).trans (x.claims p ne own)

theorem Victim.keeps_or_gives (x : Victim e t o v h k) (ne : p ≠ o) (own : h.path.owner[p] = some t) (other : u ≠ t) :
    k.path.owner[p] ≠ some u := by
  rw [x.claims p ne own]
  split
  · exact fun eq => other (Option.some.inj eq).symm
  · exact nofun

/-- R54, R55: what holds after every preemption. -/
structure Preempted (e : Env) (t : Tx) (it : Item) (o : Out) (h g : Hall) : Prop where
  told : .admitted t (some it.occ) o .scan ∈ g.emit
  idle : g.idle[t] = .stopped
  victim : ∀ v, h.asg[t] = some v → Victim e t o v h g

section
variable (victim : outputVictim h t eff.out = none)
include victim

/-- R55: the output is free, or T's own. -/
theorem preempt_unopposed : preempt e t it base eff h =
    ((newcomerTakes e t eff.out (newAsg it base eff none) h).setOwner eff.out (some t)).note
      (.admitted t (some it.occ) eff.out .scan) := by
  rw [preempt_eq, victim]
  rfl

theorem preempt_takes : Preempted e t it eff.out h (preempt e t it base eff h) ∧
    (preempt e t it base eff h).asg[t] = some (newAsg it base eff none) ∧
    (preempt e t it base eff h).path.owner[eff.out] = some t := by
  have foreign : ∀ x, (newAsg it base eff none).awaits = some x → x.2 ≠ t := nofun
  have seat := newcomerTakes_taken (e := e) (o := eff.out) (h := h) foreign
  rw [preempt_unopposed victim]
  refine ⟨⟨List.mem_append_right _ List.mem_cons_self, seat.idle, fun v hv => ?_⟩, seat.asg, ?_⟩
  · have fallen := (victimOff_taken (e := e) (o := eff.out) (v := v) (h := h) foreign).2
    rw [← newcomerTakes_some hv] at fallen
    exact fallen.later (List.prefix_append _ _) rfl fun p ne _ => (get_upd _ _ _ _).trans (if_neg ne.symm)
  · exact (get_upd _ _ _ _).trans (if_pos rfl)

end

section
variable (own : h.path.owner[eff.out] = some u) (other : u ≠ t) (is : h.asg[u] = some b) (runs : b.phase.isEnding = false)
include own other

/-- R55: the newcomer in T's record, awaiting the output of U. -/
def seated (e : Env) (t u : Tx) (it : Item) (base eff : Params) (h : Hall) : Hall :=
  (newcomerTakes e t eff.out (newAsg it base eff (some (eff.out, u))) h).note (.admitted t (some it.occ) eff.out .scan)

theorem preempt_opposed : preempt e t it base eff h =
    endAsg e u .preempted (.push .preemptedOutput) (seated e t u it base eff h) := by
  rw [preempt_eq, outputVictim_iff.2 ⟨own, other⟩]
  rfl

omit own in
theorem seated_newcomer : Newcomer t eff.out (newAsg it base eff (some (eff.out, u))) h (seated e t u it base eff h) := by
  have foreign : ∀ x, (newAsg it base eff (some (eff.out, u))).awaits = some x → x.2 ≠ t := by
    rintro _ ⟨⟩
    exact other
  obtain ⟨asg, others, tx, idle, owner⟩ := newcomerTakes_taken (e := e) (o := eff.out) (h := h) foreign
  exact ⟨asg, others, tx, idle, owner⟩

omit own in
theorem seated_victim (hv : h.asg[t] = some v) : Victim e t eff.out v h (seated e t u it base eff h) := by
  have foreign : ∀ x, (newAsg it base eff (some (eff.out, u))).awaits = some x → x.2 ≠ t := by
    rintro _ ⟨⟩
    exact other
  have fallen := (victimOff_taken (e := e) (o := eff.out) (v := v) (h := h) foreign).2
  rw [← newcomerTakes_some hv] at fallen
  exact fallen.later (List.prefix_append _ _) rfl fun _ _ _ => rfl

include is runs

theorem preempt_ends : Preempted e t it eff.out h (preempt e t it base eff h) := by
  have seat := seated_newcomer (e := e) (it := it) (base := base) (eff := eff) (h := h) other
  obtain ⟨c, hc, phase⟩ := seat.other other is
  have spared := (Spares.refl (· = u) (seated e t u it base eff h)).endAsg (e := e) (oc := .preempted)
    (after := .push .preemptedOutput) rfl
  have idle := ((Lasts.refl (seated e t u it base eff h)).endAsg (e := e) (t := u) (oc := .preempted)
    (after := .push .preemptedOutput)).idle
  rw [preempt_opposed own other]
  refine ⟨spared.emit.subset (List.mem_append_right _ List.mem_cons_self), ?_, fun v hv => ?_⟩
  · rw [idle]
    exact seat.idle
  · have fallen := seated_victim (e := e) (it := it) (base := base) (eff := eff) other hv
    exact fallen.later spared.emit (spared.stack t other.symm) fun p ne mine =>
      endAsg_owner_other hc (by rw [phase]; exact runs) (fallen.keeps_or_gives ne mine other)

/-- R55: a victim that radiates keeps the output until it is lowered. -/
theorem preempt_waits (rad : Radiates h.tx[u]) :
    (preempt e t it base eff h).asg[t] = some (newAsg it base eff (some (eff.out, u))) ∧
    (preempt e t it base eff h).path.owner[eff.out] = some u ∧
    ∃ b, (preempt e t it base eff h).asg[u] = some b ∧ b.phase = .ending .preempted (.push .preemptedOutput) := by
  have seat := seated_newcomer (e := e) (it := it) (base := base) (eff := eff) (h := h) other
  obtain ⟨c, hc, phase⟩ := seat.other other is
  obtain ⟨owner, asg⟩ := endAsg_holds_claims (e := e) (oc := .preempted) (after := .push .preemptedOutput) hc
    (by rw [phase]; exact runs) (by rw [seat.tx u other]; exact rad)
  rw [preempt_opposed own other, asg, owner]
  refine ⟨?_, seat.owner.trans own, c.ended .preempted (.push .preemptedOutput), ?_, rfl⟩
  · exact (get_upd _ _ _ _).trans ((if_neg other).trans seat.asg)
  · exact (get_upd _ _ _ _).trans (if_pos rfl)

/-- R55: the claim of a victim that does not radiate passes to the newcomer at once. -/
theorem preempt_passes (down : ¬ Radiates h.tx[u])
    (alone : ∀ (w : Tx) (b : Asg), w ≠ t → h.asg[w] = some b → b.awaits ≠ some (eff.out, u)) :
    (preempt e t it base eff h).asg[t] = some (newAsg it base eff none) ∧
    (preempt e t it base eff h).path.owner[eff.out] = some t ∧ (preempt e t it base eff h).asg[u] = none := by
  have seat := seated_newcomer (e := e) (it := it) (base := base) (eff := eff) (h := h) other
  obtain ⟨c, hc, phase⟩ := seat.other other is
  have waiter : Waiter u t eff.out (newAsg it base eff (some (eff.out, u))) (seated e t u it base eff h) :=
    ⟨seat.asg, rfl, rfl, rfl, seat.alone alone⟩
  have still : ¬ Radiates (seated e t u it base eff h).tx[u] := by
    rw [seat.tx u other]
    exact down
  have run : c.phase.isEnding = false := by rw [phase]; exact runs
  obtain ⟨owner, asg⟩ := endAsg_hands (e := e) (oc := .preempted) (after := .push .preemptedOutput) hc run waiter other.symm
    (seat.owner.trans own) still
  rw [preempt_opposed own other]
  exact ⟨asg, owner, (endAsg_free hc run still).1⟩

end

/-! ### Admission, by the case of R53 -/

/-- R54: a preemption of the case that R53 finds. -/
theorem allocateNew_preempts (permitted : checkParams e.k h it.tx (startEff e it en h) = .permitted)
    (found : allocCase h it.tx (startEff e it en h).out = .preempt) :
    (¬ txVictimOk h it.tx it.prio = true → allocateNew e it en h = deferItem e it .txBusy h) ∧
    (txVictimOk h it.tx it.prio = true → ¬ outVictimOk h it.tx (startEff e it en h).out it.prio = true →
      allocateNew e it en h = deferItem e it .outputBusy h) ∧
    (txVictimOk h it.tx it.prio = true → outVictimOk h it.tx (startEff e it en h).out it.prio = true →
      allocateNew e it en h = preempt e it.tx it (entryParams en) (startEff e it en h) h) := by
  rw [allocateNew_permitted permitted, found]
  refine ⟨fun tx => ?_, fun tx out => ?_, fun tx out => ?_⟩
  · simp only [Bool.eq_false_iff.2 tx, Bool.false_and, Bool.false_eq_true, if_false]
  · simp only [tx, Bool.eq_false_iff.2 out, Bool.and_false, Bool.false_eq_true, if_false, if_true]
  · simp only [tx, out, Bool.and_true, if_true]

theorem allocateNew_deferred {r : DeferReason} (permitted : checkParams e.k h it.tx (startEff e it en h) = .permitted)
    (found : allocCase h it.tx (startEff e it en h).out = .deferred r) : allocateNew e it en h = deferItem e it r h := by
  rw [allocateNew_permitted permitted, found]

theorem allocateNew_busy (permitted : checkParams e.k h it.tx (startEff e it en h) = .permitted)
    (found : allocCase h it.tx (startEff e it en h).out = .busy) : allocateNew e it en h = deferItem e it .txBusy h := by
  rw [allocateNew_permitted permitted, found]

theorem allocateNew_creates (permitted : checkParams e.k h it.tx (startEff e it en h) = .permitted)
    (found : allocCase h it.tx (startEff e it en h).out = .create) : allocateNew e it en h =
    (((h.setAsg it.tx (some (newAsg it (entryParams en) (startEff e it en h) none))).setIdle it.tx .stopped).setOwner
      (startEff e it en h).out (some it.tx)).note (.admitted it.tx (some it.occ) (startEff e it en h).out .scan) := by
  rw [allocateNew_permitted permitted, found]
  exact rfl

/-- R55: a preemption by whether another transmitter's assignment claims the output. -/
theorem preempt_clauses {q : Nat} (falls : ∀ u : Tx, h.path.owner[eff.out] = some u → u ≠ t →
      (h.tx[u]).st ≠ .unreachable ∧ ∃ v, h.asg[u] = some v ∧ Falls q v) :
    let g := preempt e t it base eff h
    Preempted e t it eff.out h g ∧
    ((∀ u, h.path.owner[eff.out] = some u → u = t) → g.asg[t] = some (newAsg it base eff none) ∧
      g.path.owner[eff.out] = some t) ∧
    ∀ u, h.path.owner[eff.out] = some u → u ≠ t →
      ((h.tx[u]).needsLower = true → g.asg[t] = some (newAsg it base eff (some (eff.out, u))) ∧
        g.path.owner[eff.out] = some u ∧
        ∃ b, g.asg[u] = some b ∧ b.phase = .ending .preempted (.push .preemptedOutput)) ∧
      ((h.tx[u]).needsLower = false →
        (∀ (w : Tx) (b : Asg), w ≠ t → h.asg[w] = some b → b.awaits ≠ some (eff.out, u)) →
        g.asg[t] = some (newAsg it base eff none) ∧ g.path.owner[eff.out] = some t ∧ g.asg[u] = none) := by
  dsimp only
  cases victim : outputVictim h t eff.out with
  | none =>
    obtain ⟨common, asg, owner⟩ := preempt_takes (e := e) (it := it) (base := base) victim
    refine ⟨common, fun _ => ⟨asg, owner⟩, fun u own other => ?_⟩
    rw [outputVictim_iff.2 ⟨own, other⟩] at victim
    cases victim
  | some u =>
    obtain ⟨own, other⟩ := outputVictim_iff.1 victim
    obtain ⟨-, b, hb, runs, -⟩ := falls u own other
    refine ⟨preempt_ends own other hb runs, fun mine => absurd (mine u own) other, fun w owns _ => ?_⟩
    obtain rfl := Option.some.inj (own.symm.trans owns)
    exact ⟨fun rad => preempt_waits own other hb runs (needsLower_iff.1 rad),
      fun down => preempt_passes own other hb runs (mt needsLower_iff.2 (Bool.eq_false_iff.1 down))⟩

/-- R55: the occurrence pushed from T's record. -/
theorem Preempted.item (x : Preempted e t it o h g) {y : Sched} (hv : h.asg[t] = some v) (hy : v.sched = some y) :
    .assignment t (some y.occ) .preempted v.late v.trips v.fold (.push .preemptedTx) ∈ g.emit ∧
    (e.min < y.stop → (g.stack[t]).head? = some ⟨⟨y.occ, t, y.prio, y.start, y.stop, v.trips, v.fold⟩, e.sec, .preemptedTx⟩) ∧
    ∀ p : Out, p ≠ o → h.path.owner[p] = some t → g.path.owner[p] = if madeOut h t = some p then some t else none := by
  obtain ⟨told, top, claims⟩ := x.victim v hv
  rw [hy] at told
  refine ⟨told, fun later => top _ ?_ later, claims⟩
  rw [Asg.item, hy]
  rfl

/-! ### The answers of ENGINE-SET and of the idle timer -/

theorem idleStopped_iff : ((h.asg[t]).isSome || idleStops h.tx[t]) = true ↔ h.asg[t] ≠ none ∨ (h.tx[t]).st = .isLocal ∨
    (h.tx[t]).st = .unreachable ∨ (h.tx[t]).st = .lockout ∨ (h.tx[t]).st = .absent ∨ ((h.tx[t]).st = .cold ∧
      ¬ ((∃ x, (h.tx[t]).out = some x ∧ x.kind = .cool) ∨ ∃ x, (h.tx[t]).pend = some x ∧ x.kind = .cool)) := by
  rw [Bool.or_eq_true, Option.isSome_iff_ne_none, idleStops_iff]

/-- R47: the COOL order of the idle timer. -/
theorem cool_idle_spent (due : idleDue e h t = true) (unnamed : itemNames h t = false)
    (st : (h.tx[t]).st = .standby ∨ (h.tx[t]).st = .ready) (out : (h.tx[t]).out = none) : idleExpiry t e h =
    (h.setIdle t .spent).setTx t fun r => { r with out := some (Order.mk0 .cool true false) } := by
  rw [idleExpiry_cools due unnamed]
  refine handOrder_sent (h := h.setIdle t .spent) ?_ nofun nofun out rfl
  change orderListed .cool (h.tx[t]).st = true
  rcases st with st | st <;> rw [st] <;> rfl

theorem engineSet_inRange {lead cool : Option Nat} : (withinOpt 60 1800 lead && withinOpt 0 240 cool) = true ↔
    (∀ x, lead = some x → 60 ≤ x ∧ x ≤ 1800) ∧ ∀ x, cool = some x → x ≤ 240 := by
  simp [withinOpt, within, Option.all_eq_true]

end
end Sys2Proof.Machine

namespace Sys2Proof.Proofs

set_option Elab.async false
section
open Machine

/-- Settles O23: the case of R53 as it is written, the scan's candidates by R51's order, a preemption by its steps (R54, R55),
and the idle timer by the branches of its rule and of its expiry. -/
theorem engineSet : Obligations.EngineSet := by
  unfold Obligations.EngineSet
  refine ⟨⟨fun h t o => allocCase_eq, fun e h n r d => ⟨?due, scan_idle, ?scan, fun c known => ⟨?passed, ?admits⟩⟩,
    fun e it en h => ⟨allocateNew_refused, fun permitted => ⟨?deferred, ?busy, ?create, fun found => ?preempt⟩⟩,
    fun tag lead cool s w => ⟨fun good => takenOk_request w rfl (if_pos (engineSet_inRange.2 good)),
      fun bad => refused_request w rfl (if_neg (mt engineSet_inRange.1 bad))⟩⟩,
    fun e t h => ⟨?stops, ?starts, ?rests, idleStep_settled⟩, fun t s => ?expiry⟩
  case' expiry =>
    have expiry {k : Hall} (w : idleExpiry t s.env s.hall = k) : Completes (.idleTimerExpiry t) s { s with hall := k } :=
      completes_happen rfl (congrArg (fun h => { s with hall := h }) w)
    refine ⟨?quiet, ?again, ?spent, ?cools, ?cooled⟩
  case due => exact occDue_iff.trans (by rw [occHeld_iff])
  case scan =>
    intro running set active
    exact ⟨scanCands e h n, scan_runs running set active, fun c => mem_scanCands, sortBy_sorted candBefore_irrefl candBefore_trans _⟩
  case passed =>
    intro out
    exact (admitCand_known known).trans (if_neg (Bool.eq_false_iff.1 out))
  case admits =>
    intro is
    exact (admitCand_known known).trans (if_pos is)
  case deferred => exact fun r => allocateNew_deferred permitted
  case busy => exact allocateNew_busy permitted
  case create => exact allocateNew_creates permitted
  case preempt =>
    obtain ⟨busy, outputBusy, preempts⟩ := allocateNew_preempts permitted found
    refine ⟨fun tx => busy (mt txVictimOk_iff.1 tx), fun tx out => outputBusy (txVictimOk_iff.2 tx) (mt outVictimOk_iff.1 out),
      fun tx out => ?_⟩
    have done := preempts (txVictimOk_iff.2 tx) (outVictimOk_iff.2 out)
    obtain ⟨common, alone, opposed⟩ := preempt_clauses (e := e) (base := entryParams en) out
    refine ⟨done ▸ common.told, done ▸ common.idle, fun v x hv hx => done ▸ common.item hv hx, done ▸ alone,
      fun u own other => ?_⟩
    exact done ▸ opposed u own other
  case stops =>
    intro stops
    exact idleStep_stops (idleStopped_iff.2 stops)
  case starts =>
    intro runs starts
    exact (idleStep_runs (mt idleStopped_iff.1 runs)).trans (if_pos starts)
  case rests =>
    intro runs rests
    exact (idleStep_runs (mt idleStopped_iff.1 runs)).trans (if_neg rests)
  case quiet => exact fun due => expiry (idleExpiry_idle due)
  case again => exact fun due named cool => expiry ((idleExpiry_named due named).trans (congrArg _ (if_neg cool)))
  case spent => exact fun due named cool => expiry ((idleExpiry_named due named).trans (congrArg _ (if_pos cool)))
  case cools => exact fun due unnamed => expiry (idleExpiry_cools due unnamed)
  case cooled => exact fun due unnamed st out => expiry (cool_idle_spent due unnamed st out)

end
end Sys2Proof.Proofs
